-- ==== Sys2Proof/Word.lean ====
section
/-! DEFINITION. The word types of the module (R9, R11: bit 0 is the least significant bit, control registers are
64 bits wide) and the one sparse table every array of the machine is kept in. -/

namespace Sys2Proof

/-- A 64-bit word: a g register, a control register, an 8-byte memory word. -/
abbrev Word := BitVec 64
/-- One byte, the smallest addressable unit (R10). -/
abbrev Byte := BitVec 8
/-- A SIMD register (R73). -/
abbrev VWord := BitVec 256

/-- A sparse array: pairs of an index and a value, indices strictly rising, no value equal to the array's default. -/
abbrev Tab (α : Type) := List (Nat × α)

namespace Tab
variable {α : Type}

/-- The value at index `k`: the listed one, or the default `d`. -/
def get (d : α) : Tab α → Nat → α
  | [], _ => d
  | (i, v) :: rest, k => if i = k then v else get d rest k

/-- Removes index `k`. -/
def erase : Tab α → Nat → Tab α
  | [], _ => []
  | (i, v) :: rest, k => if i = k then erase rest k else (i, v) :: erase rest k

/-- Lists index `k` with value `x`, in its place. -/
def insert : Tab α → Nat → α → Tab α
  | [], k, x => [(k, x)]
  | (i, v) :: rest, k, x =>
    if k < i then (k, x) :: (i, v) :: rest
    else if i = k then (k, x) :: rest
    else (i, v) :: insert rest k x

/-- The array with `x` at index `k`; writing the default removes the entry, so that equal arrays are equal lists. -/
def set [DecidableEq α] (d : α) (t : Tab α) (k : Nat) (x : α) : Tab α :=
  if x = d then erase t k else insert t k x

/-- Every listed index lies above `b`, in strictly rising order. -/
def above : Nat → Tab α → Bool
  | _, [] => true
  | b, (i, _) :: rest => decide (b < i) && above i rest

/-- Indices strictly rising. -/
def rising : Tab α → Bool
  | [] => true
  | (i, _) :: rest => above i rest

/-- The canonical form: indices strictly rising and no value equal to the default. -/
def canon [DecidableEq α] (d : α) (t : Tab α) : Bool :=
  rising t && t.all (fun p => decide (p.2 ≠ d))

/-- The array of length `n` whose element `k` is `f k`, in canonical form. -/
def build [DecidableEq α] (d : α) (n : Nat) (f : Nat → α) : Tab α :=
  (List.range n).filterMap (fun k => if f k = d then none else some (k, f k))

end Tab
end Sys2Proof
end

