-- ==== Sys2Proof/Syntax.lean ====
section
/-! DEFINITION. The commands of the block: one constructor of `Instr` per row of spec/opcode_table.json, with the
operands the row's step needs. A command whose row is a Tug instruction carries the thread that issues it and the
fields of its word (Table 03-5); a command whose row is an event carries what the surroundings present with it. -/

namespace Sys2Proof

/-- A module-wide thread index (R67). -/
abbrev Tid := Fin 512
/-- A module-wide Crane index (R5). -/
abbrev CraneIx := Fin 16
/-- A module-wide Barge index (R5). -/
abbrev BargeIx := Fin 64
/-- A module-wide Quay port (R299). -/
abbrev PortIx := Fin 32
/-- A g or v register number. -/
abbrev RegIx := Fin 32
/-- A die number (R5). -/
abbrev Die := Fin 2
/-- A byte address of the device address space (R10, R269). -/
abbrev Addr := BitVec 48

/-- Who makes a control-space access (R12): firmware, the host through BAR0, or a job thread. -/
inductive Agent where
  | fw
  | host
  | job (t : Tid)
  deriving DecidableEq, Repr

/-- Scalar floating-point size: `.d` binary64, `.s` binary32 (Table 03-9). -/
inductive FSize where
  | d
  | s
  deriving DecidableEq, Repr

/-- Size of an atomic (Table 03-8): 4 or 8 bytes. -/
inductive AmoSize where
  | w
  | d
  deriving DecidableEq, Repr

/-- The two queues of a Crane (R94, R122). -/
inductive Queue where
  | fg
  | bg
  deriving DecidableEq, Repr

/-- The operands of a SIMD word (format V): thread, vd, va, vb, vfunc[7] (the second operand is a g register) and etype. -/
structure VOp where
  t : Tid
  vd : RegIx
  va : RegIx
  vb : RegIx
  sc : Bool
  et : BitVec 3
  deriving DecidableEq, Repr

/-- Why an instruction is illegal (TUG_FAULT.cause, Table 03-17). -/
inductive IllCause where
  | reserved
  | zeroWord
  | fetchDenied
  deriving DecidableEq, Repr

/-- A cell: the fields of its header, payload before padding and trailer (R309), and whether it was received with a failed
check or an uncorrectable FEC codeword (R313). -/
structure Cell where
  stream : BitVec 16
  typ : BitVec 8
  flags : BitVec 8
  lseq : BitVec 32
  cidx : BitVec 32
  run : BitVec 16
  aux : Word
  payload : List Byte
  ack : BitVec 32
  bad : Bool
  deriving DecidableEq, Repr

/-- The payload of a TIME cell (Table 11-6). -/
structure TimeCell where
  txNs : Word
  txPs : BitVec 16
  hops : BitVec 16
  lock : BitVec 8
  role : BitVec 8
  tseq : BitVec 16
  echoTxNs : Word
  echoTxPs : BitVec 16
  echoTseq : BitVec 16
  echoRxNs : Word
  echoRxPs : BitVec 16
  deriving DecidableEq, Repr

/-- The fields of a HOLD cell (R54, R319). -/
structure HoldReq where
  origin : BitVec 16
  q : BitVec 8
  tr : Word
  b : Word
  deriving DecidableEq, Repr

/-- The fields of an IDENT cell (Table 11-3); `ident` is recorded for service and not checked (R307). -/
structure IdentCell where
  hallTag : BitVec 32
  moduleIndex : BitVec 16
  port : BitVec 8
  dir : BitVec 8
  ident : List Byte
  deriving DecidableEq, Repr

/-- The table-entry kinds a late start can concern (Table 02-6). -/
inductive EntryKind where
  | quayTx
  | quayRx
  | barge
  | craneBg
  | ballast
  | marker
  deriving DecidableEq, Repr

/-- Which input of the Lighthouse port (R34). -/
inductive RefInput where
  | tenMHz
  | onePps
  | timeOfDay
  deriving DecidableEq, Repr

/-- What ends a job as a program fault (R102, Table 13-5). -/
inductive ProgFault where
  | tug (die : Die)
  | crane (c : CraneIx)
  | barge (die : Die)
  | storageDigest
  deriving DecidableEq, Repr

/-- What a lane shows (R303). -/
inductive LaneSign where
  | lossOfSignal
  | uncorrectableFec
  | highErrorRatio
  deriving DecidableEq, Repr

/-- A merge (R202): the factor by its layer, side (`g` for the G side) and facet number, and where the reduced statistics lie:
the off-diagonal values and the diagonal (binary32 arrays), and the auxiliary record that carries N and the taint (R328). -/
structure MergeOp where
  layer : BitVec 32
  g : Bool
  facet : BitVec 16
  offDiag : Addr
  diag : Addr
  aux : Addr
  deriving DecidableEq, Repr

/-- The operands of a GPACK (R250): addresses of x, the codes, the scales and the status record; the step, and the panel by its
layer and place. -/
structure GpackOp where
  die : Die
  x : Addr
  codes : Addr
  scales : Addr
  nsr : Addr
  step : BitVec 32
  layer : BitVec 32
  f : BitVec 16
  g : BitVec 16
  deriving DecidableEq, Repr

/-- The operands of an UPDATE (R255 to R257): the Ledger record of its panel and, for a job of one module, where GPACK left the
panel's codes and scales and the auxiliary record with its divisor (R252, R253). -/
structure UpdateOp where
  die : Die
  index : BitVec 16
  codes : Addr
  scales : Addr
  aux : Addr
  deriving DecidableEq, Repr

/-- The operands of an EMIT (R265): the Ledger record of its panel. -/
structure EmitOp where
  die : Die
  index : BitVec 16
  deriving DecidableEq, Repr

/-- What protects a read meets at a byte (R273, R279): a corrected error, a transfer replayed 1 to 4 times, an error that cannot be
corrected, or a transfer that still fails after 4 replays. -/
inductive MemErrKind where
  | corrected
  | replayed (n : Fin 4)
  | uncorrectable
  | replaysFailed
  deriving DecidableEq, Repr

structure MemErr where
  addr : Addr
  kind : MemErrKind
  deriving DecidableEq, Repr

/-- Where firmware places a facet of a refresh cycle to be solved (R232, Table 08-5): its place among the layer's owned factors, the
address of its facet entry, and the areas b, x, m, s1, s2 and r. -/
structure FacetPlace where
  slot : Nat
  entry : Addr
  b : BitVec 32
  x : BitVec 32
  m : BitVec 32
  s1 : BitVec 32
  s2 : BitVec 32
  r : BitVec 32
  deriving DecidableEq, Repr

/-- An entry of a repair record (R455): kind, die, unit, index and aux. -/
structure RepairEntry where
  kind : Nat
  die : Nat
  unit : Nat
  index : Nat
  aux : Nat
  deriving DecidableEq, Repr

/-- What a start-up stage finds (R443, Table 17-4): GDDR7 devices trained per die, serials of the fitted engines, and faults
of the self-test. -/
structure BootObs where
  gddr0 : Nat
  gddr1 : Nat
  engines : List Nat
  faults : List RepairEntry
  deriving DecidableEq, Repr

/-- What the storage holds where a Manifest is named (R334, R345): the Manifest's bytes, and whether every Read of its load
completed (R344). -/
structure LoadObs where
  manifest : List Byte
  readsOk : Bool
  deriving DecidableEq, Repr

/-- An accepted switch of the switch log (R352). -/
structure SwitchRec where
  effStep : BitVec 32
  effMbatch : BitVec 16
  version : BitVec 32
  digest : List Byte
  deriving DecidableEq, Repr

/-- What a Warehouse port finds at its link (R372, R373). -/
structure ExpanderObs where
  l0In100ms : Bool
  width : Nat
  speed : Nat
  reversed : Bool
  isCxl : Bool
  sldType3 : Bool
  capGib : Nat
  deriving DecidableEq, Repr

/-- The commands. The comment over each group names the chapter its rows come from. -/
inductive Instr where
  -- 00, 02: registers, the Tide, the Lighthouse
  | registerWrite (who : Agent) (off : BitVec 26) (bytes : Nat) (value hwSet hwClear : Word)
  | acquireEntry (port : PortIx) (parentTime : Word) (parentHops : Nat)
  | steerUpdate (offset : Int)
  | parentLinkFail (port : PortIx)
  | tideLoss
  | referenceLoss (which : RefInput) (standbyValid : Bool)
  | referenceRestored
  | lighthouseTimeCellTimeout
  | lighthouseHandover
  | ptpMessageReceive (valid : Bool) (tai : Word)
  | timeCellSend (port : PortIx)
  | timeCellReceive (port : PortIx) (wire : List Byte) (fec : Bool) (rxPs : BitVec 16)
  -- 02: schedule, holds, staging
  | slotBoundary
  | quayTx (port : PortIx)
  | quayRx (port : PortIx)
  | barge (b : BargeIx)
  | craneBg (c : CraneIx)
  | ballast (c : CraneIx)
  | marker
  | dropRecordFinal
  | entryLateStart (kind : EntryKind) (unit : Nat)
  | holdRequestRaise (kind : EntryKind) (unit : Nat) (stream : BitVec 16) (predicted : Word)
  | holdCellReceive (port : PortIx) (wire : List Byte) (fec : Bool)
  | holdLatch
  | holdStart
  | holdEnd
  | shadowWrite (off : BitVec 26) (value : Word)
  | stageCheck (who : Agent) (groups : BitVec 5)
  | stageCheckComplete
  | stageArm (who : Agent)
  | stageAbort (who : Agent)
  | stageCommit
  -- 03: Tug instructions
  | ill (t : Tid) (cause : IllCause)
  | programFaultEnd (f : ProgFault)
  | add (t : Tid) (rd ra rb : RegIx)
  | sub (t : Tid) (rd ra rb : RegIx)
  | and (t : Tid) (rd ra rb : RegIx)
  | or (t : Tid) (rd ra rb : RegIx)
  | xor (t : Tid) (rd ra rb : RegIx)
  | sll (t : Tid) (rd ra rb : RegIx)
  | srl (t : Tid) (rd ra rb : RegIx)
  | sra (t : Tid) (rd ra rb : RegIx)
  | slt (t : Tid) (rd ra rb : RegIx)
  | sltu (t : Tid) (rd ra rb : RegIx)
  | min (t : Tid) (rd ra rb : RegIx)
  | max (t : Tid) (rd ra rb : RegIx)
  | minu (t : Tid) (rd ra rb : RegIx)
  | maxu (t : Tid) (rd ra rb : RegIx)
  | mul (t : Tid) (rd ra rb : RegIx)
  | mulh (t : Tid) (rd ra rb : RegIx)
  | mulhu (t : Tid) (rd ra rb : RegIx)
  | div (t : Tid) (rd ra rb : RegIx)
  | divu (t : Tid) (rd ra rb : RegIx)
  | rem (t : Tid) (rd ra rb : RegIx)
  | remu (t : Tid) (rd ra rb : RegIx)
  | addw (t : Tid) (rd ra rb : RegIx)
  | subw (t : Tid) (rd ra rb : RegIx)
  | clz (t : Tid) (rd ra : RegIx)
  | ctz (t : Tid) (rd ra : RegIx)
  | popc (t : Tid) (rd ra : RegIx)
  | addi (t : Tid) (rd ra : RegIx) (imm : BitVec 16)
  | andi (t : Tid) (rd ra : RegIx) (imm : BitVec 16)
  | ori (t : Tid) (rd ra : RegIx) (imm : BitVec 16)
  | xori (t : Tid) (rd ra : RegIx) (imm : BitVec 16)
  | slti (t : Tid) (rd ra : RegIx) (imm : BitVec 16)
  | shi (t : Tid) (rd ra : RegIx) (imm : BitVec 16)
  | lui (t : Tid) (rd : RegIx) (imm : BitVec 16)
  | lsh16 (t : Tid) (rd ra : RegIx) (imm : BitVec 16)
  | ld (t : Tid) (rd ra : RegIx) (imm : BitVec 16)
  | lw (t : Tid) (rd ra : RegIx) (imm : BitVec 16)
  | lwu (t : Tid) (rd ra : RegIx) (imm : BitVec 16)
  | lh (t : Tid) (rd ra : RegIx) (imm : BitVec 16)
  | lhu (t : Tid) (rd ra : RegIx) (imm : BitVec 16)
  | lb (t : Tid) (rd ra : RegIx) (imm : BitVec 16)
  | lbu (t : Tid) (rd ra : RegIx) (imm : BitVec 16)
  | sd (t : Tid) (rs ra : RegIx) (imm : BitVec 16)
  | sw (t : Tid) (rs ra : RegIx) (imm : BitVec 16)
  | sh (t : Tid) (rs ra : RegIx) (imm : BitVec 16)
  | sb (t : Tid) (rs ra : RegIx) (imm : BitVec 16)
  | amoswap (t : Tid) (rd ra rb : RegIx) (sz : AmoSize) (aq rl : Bool)
  | amoadd (t : Tid) (rd ra rb : RegIx) (sz : AmoSize) (aq rl : Bool)
  | amoand (t : Tid) (rd ra rb : RegIx) (sz : AmoSize) (aq rl : Bool)
  | amoor (t : Tid) (rd ra rb : RegIx) (sz : AmoSize) (aq rl : Bool)
  | amomax (t : Tid) (rd ra rb : RegIx) (sz : AmoSize) (aq rl : Bool)
  | amomin (t : Tid) (rd ra rb : RegIx) (sz : AmoSize) (aq rl : Bool)
  | amomaxu (t : Tid) (rd ra rb : RegIx) (sz : AmoSize) (aq rl : Bool)
  | amominu (t : Tid) (rd ra rb : RegIx) (sz : AmoSize) (aq rl : Bool)
  | amocas (t : Tid) (rd ra rb : RegIx) (sz : AmoSize) (aq rl : Bool)
  | beq (t : Tid) (ra rb : RegIx) (imm : BitVec 16)
  | bne (t : Tid) (ra rb : RegIx) (imm : BitVec 16)
  | blt (t : Tid) (ra rb : RegIx) (imm : BitVec 16)
  | bge (t : Tid) (ra rb : RegIx) (imm : BitVec 16)
  | bltu (t : Tid) (ra rb : RegIx) (imm : BitVec 16)
  | bgeu (t : Tid) (ra rb : RegIx) (imm : BitVec 16)
  | j (t : Tid) (imm : BitVec 26)
  | jal (t : Tid) (imm : BitVec 26)
  | jalr (t : Tid) (rd ra : RegIx) (imm : BitVec 16)
  | fadd (t : Tid) (sz : FSize) (rd ra rb : RegIx)
  | fsub (t : Tid) (sz : FSize) (rd ra rb : RegIx)
  | fmul (t : Tid) (sz : FSize) (rd ra rb : RegIx)
  | fdiv (t : Tid) (sz : FSize) (rd ra rb : RegIx)
  | fsqrt (t : Tid) (sz : FSize) (rd ra : RegIx)
  | fmin (t : Tid) (sz : FSize) (rd ra rb : RegIx)
  | fmax (t : Tid) (sz : FSize) (rd ra rb : RegIx)
  | fmadd (t : Tid) (sz : FSize) (rd ra rb : RegIx)
  | fcvtSD (t : Tid) (rd ra : RegIx)
  | fcvtDS (t : Tid) (rd ra : RegIx)
  | fcvtLD (t : Tid) (rd ra : RegIx)
  | fcvtDL (t : Tid) (rd ra : RegIx)
  | fcvtBfS (t : Tid) (rd ra : RegIx)
  | feqD (t : Tid) (rd ra rb : RegIx)
  | fltD (t : Tid) (rd ra rb : RegIx)
  | fleD (t : Tid) (rd ra rb : RegIx)
  | vadd (o : VOp)
  | vsub (o : VOp)
  | vmul (o : VOp)
  | vfma (o : VOp)
  | vmin (o : VOp)
  | vmax (o : VOp)
  | vdiv (o : VOp)
  | vsqrt (o : VOp)
  | vand (o : VOp)
  | vor (o : VOp)
  | vxor (o : VOp)
  | vshl (o : VOp)
  | vshr (o : VOp)
  | vsra (o : VOp)
  | vceq (o : VOp)
  | vclt (o : VOp)
  | vcle (o : VOp)
  | vsel (o : VOp)
  | vredadd (o : VOp)
  | vredmax (o : VOp)
  | vcvt (o : VOp)
  | vpack8e (o : VOp)
  | vpack8g (o : VOp)
  | vpack8gs (o : VOp)
  | vunpack8e (o : VOp)
  | vunpack8g (o : VOp)
  | vperm (o : VOp)
  | vbcast (o : VOp)
  | vext (o : VOp)
  | vld (t : Tid) (vd ra : RegIx) (imm : BitVec 16)
  | vst (t : Tid) (vs ra : RegIx) (imm : BitVec 16)
  | rdsr (t : Tid) (rd : RegIx) (imm : BitVec 12)
  | wrsr (t : Tid) (ra : RegIx) (imm : BitVec 12)
  | fence (t : Tid) (imm : BitVec 12)
  | tidewait (t : Tid) (ra : RegIx)
  | slotwait (t : Tid) (ra : RegIx)
  | yield (t : Tid)
  | halt (t : Tid)
  | tstart (t : Tid) (ra rb : RegIx)
  | tstop (t : Tid) (ra : RegIx)
  | cissue (t : Tid) (rd ra rb : RegIx)
  | cwait (t : Tid) (ra rb : RegIx)
  | cqdepth (t : Tid) (rd ra : RegIx)
  -- 03: events of the Tugs
  | tidewaitComplete (t : Tid)
  | slotwaitComplete (t : Tid)
  | cwaitComplete (t : Tid)
  | cissueAccept (t : Tid)
  | loadDataReturn (tug : Fin 128) (slot : Nat) (errs : List MemErr)
  | storePerformed (tug : Fin 128) (slot : Nat)
  | fetchMissFill (t : Tid) (errs : List MemErr)
  | requestSlotFree (t : Tid)
  | timesliceExpiry (t : Tid)
  -- 04, 06: the Cranes
  | commandWordArrival (c : CraneIx)
  | craneCommandIssue (c : CraneIx) (q : Queue)
  | craneDescriptorArrival (c : CraneIx) (q : Queue) (errs : List MemErr)
  | mma (c : CraneIx) (q : Queue)
  | gather (c : CraneIx) (q : Queue)
  | spill (c : CraneIx) (q : Queue)
  | zero (c : CraneIx) (q : Queue)
  | loadacc (c : CraneIx) (q : Queue)
  | drain (c : CraneIx) (q : Queue)
  | topk (c : CraneIx) (q : Queue)
  | rootns (c : CraneIx)
  | chol (c : CraneIx)
  | pivot (c : CraneIx) (q : Queue)
  | mark (c : CraneIx) (q : Queue)
  | drainInterlockRelease (c : CraneIx) (bank : Bool)
  | automaticSpill (c : CraneIx) (q : Queue)
  | craneRetire (c : CraneIx) (q : Queue)
  | bank1Release (c : CraneIx)
  | bgListFetch (c : CraneIx)
  | actTableWrite (who : Agent) (c : CraneIx) (slot : Fin 4) (n : Fin 193) (value : Word)
  | actTableWriteRelease (c : CraneIx) (slot : Fin 4)
  -- 07, 08: statistics and roots
  | factorMerge (o : MergeOp)
  | refreshCycleStart (layer step : BitVec 32) (places : List FacetPlace)
  | rootBankSwap (layer : BitVec 32)
  | solveRetry (layer : BitVec 32) (slot : BitVec 16)
  | sketchRoot (layer : BitVec 32) (g : Bool)
  | diagonalRoot (layer : BitVec 32) (g : Bool)
  -- 09: update unit and Ledger
  | gpack (o : GpackOp)
  | update (o : UpdateOp)
  | emit (o : EmitOp)
  | ledgerUpdRelease (die : Die)
  | updateOpRetire (die : Die)
  | ledgerFlip (index : BitVec 16)
  | flipPerformed
  -- 10: Barges and the Hold
  | bargeStart (who : Agent) (die : Die) (stream : BitVec 16) (b : Fin 32)
  | bargeStartRelease (b : BargeIx)
  | bargeStreamStart (b : BargeIx) (errs : List MemErr)
  | bargeGatePoll (b : BargeIx) (errs : List MemErr)
  | bargeStreamComplete (b : BargeIx)
  | patrolScrub (die : Die) (corrected uncorrectable : List Nat)
  | holdRemap (die : Die) (page : BitVec 36)
  -- 12: storage
  | storageReadComplete (b : BargeIx) (read : Nat) (ok : Bool) (data : List Byte)
  | storageReadTimeout (b : BargeIx) (read : Nat)
  -- 13: the host link
  | hostMemRead (hpa : BitVec 52) (len : Nat) (errs : List MemErr)
  | hostMemWrite (hpa : BitVec 52) (data : List Byte) (poisoned : Bool)
  | hdmDecoderCommit (base : BitVec 52)
  | hostLinkReset
  | identifyMemoryDevice
  | getSupportedLogs
  | getLog
  | getHealthInfo
  | getEventRecords
  | clearEventRecords
  | getTimestamp
  | setTimestamp (ts : Word)
  | unsupportedMailboxCommand (opcode : BitVec 16)
  | warehousePortQualify (p : Fin 4) (o : ExpanderObs)
  | warehouseLinkFailure (p : Fin 4)
  -- 11: the Quays
  | portSignalDetect (p : PortIx) (lanes : Nat)
  | trainingComplete (p : PortIx) (fecLocked : Bool)
  | linkLoss (p : PortIx)
  | identSend (p : PortIx)
  | identReceive (p : PortIx) (wire : List Byte) (fec : Bool)
  | laneFault (p : PortIx) (lane : Fin 9) (sign : LaneSign) (spareHealthy : Bool)
  | cellTransmit (p : PortIx)
  | dataCellReceive (p : PortIx) (wire : List Byte) (fec buffer : Bool)
  | linkCellReceive (p : PortIx) (wire : List Byte) (fec : Bool)
  | ackTimeout (p : PortIx)
  | quayGatePoll (p : PortIx)
  -- 12, 13: the Manifest and the launch
  | manifestSwitch (o : LoadObs)
  | launchPagePoll
  | prepare (o : LoadObs)
  | arm
  | abort
  | endCmd
  | launchCommit
  | endInstant
  | jobEnded
  -- 14: securing and restore
  | secureGenerationComplete (ward : Bool) (step : BitVec 32)
  | partnerConfirmation (step : BitVec 32)
  | restoreComplete (log : List SwitchRec) (before after : LoadObs)
  -- 15: performance monitoring
  | perfSnap
  | perfClear
  | perfArm (action : BitVec 2)
  | snapAction
  | startAction
  | stopAction
  | perfCtrWrite (n : Fin 8) (value : BitVec 48)
  | counterOverflow (n : Fin 8) (inc : Nat)
  | samplingEnable (tugEn craneEn : Bool)
  | tugSampleSelect (tug : Fin 128) (t : Tid) (word : BitVec 32) (addr : Word) (tier : Nat)
  | craneSampleSelect (c : CraneIx) (q : Queue)
  | sampleRecordWrite (kind : Bool) (unit : Nat) (latency : BitVec 32) (stalled : BitVec 32) (flags : BitVec 8)
  -- 16, 17: power, start-up, security, service
  | powerApply (centivolts : Nat)
  | powerPhaseAdvance
  | inputUndervoltage (centivolts : Nat)
  | inputOvervoltage (centivolts : Nat) (forOneMs : Bool)
  | reversePolarity (centivolts : Nat)
  | sensePinOpen (watts : Nat)
  | railShort
  | dieOvertemp (die : Die) (celsius : Nat)
  | dieCriticalTemp (die : Die) (celsius : Nat)
  | coolantFlowLow (flow : Nat)
  | coolantInletHigh (celsius : Nat)
  | thermalWarning (celsius : Nat)
  | ballastSlewBoundary
  | pwrStanddown
  | standdownStage
  | romCoreTestTimeout
  | bootStage (o : BootObs)
  | fuseAdvance
  | secExtGo (index : Fin 4)
  | hall
  | attest
  | fwupdate
  | svcDrain
  | drainArm
  | engineOut
  | engineIn (serial : Word) (calibrated : Bool)
  | standdown
  | firmwareActivation
  | engineLatchOpen (e : Fin 8)
  | referenceInputChange (which : RefInput) (valid : Bool)
  | laneSwitchRetrainComplete (p : PortIx)
  | signingEngineRequestComplete
  | storageLinkChange (port : Fin 2) (linkUp : Bool) (connected : BitVec 16) (reconnected : Nat)
  deriving DecidableEq, Repr

end Sys2Proof
end

