-- ==== Sys2Proof/Decode.lean ====
section
/-! DEFINITION. spec/opcode_table.json gives no row any bits, so no table word spells a command. The instruction words that a
Tug fetches from memory have the formats of Table 03-5; `decodeFlx` reads them, and a thread's command is carried out only
where its fetched word decodes to it (Machine/Operands.lean). -/

namespace Sys2Proof

/-- The command a table word spells: none, because the table gives no row bits. -/
def decodeTableWord (_nbits _w : Nat) : Option Instr := none

/-! Fields of an instruction word (Table 03-5). -/

/-- Bits [lo + n - 1 : lo] of a word. -/
def wordBits (w : BitVec 32) (lo n : Nat) : Nat := w.toNat / 2 ^ lo % 2 ^ n

/-- The register field at a bit: [10:6], [15:11] or [20:16]. -/
def regField (w : BitVec 32) (lo : Nat) : RegIx := Fin.ofNat 32 (wordBits w lo 5)

def imm16Of (w : BitVec 32) : BitVec 16 := w.extractLsb' 16 16
def imm26Of (w : BitVec 32) : BitVec 26 := w.extractLsb' 6 26
def imm12Of (w : BitVec 32) : BitVec 12 := w.extractLsb' 16 12

/-- The operands of a SIMD word: vfunc[7] makes vb a g register (R84). -/
def vopOf (t : Tid) (w : BitVec 32) : VOp :=
  ⟨t, regField w 6, regField w 11, regField w 16, decide (wordBits w 31 1 = 1), w.extractLsb' 21 3⟩

/-! The operations of each major opcode; none where the function value is reserved (R76). -/

/-- Integer operations, op 0x01 (Table 03-7). -/
def decodeAlu (t : Tid) (w : BitVec 32) : Option Instr :=
  let rd := regField w 6
  let ra := regField w 11
  let rb := regField w 16
  match wordBits w 21 11 with
  | 0x000 => some (.add t rd ra rb)
  | 0x001 => some (.sub t rd ra rb)
  | 0x002 => some (.and t rd ra rb)
  | 0x003 => some (.or t rd ra rb)
  | 0x004 => some (.xor t rd ra rb)
  | 0x005 => some (.sll t rd ra rb)
  | 0x006 => some (.srl t rd ra rb)
  | 0x007 => some (.sra t rd ra rb)
  | 0x008 => some (.slt t rd ra rb)
  | 0x009 => some (.sltu t rd ra rb)
  | 0x00A => some (.min t rd ra rb)
  | 0x00B => some (.max t rd ra rb)
  | 0x00C => some (.minu t rd ra rb)
  | 0x00D => some (.maxu t rd ra rb)
  | 0x010 => some (.mul t rd ra rb)
  | 0x011 => some (.mulh t rd ra rb)
  | 0x012 => some (.mulhu t rd ra rb)
  | 0x014 => some (.div t rd ra rb)
  | 0x015 => some (.divu t rd ra rb)
  | 0x016 => some (.rem t rd ra rb)
  | 0x017 => some (.remu t rd ra rb)
  | 0x020 => some (.addw t rd ra rb)
  | 0x021 => some (.subw t rd ra rb)
  | 0x030 => some (.clz t rd ra)
  | 0x031 => some (.ctz t rd ra)
  | 0x032 => some (.popc t rd ra)
  | _ => none

/-- The size of an atomic: func bits [5:4]. -/
def amoSizeOf (w : BitVec 32) : Option AmoSize :=
  match wordBits w 25 2 with
  | 2 => some .w
  | 3 => some .d
  | _ => none

/-- The atomic of an operation code (Table 03-8). -/
def amoOf (t : Tid) (rd ra rb : RegIx) (sz : AmoSize) (aq rl : Bool) (aop : Nat) : Option Instr :=
  match aop with
  | 0 => some (.amoswap t rd ra rb sz aq rl)
  | 1 => some (.amoadd t rd ra rb sz aq rl)
  | 2 => some (.amoand t rd ra rb sz aq rl)
  | 3 => some (.amoor t rd ra rb sz aq rl)
  | 4 => some (.amomax t rd ra rb sz aq rl)
  | 5 => some (.amomin t rd ra rb sz aq rl)
  | 6 => some (.amomaxu t rd ra rb sz aq rl)
  | 7 => some (.amominu t rd ra rb sz aq rl)
  | 8 => some (.amocas t rd ra rb sz aq rl)
  | _ => none

/-- Atomics, op 0x1C (Table 03-8): func bits [10:8] are zero. -/
def decodeAmo (t : Tid) (w : BitVec 32) : Option Instr :=
  if wordBits w 29 3 ≠ 0 then none
  else
    match amoSizeOf w with
    | none => none
    | some sz =>
      amoOf t (regField w 6) (regField w 11) (regField w 16) sz (decide (wordBits w 27 1 = 1)) (decide (wordBits w 28 1 = 1))
        (wordBits w 21 4)

/-- Arithmetic of a scalar size by func bits [3:0] (Table 03-9). -/
def fpuArith (t : Tid) (sz : FSize) (rd ra rb : RegIx) (f : Nat) : Option Instr :=
  match f with
  | 0 => some (.fadd t sz rd ra rb)
  | 1 => some (.fsub t sz rd ra rb)
  | 2 => some (.fmul t sz rd ra rb)
  | 3 => some (.fdiv t sz rd ra rb)
  | 4 => some (.fsqrt t sz rd ra)
  | 5 => some (.fmin t sz rd ra rb)
  | 6 => some (.fmax t sz rd ra rb)
  | 7 => some (.fmadd t sz rd ra rb)
  | _ => none

/-- Scalar floating point, op 0x30 (Table 03-9). -/
def decodeFpu (t : Tid) (w : BitVec 32) : Option Instr :=
  let rd := regField w 6
  let ra := regField w 11
  let rb := regField w 16
  let f := wordBits w 21 11
  if f < 0x10 then fpuArith t .d rd ra rb f
  else if f < 0x20 then fpuArith t .s rd ra rb (f - 0x10)
  else
    match f with
    | 0x020 => some (.fcvtSD t rd ra)
    | 0x021 => some (.fcvtDS t rd ra)
    | 0x022 => some (.fcvtLD t rd ra)
    | 0x023 => some (.fcvtDL t rd ra)
    | 0x024 => some (.fcvtBfS t rd ra)
    | 0x028 => some (.feqD t rd ra rb)
    | 0x029 => some (.fltD t rd ra rb)
    | 0x02A => some (.fleD t rd ra rb)
    | _ => none

/-- SIMD operations, op 0x38: vfunc[6:0] selects (Table 03-10). -/
def decodeSimd (t : Tid) (w : BitVec 32) : Option Instr :=
  let o := vopOf t w
  match wordBits w 24 7 with
  | 0x00 => some (.vadd o)
  | 0x01 => some (.vsub o)
  | 0x02 => some (.vmul o)
  | 0x03 => some (.vfma o)
  | 0x04 => some (.vmin o)
  | 0x05 => some (.vmax o)
  | 0x06 => some (.vdiv o)
  | 0x07 => some (.vsqrt o)
  | 0x08 => some (.vand o)
  | 0x09 => some (.vor o)
  | 0x0A => some (.vxor o)
  | 0x0B => some (.vshl o)
  | 0x0C => some (.vshr o)
  | 0x0D => some (.vsra o)
  | 0x10 => some (.vceq o)
  | 0x11 => some (.vclt o)
  | 0x12 => some (.vcle o)
  | 0x13 => some (.vsel o)
  | 0x18 => some (.vredadd o)
  | 0x19 => some (.vredmax o)
  | 0x20 => some (.vcvt o)
  | 0x21 => some (.vpack8e o)
  | 0x22 => some (.vpack8g o)
  | 0x23 => some (.vpack8gs o)
  | 0x24 => some (.vunpack8e o)
  | 0x25 => some (.vunpack8g o)
  | 0x28 => some (.vperm o)
  | 0x30 => some (.vbcast o)
  | 0x31 => some (.vext o)
  | _ => none

/-- System operations, op 0x3C: sfunc selects (Table 03-11). -/
def decodeSys (t : Tid) (w : BitVec 32) : Option Instr :=
  let rd := regField w 6
  let ra := regField w 11
  match wordBits w 28 4 with
  | 0x0 => some (.rdsr t rd (imm12Of w))
  | 0x1 => some (.wrsr t ra (imm12Of w))
  | 0x2 => some (.fence t (imm12Of w))
  | 0x3 => some (.tidewait t ra)
  | 0x4 => some (.slotwait t ra)
  | 0x5 => some (.yield t)
  | 0x6 => some (.halt t)
  | 0x8 => some (.tstart t ra (regField w 16))
  | 0x9 => some (.tstop t ra)
  | _ => none

/-- Crane queue operations, op 0x3E (Table 03-12). -/
def decodeCrane (t : Tid) (w : BitVec 32) : Option Instr :=
  let rd := regField w 6
  let ra := regField w 11
  let rb := regField w 16
  match wordBits w 21 11 with
  | 0x000 => some (.cissue t rd ra rb)
  | 0x001 => some (.cwait t ra rb)
  | 0x002 => some (.cqdepth t rd ra)
  | _ => none

/-- The operation of a word by its major opcode in bits [5:0] (Table 03-6); none where the word is reserved. -/
def decodeOp (t : Tid) (w : BitVec 32) : Option Instr :=
  let rd := regField w 6
  let ra := regField w 11
  let imm := imm16Of w
  match wordBits w 0 6 with
  | 0x01 => decodeAlu t w
  | 0x02 => some (.addi t rd ra imm)
  | 0x03 => some (.andi t rd ra imm)
  | 0x04 => some (.ori t rd ra imm)
  | 0x05 => some (.xori t rd ra imm)
  | 0x06 => some (.slti t rd ra imm)
  | 0x07 => some (.shi t rd ra imm)
  | 0x08 => some (.lui t rd imm)
  | 0x09 => some (.lsh16 t rd ra imm)
  | 0x10 => some (.ld t rd ra imm)
  | 0x11 => some (.lw t rd ra imm)
  | 0x12 => some (.lwu t rd ra imm)
  | 0x13 => some (.lh t rd ra imm)
  | 0x14 => some (.lhu t rd ra imm)
  | 0x15 => some (.lb t rd ra imm)
  | 0x16 => some (.lbu t rd ra imm)
  | 0x18 => some (.sd t rd ra imm)
  | 0x19 => some (.sw t rd ra imm)
  | 0x1A => some (.sh t rd ra imm)
  | 0x1B => some (.sb t rd ra imm)
  | 0x1C => decodeAmo t w
  | 0x20 => some (.beq t rd ra imm)
  | 0x21 => some (.bne t rd ra imm)
  | 0x22 => some (.blt t rd ra imm)
  | 0x23 => some (.bge t rd ra imm)
  | 0x24 => some (.bltu t rd ra imm)
  | 0x25 => some (.bgeu t rd ra imm)
  | 0x28 => some (.j t (imm26Of w))
  | 0x29 => some (.jal t (imm26Of w))
  | 0x2A => some (.jalr t rd ra imm)
  | 0x30 => decodeFpu t w
  | 0x38 => decodeSimd t w
  | 0x39 => some (.vld t rd ra imm)
  | 0x3A => some (.vst t rd ra imm)
  | 0x3C => decodeSys t w
  | 0x3E => decodeCrane t w
  | _ => none

/-- The command that a thread's instruction word stands for. The zero word and every reserved word are illegal (R76); a word
whose own fields are restricted (shi, fence, the element type of a SIMD word) is its row's command, whose meaning takes the
illegal effect. -/
def decodeFlx (t : Tid) (w : BitVec 32) : Instr :=
  if w = 0 then .ill t .zeroWord else (decodeOp t w).getD (.ill t .reserved)

end Sys2Proof
end

