-- ==== Sys2Proof/Config.lean ====
section
/-! DEFINITION. What an implementation fixes and what the manual leaves open. Every constant here is opaque: nothing in
Lean can evaluate it, so a theorem about the model holds for every value it may have. -/

namespace Sys2Proof.Config

/-- The n-th free 64-bit value: stands wherever the spec leaves a value undefined and the machine goes on
(R119, R158 of the entropy source, R228, R297, R344). DESIGN CHOICE, assumption 3. -/
opaque freeWord : Nat → Word

/-- The n-th free choice between two behaviours the spec allows (a cache line kept or evicted, R68 and R89; a clock
edge falling inside a Tide ns or not, R6). DESIGN CHOICE, assumption 3. -/
opaque freeBit : Nat → Bool

/-- vcvt of an integer that the narrower destination type cannot hold (Table 03-10 gives no result): source type,
destination type, element. DESIGN CHOICE, assumption 20. -/
opaque vcvtNarrow : Nat → Nat → Nat → Word

/-- The elements of a vcvt's destination that have no source element: source type, destination type, va, element number.
DESIGN CHOICE, assumption 20. -/
opaque vcvtBeyond : Nat → Nat → VWord → Nat → Word

/-- The elements that vredmax leaves beside element 0 (Table 03-10 says of vredadd alone that they are zero): type, va, element
number. DESIGN CHOICE, assumption 76. -/
opaque vredmaxRest : Nat → VWord → Nat → Word

/-- The scale exponent of a YI8 row that holds a value that is not finite, from the row's binary64 values (R203 gives none).
DESIGN CHOICE, assumption 80. -/
opaque rowScale : List Word → Nat

/-- W_JJ of the Cholesky method, the unblocked inverse of a diagonal block of L, whose order of operations R225 does not give: the
block's valid size, its entries row by row up to the diagonal, row, column. DESIGN CHOICE, assumption 14. -/
opaque blockInverse : Nat → List Word → Nat → Nat → BitVec 32

/-- Eigenvalue j of a symmetric matrix by the cyclic Jacobi procedure of R229, whose rotations it does not give: binary64 rows, j.
DESIGN CHOICE, assumption 82. -/
opaque jacobiValue : List (List Word) → Nat → Word

/-- Entry (i, j) of the eigenvectors by the same procedure. DESIGN CHOICE, assumption 82. -/
opaque jacobiVector : List (List Word) → Nat → Nat → Word

/-- Entry (i, j) of the inverse of a matrix by a binary64 Cholesky factorisation (R229), whose order of operations the manual does
not give; none for a non-positive pivot. DESIGN CHOICE, assumption 82. -/
opaque choleskyInverse : List (List Word) → Option (Nat → Nat → Word)

/-- SLH-DSA-SHAKE-256s verification of FIPS 205 (chapter 17): key, message, signature. Its value is not computed by
the model. PRESUMED, assumption 6. -/
opaque sigVerify : List Byte → List Byte → List Byte → Bool

/-- SLH-DSA-SHAKE-256s signing of FIPS 205, hedged (R453): key seed, randomness, message; the signature. -/
opaque sigSign : List Byte → Word → List Byte → List Byte

/-- SLH-DSA key generation of FIPS 205 on the 96 derived bytes (R451): the 64-byte public key. -/
opaque keyGen : List Byte → List Byte

/-- The fitted hardware revision is B rather than A (R2, R3, fused under R438). -/
opaque revB : Bool

/-- The fused serial (Table 17-1). -/
opaque serial : Word

/-- The fused digest of the Delfel root public key (Table 17-1). -/
opaque rootDigest : List Byte

/-- The fused identity seed, read by the signing engine only (Table 17-1). -/
opaque idSeed : List Byte

/-- Anti-rollback fuses already blown when the module starts (Table 17-1). -/
opaque fusedCount : Nat

/-- The boot flash as the module was made (R439): the byte at an offset. -/
opaque flashImage : Nat → Byte

/-- Bytes of a logical block of a storage target's namespace, as Identify reports them (R340, R343): target, nsid. -/
opaque lbaSize : Nat → Nat → Nat

/-- Bytes of a storage target's namespace (R343): target, nsid. -/
opaque namespaceBytes : Nat → Nat → Nat

end Sys2Proof.Config
end

