-- ==== Sys2Proof/Machine/State.lean ====
section
/-! DEFINITION. Everything the manual gives the module, as plain data, and the module right after reset. Arrays are
sparse tables (`Tab`): an unlisted index holds the reset value. Every field of every control register is one entry of
`fields`, keyed by its bit address in control space; the fields themselves are listed in Machine/Fields.lean. -/

namespace Sys2Proof.Machine

/-- Why the machine stops with a fault. -/
inductive Fault where
  /-- Raised by the input-voltage commands for an input above 72 V or below −60 V, where R421 guarantees no behaviour.
  Safe: the run ends. -/
  | outsideRating
  deriving DecidableEq, Repr

/-- Why a command has no meaning. -/
inductive Refusal where
  /-- No meaning has been written for the command. Safe: the run ends. -/
  | notModelled (mnemonic : String)
  deriving DecidableEq, Repr

/-- Thread states (Table 03-2). -/
inductive TState where
  | run
  | ready
  | wait
  | parked
  deriving DecidableEq, Repr

/-- The operations of an atomic (Table 03-8). -/
inductive AmoOp where
  | swap
  | add
  | and
  | or
  | max
  | min
  | maxu
  | minu
  | cas
  deriving DecidableEq, Repr

/-- What a memory access does (R77, R80); a prefetch is one of the data cache or of the home Harbour Cache (R284). -/
inductive AccKind where
  | load (bytes : Nat) (signed : Bool)
  | store (bytes : Nat)
  | amo (op : AmoOp) (sz : AmoSize) (aq : Bool)
  | vload
  | vstore
  | prefetch (home : Bool)
  deriving DecidableEq, Repr

/-- A Tug access: its thread, kind, address, destination, the value stored or combined, and cas's comparand. -/
structure Access where
  t : Nat
  kind : AccKind
  addr : Nat
  rd : Nat
  data : VWord
  cmp : Word
  deriving DecidableEq, Repr

/-- What a WAIT thread waits on (Table 03-2, R71). -/
inductive WaitOn where
  | warehouse (simd : Bool) (reg : Nat)
  | tide (at_ : Word)
  | slot (v : BitVec 32) (since : Option Nat)
  | crane (c : Nat) (seq : BitVec 32)
  | queue (c : Nat) (word : Word) (rd : Nat)
  deriving DecidableEq, Repr

/-- One hardware thread (R70, R73, Table 03-4). `pendG` and `pendV` are the registers whose load is outstanding (R69);
`held` is an access that no request slot has admitted yet (R283); `lastMiss` the line it missed last (R284); `acq` tells
that an acquiring atomic's fence is not complete yet (Table 03-8). -/
structure Thread where
  st : TState := .parked
  fw : Bool := false
  pc : Word := 0
  g : Tab Word := []
  v : Tab VWord := []
  fstat : BitVec 4 := 0
  skey : Word := 0
  issued : Word := 0
  scratch : Tab Word := []
  pendG : List Nat := []
  pendV : List Nat := []
  waitOn : Option WaitOn := none
  held : Option Access := none
  lastMiss : Option Nat := none
  acq : Bool := false
  deriving DecidableEq, Repr

/-- A tagged item of sampling (R412, R413): thread or sequence number, whether it is firmware's or the background
queue's, program counter or command word, instruction word, address, tier or command tag, whether it was rejected, and
whether it has completed and when. -/
structure Tag where
  idx : Nat
  low : Bool
  pc : Word
  word : BitVec 32
  addr : Word
  tier : Nat
  rejected : Bool := false
  spilled : Bool := false
  steps : Nat := 0
  doneAt : Option Nat := none
  deriving DecidableEq, Repr

/-- One Tug core: its request slots (slot number and access, R282), data and instruction cache lines (line number and
content, most recent first; R68, R89). -/
structure Core where
  slots : List (Nat × Access) := []
  dcache : List (Nat × BitVec 1024) := []
  icache : List (Nat × BitVec 1024) := []
  deriving DecidableEq, Repr

/-- A line of the Harbour Cache (R274, R275): its number, and whether memory does not have its value yet. The value itself is the
one that `State.mem` holds, since every agent sees the value last performed at the home cache. -/
structure HcLine where
  line : Nat
  dirty : Bool
  deriving DecidableEq, Repr

/-- What a home Harbour Cache has seen of a thread (R284): its last address, the stride that led there, and how many times in a
row. -/
structure Stride where
  last : Nat := 0
  step : Int := 0
  times : Nat := 0
  deriving DecidableEq, Repr

/-- How far an issued Crane command has come. -/
inductive CmdPhase where
  | issued
  | checked
  | segment (steps : Nat) (gap : Bool)
  | done
  | error
  deriving DecidableEq, Repr

/-- An issued Crane command: its identity over all Cranes, sequence number, word, descriptor bytes, phase, the commands
whose retirement it is not ordered after (R119), whether it has begun to move data or steps, the table slot and physical
bank that it resolved (R182), whether it has spilled, how many of its steps have entered, and how many of those have been
accumulated in every element (R128). -/
structure CraneCmd where
  uid : Nat
  seq : BitVec 32
  word : Word
  desc : List Byte := []
  phase : CmdPhase := .issued
  unordered : List Nat := []
  begun : Bool := false
  actBank : Option (Nat × Nat) := none
  spilled : Bool := false
  steps : Nat := 0
  accumulated : Nat := 0
  deriving DecidableEq, Repr

/-- One accumulator bank: 128 × 128 binary32 elements at i · 128 + j, their saturation bits, the reserved-scale flag,
the poison mark, and the in-flight count (R106, R128, R145, R167, R381). -/
structure Bank where
  vals : Tab (BitVec 32) := []
  sat : Tab Bool := []
  rsv : Bool := false
  poison : Bool := false
  inflight : Nat := 0
  deriving DecidableEq, Repr

/-- A write of an activation table word pair, of the bits in its mask (R183). -/
structure HeldAct where
  slot : Nat
  n : Nat
  value : Word
  mask : Word
  deriving DecidableEq, Repr

/-- One Crane (chapters 04 and 06). `flight` holds words between a Tug and the Crane (R95); `act` holds the table words,
at slot · 1024 + bank · 512 + word, each combined by exclusive or with the identity table of R185; `ebb1` tells per slot whether bank 1 is the Ebb bank (R182); `lists` the background
lists not yet fetched: Berth offset and words left (R122); `fgDone` and `bgDone` the commands retired that no completed cwait
covers: identity and sequence number (R119). -/
structure Crane where
  flight : List (BitVec 32 × Word) := []
  fgq : List (BitVec 32 × Word) := []
  bgq : List (BitVec 32 × Word) := []
  fgCmds : List CraneCmd := []
  bgCmds : List CraneCmd := []
  fgDone : List (Nat × BitVec 32) := []
  bgDone : List (Nat × BitVec 32) := []
  fgSeq : BitVec 32 := 0
  bgSeq : BitVec 32 := 0
  lists : List (Nat × Nat) := []
  bgLast : Option Nat := none
  bgPast : Bool := false
  bgBallastOk : Bool := true
  bank0 : Bank := {}
  bank1 : Bank := {}
  act : Tab (BitVec 32) := []
  ebb1 : Tab Bool := []
  heldAct : List HeldAct := []
  ballast : Nat := 0
  ballastLast : Option Nat := none
  level : Nat := 0
  deriving DecidableEq, Repr

/-- A started Barge stream: which, whether the start is job-level, and its descriptor once the Barge has read it (R288). -/
structure BargeStart where
  stream : Nat
  job : Bool
  desc : Option (List Byte) := none
  deriving DecidableEq, Repr

/-- A Read of a storage stream: the port it went to last, its failed attempts, and its data once it has completed (R343, R344). -/
structure StorRead where
  port : Nat
  failed : Nat := 0
  data : Option (List Byte) := none
  deriving DecidableEq, Repr

/-- Where a running stream stands: waiting on its gate (R294), on its Reads of storage in LBA order, for the first or the second
time (R344), or ready to perform its writes. -/
inductive BargePhase where
  | gate
  | storage (reads : List StorRead) (second : Bool)
  | ready
  deriving DecidableEq, Repr

/-- Contiguous bytes a stream will write: address, values, whether they are poisoned (R381), and what stood there when the
stream began (R297). -/
structure BWrite where
  addr : Nat
  bytes : List Byte
  poison : Bool
  old : List Byte
  deriving DecidableEq, Repr

/-- A running stream: descriptor, its writes in write order (R292), bytes for a Quay destination, and its record. -/
structure BargeRun where
  start : BargeStart
  desc : List Byte
  phase : BargePhase
  writes : List BWrite := []
  out : List Byte := []
  record : List Byte := []
  deriving DecidableEq, Repr

/-- One Barge (R287, R288). -/
structure BargeSt where
  queue : List BargeStart := []
  held : List BargeStart := []
  cur : Option BargeRun := none
  deriving DecidableEq, Repr

/-- A run being sent on a port: stream, run number, index of the next cell, the cells that the port read from memory
itself (modes ORIGIN), and whether its gate still holds it (R311, R324). -/
structure TxRun where
  stream : Nat
  run : BitVec 16
  cidx : Nat := 0
  cells : List Cell := []
  gated : Bool := false
  deriving DecidableEq, Repr

/-- A run on a receiving port (R317): stream, run number, whether its gate still holds it and the cells held so far, the
counts of its status record, its combined value and taint (R328), its bytes for a Barge, and whether its last cell has been
delivered. -/
structure RxRun where
  stream : Nat
  run : BitVec 16
  gated : Bool := false
  held : List Cell := []
  sat : Nat := 0
  invalid : Nat := 0
  first : Nat := 0xFFFFFFFF
  written : Nat := 0
  aux : Word := 0
  taint : Bool := false
  data : List Byte := []
  closed : Bool := false
  deriving DecidableEq, Repr

/-- One Quay port beyond its registers (chapter 11): link retraining, last IDENT and TIME cell received, measured delay and
offset, link sequence numbers, cells sent and not acknowledged with their replays, cells received after a gap, cells waiting
to be sent, staged cells of streams, the bytes of the last cell sent, when a TIME cell was last due, runs, and whether its
optics are lit. -/
structure Port where
  retraining : Bool := false
  identSeen : Bool := false
  lastIdent : IdentCell := ⟨0, 0, 0, 0, []⟩
  farHops : Nat := 63
  farRole : Nat := 0
  lastTime : Option (TimeCell × Word × BitVec 16) := none
  tseq : BitVec 16 := 0
  delayPs : Int := 0
  offsetPs : Int := 0
  txSeq : BitVec 32 := 0
  rxSeq : BitVec 32 := 0
  replay : List (Cell × Nat) := []
  reorder : List Cell := []
  waiting : List Cell := []
  staging : List Cell := []
  lastTx : List Byte := []
  timeAt : Option Nat := none
  tx : Option TxRun := none
  rx : List RxRun := []
  lit : Bool := false
  deriving DecidableEq, Repr

/-- A Tide Table entry (Table 02-5). -/
structure Entry where
  start : Nat
  len : Nat
  kind : Nat
  res : Nat
  stream : Nat
  slack : Nat
  dl : Bool
  mbAlt : Bool
  ballastOk : Bool
  stepEnd : Bool
  deriving DecidableEq, Repr

/-- A schedule epoch: what the module keeps of a checked Tide Table image (R46). -/
structure Epoch where
  slots : Nat
  id : Nat
  jobId : Word
  entries : List Entry
  deriving DecidableEq, Repr

/-- An entry that has reached its first slot and has not started; `late` once that slot has passed (R51). -/
structure Due where
  entry : Entry
  late : Bool
  deriving DecidableEq, Repr

/-- Work under a dl entry that has reached its first slot, with its deadline as moved by the holds inserted since (R53). -/
structure DlWork where
  entry : Entry
  deadline : Nat
  deriving DecidableEq, Repr

/-- The Tide, its discipline and the schedule (chapter 02), beyond their registers. Times are Tide ns. `tai` is the time of
day as the IEEE 1588 client keeps it (R33); `dls` the work under dl entries (R53). -/
structure TideSt where
  now : Nat := 0
  running : Bool := false
  everLocked : Bool := false
  okRun : Nat := 0
  holdoverAt : Nat := 0
  rate : Int := 0
  offsets : List Int := []
  tai : Word := 0
  lastLhCell : Nat := 0
  handoverAt : Option Nat := none
  epoch : Option Epoch := none
  due : List Due := []
  dls : List DlWork := []
  lastBoundary : Option Nat := none
  reqs : List HoldReq := []
  seen : List (BitVec 16 × Word) := []
  raisedIn : Option Nat := none
  lastSteer : Option Nat := none
  lossReported : Bool := false
  awaitFirst : Bool := false
  latched : List (Nat × Nat) := []
  holdEnd : Nat := 0
  deriving DecidableEq, Repr

/-- The staging machinery (R59): groups of the pass, the checked epoch, the shadow fields, whether the routing checked comes
from a job image (R473), and the instant of the armed commit (R60). -/
structure StageSt where
  groups : BitVec 5 := 0
  epoch : Option Epoch := none
  shadow : Tab (Option Nat) := []
  fromImage : Bool := false
  armedAt : Nat := 0
  deriving DecidableEq, Repr

/-- A micro-batch area (Table 14-5). -/
structure Area where
  base : Nat
  stride : Nat
  bytes : Nat
  deriving DecidableEq, Repr

/-- A layer of the job, as PREPARE reads it and fixed from then on (R26): its number and addresses from the layer table
(Table 13-7), its dimensions from its Manifest entry (Table 12-2), and its group's statistics, root and update descriptors. -/
structure Layer where
  num : Nat
  resid : Nat
  set0 : Nat
  set1 : Nat
  state : Nat
  image : Nat
  dout : Nat
  dc : Nat
  stat : List Byte
  root : List Byte
  upd : List Byte
  deriving DecidableEq, Repr

/-- A facet placed in a Crane's Berths to be solved: its place among the layer's owned factors, the device address of its facet
entry, and whether it has been retried (R227). -/
structure Placed where
  slot : Nat
  entry : Nat
  retried : Bool
  deriving DecidableEq, Repr

/-- A refresh cycle in progress (R214, R215): the layer, the factors that have finished, and the facets being solved. -/
structure Cycle where
  layer : Nat
  finished : List Nat
  placed : List Placed
  deriving DecidableEq, Repr

/-- The Harbourmaster's view of the job: launch state and status (Table 13-5, codes of its tables), the launch command being
carried out with its page, whether a passed PREPARE waits for the Ballast floor (R432), the prepared image's values and the
recovery table's (Tables 13-7 and 14-5), the step in progress and its drops (R383), and how far securing has come (R391,
R392). `streams` is the number of the image's Barge descriptors, `rejected` holds the dies on which a stream of the job
has been rejected (R295), `digestFault` tells of a digest fault of one (R344), `p` is the job's number of modules, `layers` its layers (R245), `cycles` its refresh cycles; `modelTag` is the image's,
and `mf0` and `mf1` hold the Manifest of each version slot from its header through its layer tables (R345, R350). `switchPage` is
the switch request being carried out, `switchLog` the accepted switches (R352). -/
structure Job where
  st : Nat := 0
  result : Nat := 0
  groupFail : Nat := 0
  endCause : Nat := 0
  acked : BitVec 32 := 0
  jobId : Word := 0
  commitNs : Word := 0
  endDetail : Word := 0
  step : BitVec 32 := 0xFFFFFFFF
  switchSeq : BitVec 32 := 0
  switchCode : Nat := 0
  switchReq : Bool := false
  switchPage : List Byte := []
  switchLog : List SwitchRec := []
  cmd : Option Nat := none
  page : List Byte := []
  ramping : Bool := false
  seed : Word := 0
  diag : Bool := false
  image : Nat := 0
  imageBytes : Nat := 0
  m : Nat := 0
  s : Nat := 1
  rank : Nat := 0
  wardRank : Nat := 0
  extents : Nat := 0
  curStep : Nat := 0
  resumeStep : BitVec 32 := 0xFFFFFFFF
  restored : Bool := false
  endAt : Option Nat := none
  stopped : Bool := false
  cutoff : Bool := false
  dropped : List Nat := []
  gateWritten : Bool := false
  areas : List Area := []
  threads : List (Nat × Word) := []
  dropLog : Nat := 0
  dropGate : Nat := 0
  wardLog : Nat := 0
  replay : List (Nat × Nat × Nat) := []
  homeArea : Nat := 0
  wardArea : Nat := 0
  genBytes : Nat := 0
  streams : Nat := 0
  rejected : List Nat := []
  digestFault : Bool := false
  p : Nat := 0
  layers : List Layer := []
  cycles : List Cycle := []
  modelTag : Nat := 0
  mf0 : List Byte := []
  mf1 : List Byte := []
  runsCopied : Tab Byte := []
  ledgerCopied : Tab Byte := []
  ledgerCopiedStep : BitVec 32 := 0xFFFFFFFF
  homeDone : BitVec 32 := 0xFFFFFFFF
  confirmed : BitVec 32 := 0xFFFFFFFF
  deriving DecidableEq, Repr

/-- The service commands (R459 to R464): the answer on the status page (R462), the command being carried out with its 256
bytes, whether a DRAIN has passed, the engine an ENGINE_OUT waits for, and the en bits that ports held before they were
drained (R468). -/
structure Svc where
  acked : BitVec 32 := 0
  result : Nat := 0
  cmd : Nat := 0
  detail : Nat := 0
  doneAt : Nat := 0
  req : Option Nat := none
  page : List Byte := []
  drainPass : Bool := false
  engineOut : Option Nat := none
  savedEn : List (Nat × Nat) := []
  deriving DecidableEq, Repr

/-- The running firmware bundle, or one written and waiting to activate (R445, R464). -/
structure Bundle where
  bank : Bool
  svn : Nat
  seq : Nat
  rcompat : Word
  version : Word
  advance : Bool
  inService : Bool
  rtDigest : List Byte
  deriving DecidableEq, Repr

/-- A request of the signing engine (R454): verification of the bundle received by FWUPDATE, an attestation report, the
reading back of the bank written, or a write to the boot flash. -/
inductive EngineReq where
  | verify
  | attest (addr : Nat) (nonce : List Byte)
  | flashRead
  | flashWrite (offset : Nat) (data : List Byte)
  deriving DecidableEq, Repr

/-- Start-up, trust and power beyond their registers (chapters 16 and 17). Phase 0 is P0, 1 to 8 are S1 to S8. `flash` holds
the bytes of the boot flash written since the module was made; `faultLog` is the power stage log, newest first (R426);
`phaseAt` the Tug-clock cycle at which the present phase began; `offLatched` holds the module in OFF (R444);
`engineSerial` holds the serials of the fitted engines, `found` the faults found in operation whose record is not yet
written (R458), `rowsCorrected` the Berth rows that have returned a corrected word with the Tide ns of it, `rowsWorn` those found
to be faults in this power cycle (R458), `repairs` the entries applied in this power cycle (R21, R456), and `lastSlew` the last slew boundary (R430). -/
structure SecSt where
  phase : Nat := 0
  phaseAt : Nat := 0
  halted : Bool := false
  blown : Nat := 0
  advancePending : Bool := false
  running : Option Bundle := none
  pending : Option (Bundle × Word) := none
  received : List Byte := []
  rootKey : List Byte := []
  identKey : List Byte := []
  flash : Tab (Option Byte) := []
  engine : List EngineReq := []
  faultLog : List Nat := []
  powered : Bool := false
  offLatched : Bool := false
  inputCv : Nat := 0
  senseClosed : Bool := true
  faultDown : Bool := false
  lampInput : Bool := false
  lampFault : Bool := false
  lampSafe : Bool := false
  lampService : Tab Bool := []
  enginePower : Tab Bool := []
  engineSerial : Tab Word := []
  found : List RepairEntry := []
  rowsCorrected : List (Nat × Nat) := []
  rowsWorn : List Nat := []
  repairs : List RepairEntry := []
  lastSlew : Option Nat := none
  deriving DecidableEq, Repr

/-- An update-unit operation outstanding on a die: its descriptor address and whether it has been carried out (R248). -/
structure UpdOp where
  desc : Nat
  done : Bool
  deriving DecidableEq, Repr

/-- What has been written for a Ledger record's next flip (R261, R263): the step, whether its UPDATE has been carried out, with
the divisor, the gens read and whether the panel was skipped, whether its image has been emitted, and the sides whose attached
factor has been merged. -/
structure Shadow where
  index : Nat
  step : BitVec 32
  updated : Bool := false
  divisor : Nat := 0
  genG : Nat := 0
  genA : Nat := 0
  skipped : Bool := false
  emitted : Bool := false
  merged : List Bool := []
  deriving DecidableEq, Repr

/-- A retained gradient (R254): the layer and the element number of its panel's first element, where g_red lies, and D. -/
structure Retained where
  layer : Nat
  first : Nat
  addr : Nat
  divisor : Nat
  deriving DecidableEq, Repr

/-- The Ledger engine and the update units (chapter 09): operations outstanding, LEDGER_UPD writes held, the indices of the flips
waiting, what has been written for each, and the gradients retained. -/
structure LedgerSt where
  upd0 : List UpdOp := []
  upd1 : List UpdOp := []
  held0 : List Nat := []
  held1 : List Nat := []
  flips : List Nat := []
  shadows : List Shadow := []
  retained : List Retained := []
  deriving DecidableEq, Repr

/-- The host link (chapter 13): the committed HDM base, the answer of the last mailbox command and of the last host read. -/
structure HostSt where
  hdm : Option Nat := none
  readData : List Byte := []
  readPoison : Bool := false
  mboxCode : Nat := 0
  mboxData : List Byte := []
  timestamp : Word := 0
  deriving DecidableEq, Repr

/-- Page retirement of the Hold (R278, R279): retired pages, queued pages, and corrected errors reported per page. -/
structure HoldSt where
  retired0 : List Nat := []
  retired1 : List Nat := []
  queued0 : List Nat := []
  queued1 : List Nat := []
  corrected0 : List Nat := []
  corrected1 : List Nat := []
  deriving DecidableEq, Repr

/-- The counters of performance monitoring (chapter 15), kept apart from the other registers because every command may
count in them: run, overflow flags, programmable counters, histogram bins (at 16 · unit + bin), sampling down-counters
per Tug and per Crane, tagged items, how many latencies have been counted (assumption 7), the armed action, the cycles of
the Crane clock and of the Tug clock, which every unit of that clock counts alike (R402, assumption 8), and the last snap. -/
structure PerfSt where
  run : Bool := false
  ovf : Tab Bool := []
  ctr : Tab Nat := []
  bins : Tab Nat := []
  tugLeft : Tab Nat := []
  craneLeft : Tab Nat := []
  tugTag : Tab (Option Tag) := []
  craneTag : Tab (Option Tag) := []
  lat : Nat := 0
  lostFlag : Bool := false
  armedAction : Nat := 0
  armedAt : Nat := 0
  cc : Word := 0
  tc : Word := 0
  snapCtr : Tab Nat := []
  snapCc : Word := 0
  snapTc : Word := 0
  deriving DecidableEq, Repr

/-- The whole module. -/
structure State where
  /-- The commands that wait, first in, first out. -/
  pending : List Instr := []
  /-- The model's own: how many free values have been taken (assumption 3). -/
  free : Nat := 0
  /-- The model's own: the identity of the next Crane command (R119). -/
  uid : Nat := 1
  mem : Tab Byte := []
  /-- Poisoned 128-byte lines, by line number (R381). -/
  poison : Tab Bool := []
  /-- The Crane command that last wrote a byte, 0 for none (R119). -/
  writer : Tab Nat := []
  fields : Tab Nat := []
  tide : TideSt := {}
  stage : StageSt := {}
  threads : Tab Thread := []
  cores : Tab Core := []
  /-- The Harbour Cache: per set (32 banks of 2,048), its lines, the most recently used first (R274). -/
  hcache : Tab (List HcLine) := []
  /-- Strides seen, per home die and thread. -/
  strides : Tab Stride := []
  cranes : Tab Crane := []
  barges : Tab BargeSt := []
  ports : Tab Port := []
  ledger : LedgerSt := {}
  job : Job := {}
  svc : Svc := {}
  sec : SecSt := {}
  host : HostSt := {}
  hold : HoldSt := {}
  perf : PerfSt := {}
  /-- Targets connected per storage port, one bit per target record (R342). -/
  storConn : Tab (BitVec 16) := []
  deriving DecidableEq, Repr

/-- The module right after reset (R13, R436): nothing listed in any table, no command waiting, no power applied. -/
def State.reset : State := {}

end Sys2Proof.Machine
end

