-- ==== Sys2Proof/Machine/Fields.lean ====
section
/-! DEFINITION. The control registers, field by field, as the register tables of the chapters give them (offset in
control space, lowest bit, width, access code, reset value), and the reading and writing of fields. The tables are
Table 01-4, 02-10 to 02-16, 03-14 to 03-18, 04-7 to 04-11, 06-8, 09-5, 10-6, 11-11 to 11-13, 12-7, 12-8, 13-8 to 13-10,
14-10, 15-7, 15-8, 16-8 and 17-12. Registers whose value is computed or kept elsewhere (MOD_ID, TIDE_NOW, TUG_THREAD_LIVE, PERF_CTL.run, PERF_OVF,
PERF_CTR, PERF_SNAP_CTR, PERF_HIST_BIN and the cycle counters with their snapshots, SEC_SERIAL, SEC_ARB.fuse_count and CRANE_ACT_TBL) have no field here: Machine/RegMap.lean reads them. -/

namespace Sys2Proof.Machine

/-- Access codes (Table 00-3). -/
inductive Code where
  | ro
  | rw
  | w1c
  | w1s
  | wo
  | fw
  deriving DecidableEq, Repr

/-- A field of a control register (R9, R11): offset of its register in control space, lowest bit, width, code, reset. -/
structure Field where
  off : Nat
  lo : Nat
  w : Nat
  acc : Code
  rst : Nat
  deriving DecidableEq, Repr

/-- Where a field is kept in `State.fields`: its bit address in control space. -/
def fieldKey (f : Field) : Nat := f.off * 8 + f.lo

/-- The current value of a field. -/
def fget (s : State) (f : Field) : Nat := Tab.get f.rst s.fields (fieldKey f)

/-- The state with a field set, to the field's width. -/
def fput (s : State) (f : Field) (v : Nat) : State :=
  { s with fields := Tab.set f.rst s.fields (fieldKey f) (v % 2 ^ f.w) }

/-- A field as a flag. -/
def flag (s : State) (f : Field) : Bool := decide (fget s f = 1)

/-- A flag set or cleared. -/
def fputBool (s : State) (f : Field) (b : Bool) : State := fput s f (if b then 1 else 0)

/-- A counter that sticks at its maximum, advanced by n. -/
def fcount (s : State) (f : Field) (n : Nat) : State :=
  fput s f (if fget s f + n < 2 ^ f.w then fget s f + n else 2 ^ f.w - 1)

namespace F

/-- MOD_HOSTLINK [0:0] linkUp. -/
def modHostlinkLinkUp : Field := ⟨0x10, 0, 1, .fw, 0x0⟩
/-- MOD_HOSTLINK [5:1] width. -/
def modHostlinkWidth : Field := ⟨0x10, 1, 5, .fw, 0x0⟩
/-- MOD_HOSTLINK [7:6] speed. -/
def modHostlinkSpeed : Field := ⟨0x10, 6, 2, .fw, 0x0⟩
/-- MOD_HOSTLINK [8:8] laneReversed. -/
def modHostlinkLaneReversed : Field := ⟨0x10, 8, 1, .fw, 0x0⟩
/-- MOD_HOSTLINK [9:9] hdmCommitted. -/
def modHostlinkHdmCommitted : Field := ⟨0x10, 9, 1, .fw, 0x0⟩
/-- MOD_HOSTLINK [31:16] resets. -/
def modHostlinkResets : Field := ⟨0x10, 16, 16, .fw, 0x0⟩
/-- TIDE_STATE [2:0] lockState. -/
def tideStateLockState : Field := ⟨0x100008, 0, 3, .ro, 0x0⟩
/-- TIDE_STATE [4:3] role. -/
def tideStateRole : Field := ⟨0x100008, 3, 2, .ro, 0x0⟩
/-- TIDE_STATE [10:5] parentPort. -/
def tideStateParentPort : Field := ⟨0x100008, 5, 6, .ro, 0x3f⟩
/-- TIDE_STATE [21:16] hops. -/
def tideStateHops : Field := ⟨0x100008, 16, 6, .ro, 0x3f⟩
/-- TIDE_STATE [24:24] ref10mhzOk. -/
def tideStateRef10mhzOk : Field := ⟨0x100008, 24, 1, .ro, 0x0⟩
/-- TIDE_STATE [25:25] refPpsOk. -/
def tideStateRefPpsOk : Field := ⟨0x100008, 25, 1, .ro, 0x0⟩
/-- TIDE_STATE [26:26] ptpOk. -/
def tideStatePtpOk : Field := ⟨0x100008, 26, 1, .ro, 0x0⟩
/-- TIDE_STATE [27:27] tideLoss. -/
def tideStateTideLoss : Field := ⟨0x100008, 27, 1, .w1c, 0x0⟩
/-- TIDE_STATE [63:32] offsetPs. -/
def tideStateOffsetPs : Field := ⟨0x100008, 32, 32, .ro, 0x0⟩
/-- TIDE_CFG [1:0] roleSel. -/
def tideCfgRoleSel : Field := ⟨0x100010, 0, 2, .fw, 0x0⟩
/-- TIDE_CFG [15:4] steerLimitPpb. -/
def tideCfgSteerLimitPpb : Field := ⟨0x100010, 4, 12, .fw, 0x7d0⟩
/-- TIDE_SCHED [31:0] slot. -/
def tideSchedSlot : Field := ⟨0x100018, 0, 32, .ro, 0x0⟩
/-- TIDE_SCHED [47:32] epochId. -/
def tideSchedEpochId : Field := ⟨0x100018, 32, 16, .ro, 0x0⟩
/-- TIDE_SCHED [48:48] inHold. -/
def tideSchedInHold : Field := ⟨0x100018, 48, 1, .ro, 0x0⟩
/-- TIDE_HOLD [31:0] holds. -/
def tideHoldHolds : Field := ⟨0x100020, 0, 32, .ro, 0x0⟩
/-- TIDE_HOLD [63:32] quanta. -/
def tideHoldQuanta : Field := ⟨0x100020, 32, 32, .ro, 0x0⟩
/-- TIDE_HOLDRAISED [31:0] raised. -/
def tideHoldRaisedRaised : Field := ⟨0x100028, 0, 32, .ro, 0x0⟩
/-- TIDE_HOLDRAISED [63:32] overruns. -/
def tideHoldRaisedOverruns : Field := ⟨0x100028, 32, 32, .ro, 0x0⟩
/-- TIDE_TABLEBASE [47:6] base. -/
def tideTableBaseBase : Field := ⟨0x100030, 6, 42, .fw, 0x0⟩
/-- TIDE_STAGECTRL [4:0] groups. -/
def tideStageCtrlGroups : Field := ⟨0x100040, 0, 5, .rw, 0x0⟩
/-- TIDE_STAGECTRL [8:8] check. -/
def tideStageCtrlCheck : Field := ⟨0x100040, 8, 1, .wo, 0x0⟩
/-- TIDE_STAGECTRL [9:9] arm. -/
def tideStageCtrlArm : Field := ⟨0x100040, 9, 1, .wo, 0x0⟩
/-- TIDE_STAGECTRL [10:10] abort. -/
def tideStageCtrlAbort : Field := ⟨0x100040, 10, 1, .wo, 0x0⟩
/-- TIDE_COMMITAT [63:0] commitNs. -/
def tideCommitAtCommitNs : Field := ⟨0x100048, 0, 64, .rw, 0x0⟩
/-- TIDE_STAGESTATUS [2:0] stageState. -/
def tideStageStatusStageState : Field := ⟨0x100050, 0, 3, .ro, 0x0⟩
/-- TIDE_STAGESTATUS [12:8] failedGroups. -/
def tideStageStatusFailedGroups : Field := ⟨0x100050, 8, 5, .ro, 0x0⟩
/-- TIDE_STAGESTATUS [23:16] failCode. -/
def tideStageStatusFailCode : Field := ⟨0x100050, 16, 8, .ro, 0x0⟩
/-- TIDE_STAGESTATUS [32:32] writeWhileArmed. -/
def tideStageStatusWriteWhileArmed : Field := ⟨0x100050, 32, 1, .w1c, 0x0⟩
/-- TIDE_STAGESTATUS [33:33] late. -/
def tideStageStatusLate : Field := ⟨0x100050, 33, 1, .w1c, 0x0⟩
/-- TIDE_STAGESTATUS [34:34] busy. -/
def tideStageStatusBusy : Field := ⟨0x100050, 34, 1, .w1c, 0x0⟩
/-- TIDE_STAGESTATUS [35:35] owner. -/
def tideStageStatusOwner : Field := ⟨0x100050, 35, 1, .ro, 0x0⟩
/-- PWR_STATE [2:0] state. -/
def pwrStateState : Field := ⟨0x200000, 0, 3, .fw, 0x0⟩
/-- PWR_STATE [7:4] levelMin. -/
def pwrStateLevelMin : Field := ⟨0x200000, 4, 4, .fw, 0x0⟩
/-- PWR_STATE [11:8] levelMax. -/
def pwrStateLevelMax : Field := ⟨0x200000, 8, 4, .fw, 0x0⟩
/-- PWR_STATE [16:12] portsPending. -/
def pwrStatePortsPending : Field := ⟨0x200000, 12, 5, .fw, 0x0⟩
/-- PWR_IN [15:0] vIn. -/
def pwrInVIn : Field := ⟨0x200008, 0, 16, .fw, 0x0⟩
/-- PWR_IN [31:16] iIn. -/
def pwrInIIn : Field := ⟨0x200008, 16, 16, .fw, 0x0⟩
/-- PWR_IN [47:32] p1ms. -/
def pwrInP1ms : Field := ⟨0x200008, 32, 16, .fw, 0x0⟩
/-- PWR_IN [63:48] pPeak. -/
def pwrInPPeak : Field := ⟨0x200008, 48, 16, .fw, 0x0⟩
/-- PWR_RAMP [3:0] floor. -/
def pwrRampFloor : Field := ⟨0x200010, 0, 4, .fw, 0xd⟩
/-- PWR_RAMP [15:4] stepUs. -/
def pwrRampStepUs : Field := ⟨0x200010, 4, 12, .fw, 0x3e8⟩
/-- PWR_FAULT [7:0] cause. -/
def pwrFaultCause : Field := ⟨0x200018, 0, 8, .fw, 0x0⟩
/-- PWR_FAULT [63:63] valid. -/
def pwrFaultValid : Field := ⟨0x200018, 63, 1, .fw, 0x0⟩
/-- PWR_FAULTLAST [7:0] cause. -/
def pwrFaultLastCause : Field := ⟨0x200020, 0, 8, .fw, 0x0⟩
/-- PWR_FAULTLAST [15:8] count. -/
def pwrFaultLastCount : Field := ⟨0x200020, 8, 8, .fw, 0x0⟩
/-- PWR_THERM [7:0] die0C. -/
def pwrThermDie0C : Field := ⟨0x200028, 0, 8, .fw, 0x0⟩
/-- PWR_THERM [15:8] die1C. -/
def pwrThermDie1C : Field := ⟨0x200028, 8, 8, .fw, 0x0⟩
/-- PWR_THERM [23:16] inletC. -/
def pwrThermInletC : Field := ⟨0x200028, 16, 8, .fw, 0x0⟩
/-- PWR_THERM [31:24] outletC. -/
def pwrThermOutletC : Field := ⟨0x200028, 24, 8, .fw, 0x0⟩
/-- PWR_THERM [47:32] flow. -/
def pwrThermFlow : Field := ⟨0x200028, 32, 16, .fw, 0x0⟩
/-- PWR_THERM [48:48] warn. -/
def pwrThermWarn : Field := ⟨0x200028, 48, 1, .fw, 0x0⟩
/-- PWR_CMD [0:0] standdown. -/
def pwrCmdStanddown : Field := ⟨0x200030, 0, 1, .fw, 0x0⟩
/-- SEC_BOOT [3:0] stage. -/
def secBootStage : Field := ⟨0x300000, 0, 4, .ro, 0x0⟩
/-- SEC_BOOT [11:4] fail. -/
def secBootFail : Field := ⟨0x300000, 4, 8, .ro, 0x0⟩
/-- SEC_BOOT [12:12] bank. -/
def secBootBank : Field := ⟨0x300000, 12, 1, .ro, 0x0⟩
/-- SEC_BOOT [13:13] fallback. -/
def secBootFallback : Field := ⟨0x300000, 13, 1, .ro, 0x0⟩
/-- SEC_BOOT [15:14] romTug. -/
def secBootRomTug : Field := ⟨0x300000, 14, 2, .ro, 0x0⟩
/-- SEC_ARB [15:8] svn. -/
def secArbSvn : Field := ⟨0x300010, 8, 8, .fw, 0x0⟩
/-- SEC_REPAIR [15:0] applied. -/
def secRepairApplied : Field := ⟨0x300018, 0, 16, .ro, 0x0⟩
/-- SEC_REPAIR [31:16] rejected. -/
def secRepairRejected : Field := ⟨0x300018, 16, 16, .ro, 0x0⟩
/-- SEC_REPAIR [47:32] selfSigned. -/
def secRepairSelfSigned : Field := ⟨0x300018, 32, 16, .ro, 0x0⟩
/-- SEC_REPAIR [48:48] full. -/
def secRepairFull : Field := ⟨0x300018, 48, 1, .ro, 0x0⟩
/-- SEC_MEAS [63:0] value. -/
def secMeasValue (n : Nat) : Field := ⟨0x300100 + n * 8, 0, 64, .ro, 0x0⟩
/-- SEC_EXTDATA [63:0] d. -/
def secExtDataD (n : Nat) : Field := ⟨0x300200 + n * 8, 0, 64, .fw, 0x0⟩
/-- SEC_EXTGO [1:0] index. -/
def secExtGoIndex : Field := ⟨0x300220, 0, 2, .fw, 0x0⟩
/-- SEC_EXTGO [8:8] go. -/
def secExtGoGo : Field := ⟨0x300220, 8, 1, .fw, 0x0⟩
/-- PERF_CTL [1:1] freezeOnOvf. -/
def perfCtlFreezeOnOvf : Field := ⟨0x400000, 1, 1, .rw, 0x0⟩
/-- PERF_CTL [2:2] snap. -/
def perfCtlSnap : Field := ⟨0x400000, 2, 1, .wo, 0x0⟩
/-- PERF_CTL [3:3] clear. -/
def perfCtlClear : Field := ⟨0x400000, 3, 1, .wo, 0x0⟩
/-- PERF_CTL [5:4] action. -/
def perfCtlAction : Field := ⟨0x400000, 4, 2, .rw, 0x0⟩
/-- PERF_CTL [6:6] arm. -/
def perfCtlArm : Field := ⟨0x400000, 6, 1, .wo, 0x0⟩
/-- PERF_CTL [7:7] armed. -/
def perfCtlArmed : Field := ⟨0x400000, 7, 1, .ro, 0x0⟩
/-- PERF_CTL [8:8] late. -/
def perfCtlLate : Field := ⟨0x400000, 8, 1, .w1c, 0x0⟩
/-- PERF_CTL [9:9] sampRefused. -/
def perfCtlSampRefused : Field := ⟨0x400000, 9, 1, .ro, 0x0⟩
/-- PERF_CTL [10:10] sampOff. -/
def perfCtlSampOff : Field := ⟨0x400000, 10, 1, .w1c, 0x0⟩
/-- PERF_SNAPAT [63:0] atNs. -/
def perfSnapAtAtNs : Field := ⟨0x400008, 0, 64, .rw, 0x0⟩
/-- PERF_SNAPTIDE [63:0] t. -/
def perfSnapTideT : Field := ⟨0x400018, 0, 64, .ro, 0x0⟩
/-- PERF_SEL [7:0] event. -/
def perfSelEvent (n : Nat) : Field := ⟨0x400040 + n * 8, 0, 8, .rw, 0x0⟩
/-- PERF_SEL [10:8] cls. -/
def perfSelCls (n : Nat) : Field := ⟨0x400040 + n * 8, 8, 3, .rw, 0x0⟩
/-- PERF_SEL [17:11] unit. -/
def perfSelUnit (n : Nat) : Field := ⟨0x400040 + n * 8, 11, 7, .rw, 0x0⟩
/-- PERF_SEL [19:18] mode. -/
def perfSelMode (n : Nat) : Field := ⟨0x400040 + n * 8, 18, 2, .rw, 0x0⟩
/-- PERF_SEL [27:20] thresh. -/
def perfSelThresh (n : Nat) : Field := ⟨0x400040 + n * 8, 20, 8, .rw, 0x0⟩
/-- PERF_SEL [28:28] invert. -/
def perfSelInvert (n : Nat) : Field := ⟨0x400040 + n * 8, 28, 1, .rw, 0x0⟩
/-- PERF_SEL [29:29] chain. -/
def perfSelChain (n : Nat) : Field := ⟨0x400040 + n * 8, 29, 1, .rw, 0x0⟩
/-- PERF_SEL [33:30] tmask. -/
def perfSelTmask (n : Nat) : Field := ⟨0x400040 + n * 8, 30, 4, .rw, 0x0⟩
/-- PERF_SEL [34:34] en. -/
def perfSelEn (n : Nat) : Field := ⟨0x400040 + n * 8, 34, 1, .rw, 0x0⟩
/-- PERF_HISTCFG [3:0] measure. -/
def perfHistCfgMeasure (n : Nat) : Field := ⟨0x400100 + n * 8, 0, 4, .rw, 0x0⟩
/-- PERF_HISTCFG [4:4] lg. -/
def perfHistCfgLg (n : Nat) : Field := ⟨0x400100 + n * 8, 4, 1, .rw, 0x0⟩
/-- PERF_HISTCFG [10:5] w. -/
def perfHistCfgW (n : Nat) : Field := ⟨0x400100 + n * 8, 5, 6, .rw, 0x0⟩
/-- PERF_HISTCFG [13:11] tier. -/
def perfHistCfgTier (n : Nat) : Field := ⟨0x400100 + n * 8, 11, 3, .rw, 0x0⟩
/-- PERF_HISTCFG [15:15] en. -/
def perfHistCfgEn (n : Nat) : Field := ⟨0x400100 + n * 8, 15, 1, .rw, 0x0⟩
/-- PERF_HISTCFG [22:16] unit. -/
def perfHistCfgUnit (n : Nat) : Field := ⟨0x400100 + n * 8, 16, 7, .rw, 0x0⟩
/-- PERF_HISTCFG [63:32] b. -/
def perfHistCfgB (n : Nat) : Field := ⟨0x400100 + n * 8, 32, 32, .rw, 0x0⟩
/-- PERF_SAMPCTL [0:0] tugEn. -/
def perfSampCtlTugEn : Field := ⟨0x400300, 0, 1, .rw, 0x0⟩
/-- PERF_SAMPCTL [1:1] craneEn. -/
def perfSampCtlCraneEn : Field := ⟨0x400300, 1, 1, .rw, 0x0⟩
/-- PERF_SAMPCTL [2:2] wrap. -/
def perfSampCtlWrap : Field := ⟨0x400300, 2, 1, .rw, 0x0⟩
/-- PERF_SAMPCTL [3:3] fwIncl. -/
def perfSampCtlFwIncl : Field := ⟨0x400300, 3, 1, .rw, 0x0⟩
/-- PERF_SAMPCTL [23:4] period. -/
def perfSampCtlPeriod : Field := ⟨0x400300, 4, 20, .rw, 0x10000⟩
/-- PERF_SAMPCTL [27:24] jitter. -/
def perfSampCtlJitter : Field := ⟨0x400300, 24, 4, .rw, 0x0⟩
/-- PERF_SAMPCTL [47:32] cranePeriod. -/
def perfSampCtlCranePeriod : Field := ⟨0x400300, 32, 16, .rw, 0x100⟩
/-- PERF_SAMPBASE [47:12] base. -/
def perfSampBaseBase : Field := ⟨0x400308, 12, 36, .rw, 0x0⟩
/-- PERF_SAMPBASE [51:48] k. -/
def perfSampBaseK : Field := ⟨0x400308, 48, 4, .rw, 0x0⟩
/-- PERF_SAMPHEAD [31:0] head. -/
def perfSampHeadHead : Field := ⟨0x400310, 0, 32, .ro, 0x0⟩
/-- PERF_SAMPHEAD [63:32] lost. -/
def perfSampHeadLost : Field := ⟨0x400310, 32, 32, .ro, 0x0⟩
/-- PERF_SAMPTAIL [31:0] tail. -/
def perfSampTailTail : Field := ⟨0x400318, 0, 32, .rw, 0x0⟩
/-- ERR_CLS [3:0] seen. -/
def errClsSeen : Field := ⟨0x500000, 0, 4, .w1c, 0x0⟩
/-- ERR_CORR [47:0] corrected. -/
def errCorrCorrected : Field := ⟨0x500008, 0, 48, .ro, 0x0⟩
/-- ERR_DROP [31:0] dropped. -/
def errDropDropped : Field := ⟨0x500010, 0, 32, .ro, 0x0⟩
/-- ERR_DROP [63:32] forced. -/
def errDropForced : Field := ⟨0x500010, 32, 32, .ro, 0x0⟩
/-- ERR_FIRST [7:0] source. -/
def errFirstSource : Field := ⟨0x500018, 0, 8, .ro, 0x0⟩
/-- ERR_FIRST [8:8] die. -/
def errFirstDie : Field := ⟨0x500018, 8, 1, .ro, 0x0⟩
/-- ERR_FIRST [14:9] unit. -/
def errFirstUnit : Field := ⟨0x500018, 9, 6, .ro, 0x0⟩
/-- ERR_FIRST [47:16] step. -/
def errFirstStep : Field := ⟨0x500018, 16, 32, .ro, 0x0⟩
/-- ERR_FIRST [63:63] valid. -/
def errFirstValid : Field := ⟨0x500018, 63, 1, .ro, 0x0⟩
/-- ERR_POISON [47:0] addr. -/
def errPoisonAddr : Field := ⟨0x500020, 0, 48, .ro, 0x0⟩
/-- ERR_POISON [51:48] consumer. -/
def errPoisonConsumer : Field := ⟨0x500020, 48, 4, .ro, 0x0⟩
/-- ERR_POISON [52:52] contained. -/
def errPoisonContained : Field := ⟨0x500020, 52, 1, .ro, 0x0⟩
/-- ERR_POISON [63:63] valid. -/
def errPoisonValid : Field := ⟨0x500020, 63, 1, .ro, 0x0⟩
/-- ERR_MEM [15:0] berthCorr. -/
def errMemBerthCorr (n : Nat) : Field := ⟨0x500028 + n * 8, 0, 16, .ro, 0x0⟩
/-- ERR_MEM [31:16] berthUnc. -/
def errMemBerthUnc (n : Nat) : Field := ⟨0x500028 + n * 8, 16, 16, .ro, 0x0⟩
/-- ERR_MEM [47:32] holdCorr. -/
def errMemHoldCorr (n : Nat) : Field := ⟨0x500028 + n * 8, 32, 16, .ro, 0x0⟩
/-- ERR_MEM [63:48] holdUnc. -/
def errMemHoldUnc (n : Nat) : Field := ⟨0x500028 + n * 8, 48, 16, .ro, 0x0⟩
/-- ERR_RETIRE [12:0] retired0. -/
def errRetireRetired0 : Field := ⟨0x500038, 0, 13, .ro, 0x0⟩
/-- ERR_RETIRE [28:16] retired1. -/
def errRetireRetired1 : Field := ⟨0x500038, 16, 13, .ro, 0x0⟩
/-- ERR_RETIRE [44:32] queued0. -/
def errRetireQueued0 : Field := ⟨0x500038, 32, 13, .ro, 0x0⟩
/-- ERR_RETIRE [60:48] queued1. -/
def errRetireQueued1 : Field := ⟨0x500038, 48, 13, .ro, 0x0⟩
/-- ERR_WHSE [15:0] corr0. -/
def errWhseCorr0 : Field := ⟨0x500040, 0, 16, .ro, 0x0⟩
/-- ERR_WHSE [31:16] corr1. -/
def errWhseCorr1 : Field := ⟨0x500040, 16, 16, .ro, 0x0⟩
/-- ERR_WHSE [47:32] corr2. -/
def errWhseCorr2 : Field := ⟨0x500040, 32, 16, .ro, 0x0⟩
/-- ERR_WHSE [63:48] corr3. -/
def errWhseCorr3 : Field := ⟨0x500040, 48, 16, .ro, 0x0⟩
/-- ERR_WHSEUNC [15:0] unc0. -/
def errWhseUncUnc0 : Field := ⟨0x500048, 0, 16, .ro, 0x0⟩
/-- ERR_WHSEUNC [31:16] unc1. -/
def errWhseUncUnc1 : Field := ⟨0x500048, 16, 16, .ro, 0x0⟩
/-- ERR_WHSEUNC [47:32] unc2. -/
def errWhseUncUnc2 : Field := ⟨0x500048, 32, 16, .ro, 0x0⟩
/-- ERR_WHSEUNC [63:48] unc3. -/
def errWhseUncUnc3 : Field := ⟨0x500048, 48, 16, .ro, 0x0⟩
/-- ERR_NOWIN [31:0] nowin. -/
def errNowinNowin : Field := ⟨0x500050, 0, 32, .ro, 0x0⟩
/-- ERR_NOWIN [63:32] hostDenied. -/
def errNowinHostDenied : Field := ⟨0x500050, 32, 32, .ro, 0x0⟩
/-- ERR_SECURE [31:0] securedStep. -/
def errSecureSecuredStep : Field := ⟨0x500058, 0, 32, .ro, 0xffffffff⟩
/-- ERR_SECURE [63:32] wardStep. -/
def errSecureWardStep : Field := ⟨0x500058, 32, 32, .ro, 0xffffffff⟩
/-- ERR_FATALS [31:0] fatals. -/
def errFatalsFatals : Field := ⟨0x500060, 0, 32, .ro, 0x0⟩
/-- QUAY_PORTSTATE [2:0] state. -/
def quayPortStateState (n : Nat) : Field := ⟨0x600000 + n * 8, 0, 3, .fw, 0x0⟩
/-- QUAY_PORTSTATE [3:3] spareIn. -/
def quayPortStateSpareIn (n : Nat) : Field := ⟨0x600000 + n * 8, 3, 1, .fw, 0x0⟩
/-- QUAY_PORTSTATE [7:4] laneOut. -/
def quayPortStateLaneOut (n : Nat) : Field := ⟨0x600000 + n * 8, 4, 4, .fw, 0x8⟩
/-- QUAY_PORTSTATE [20:8] farIndex. -/
def quayPortStateFarIndex (n : Nat) : Field := ⟨0x600000 + n * 8, 8, 13, .fw, 0x0⟩
/-- QUAY_PORTSTATE [25:21] farPort. -/
def quayPortStateFarPort (n : Nat) : Field := ⟨0x600000 + n * 8, 21, 5, .fw, 0x0⟩
/-- QUAY_PORTSTATE [26:26] identMismatch. -/
def quayPortStateIdentMismatch (n : Nat) : Field := ⟨0x600000 + n * 8, 26, 1, .fw, 0x0⟩
/-- QUAY_PORTSTATE [27:27] retryFail. -/
def quayPortStateRetryFail (n : Nat) : Field := ⟨0x600000 + n * 8, 27, 1, .fw, 0x0⟩
/-- QUAY_PORTCNT [31:0] replays. -/
def quayPortCntReplays (n : Nat) : Field := ⟨0x600100 + n * 8, 0, 32, .fw, 0x0⟩
/-- QUAY_PORTCNT [47:32] laneSwitches. -/
def quayPortCntLaneSwitches (n : Nat) : Field := ⟨0x600100 + n * 8, 32, 16, .fw, 0x0⟩
/-- QUAY_PORTCNT [63:48] timeLost. -/
def quayPortCntTimeLost (n : Nat) : Field := ⟨0x600100 + n * 8, 48, 16, .fw, 0x0⟩
/-- QUAY_EXPECT [12:0] farIndex. -/
def quayExpectFarIndex (n : Nat) : Field := ⟨0x600200 + n * 8, 0, 13, .fw, 0x0⟩
/-- QUAY_EXPECT [17:13] farPort. -/
def quayExpectFarPort (n : Nat) : Field := ⟨0x600200 + n * 8, 13, 5, .fw, 0x0⟩
/-- QUAY_EXPECT [20:18] dir. -/
def quayExpectDir (n : Nat) : Field := ⟨0x600200 + n * 8, 18, 3, .fw, 0x7⟩
/-- QUAY_EXPECT [21:21] en. -/
def quayExpectEn (n : Nat) : Field := ⟨0x600200 + n * 8, 21, 1, .fw, 0x0⟩
/-- QUAY_PARENT [5:0] cand0. -/
def quayParentCand0 : Field := ⟨0x600300, 0, 6, .fw, 0x3f⟩
/-- QUAY_PARENT [13:8] cand1. -/
def quayParentCand1 : Field := ⟨0x600300, 8, 6, .fw, 0x3f⟩
/-- QUAY_PARENT [21:16] cand2. -/
def quayParentCand2 : Field := ⟨0x600300, 16, 6, .fw, 0x3f⟩
/-- QUAY_PARENT [29:24] cand3. -/
def quayParentCand3 : Field := ⟨0x600300, 24, 6, .fw, 0x3f⟩
/-- QUAY_HALL [3:0] hxM1. -/
def quayHallHxM1 : Field := ⟨0x600308, 0, 4, .fw, 0x0⟩
/-- QUAY_HALL [7:4] hyM1. -/
def quayHallHyM1 : Field := ⟨0x600308, 4, 4, .fw, 0x0⟩
/-- QUAY_HALL [12:8] hzM1. -/
def quayHallHzM1 : Field := ⟨0x600308, 8, 5, .fw, 0x0⟩
/-- QUAY_HALL [28:16] index. -/
def quayHallIndex : Field := ⟨0x600308, 16, 13, .fw, 0x0⟩
/-- QUAY_HALL [63:32] hallTag. -/
def quayHallHallTag : Field := ⟨0x600308, 32, 32, .fw, 0x0⟩
/-- QUAY_SDT [47:7] base. -/
def quaySdtBase : Field := ⟨0x600310, 7, 41, .fw, 0x0⟩
/-- QUAY_FAULT [15:0] stream. -/
def quayFaultStream : Field := ⟨0x600318, 0, 16, .fw, 0x0⟩
/-- QUAY_FAULT [20:16] port. -/
def quayFaultPort : Field := ⟨0x600318, 16, 5, .fw, 0x0⟩
/-- QUAY_FAULT [27:24] cause. -/
def quayFaultCause : Field := ⟨0x600318, 24, 4, .fw, 0x0⟩
/-- QUAY_FAULT [63:63] valid. -/
def quayFaultValid : Field := ⟨0x600318, 63, 1, .fw, 0x0⟩
/-- STOR_PORT [0:0] linkUp. -/
def storPortLinkUp (n : Nat) : Field := ⟨0x700000 + n * 8, 0, 1, .fw, 0x0⟩
/-- STOR_PORT [1:1] roceReady. -/
def storPortRoceReady (n : Nat) : Field := ⟨0x700000 + n * 8, 1, 1, .fw, 0x0⟩
/-- STOR_PORT [6:2] conns. -/
def storPortConns (n : Nat) : Field := ⟨0x700000 + n * 8, 2, 5, .fw, 0x0⟩
/-- STOR_BYTES [47:0] bytes. -/
def storBytesBytes : Field := ⟨0x700010, 0, 48, .fw, 0x0⟩
/-- STOR_RETRY [31:0] retries. -/
def storRetryRetries : Field := ⟨0x700018, 0, 32, .fw, 0x0⟩
/-- STOR_RETRY [47:32] reconnects. -/
def storRetryReconnects : Field := ⟨0x700018, 32, 16, .fw, 0x0⟩
/-- STOR_TGT [47:9] base. -/
def storTgtBase : Field := ⟨0x700020, 9, 39, .fw, 0x0⟩
/-- STOR_TGT [51:48] countM1. -/
def storTgtCountM1 : Field := ⟨0x700020, 48, 4, .fw, 0x0⟩
/-- STOR_FAULT [15:0] stream. -/
def storFaultStream : Field := ⟨0x700028, 0, 16, .fw, 0x0⟩
/-- STOR_FAULT [16:16] port. -/
def storFaultPort : Field := ⟨0x700028, 16, 1, .fw, 0x0⟩
/-- STOR_FAULT [23:20] cause. -/
def storFaultCause : Field := ⟨0x700028, 20, 4, .fw, 0x0⟩
/-- STOR_FAULT [63:63] valid. -/
def storFaultValid : Field := ⟨0x700028, 63, 1, .fw, 0x0⟩
/-- CRANE_STATUS [31:0] fgRetired. -/
def craneStatusFgRetired (u : Nat) : Field := ⟨0x800000 + u * 0x100000, 0, 32, .fw, 0xffffffff⟩
/-- CRANE_STATUS [63:32] bgRetired. -/
def craneStatusBgRetired (u : Nat) : Field := ⟨0x800000 + u * 0x100000, 32, 32, .fw, 0xffffffff⟩
/-- CRANE_STATE [0:0] fgStopped. -/
def craneStateFgStopped (u : Nat) : Field := ⟨0x800008 + u * 0x100000, 0, 1, .ro, 0x0⟩
/-- CRANE_STATE [1:1] bgEntry. -/
def craneStateBgEntry (u : Nat) : Field := ⟨0x800008 + u * 0x100000, 1, 1, .fw, 0x0⟩
/-- CRANE_STATE [8:2] bgFree. -/
def craneStateBgFree (u : Nat) : Field := ⟨0x800008 + u * 0x100000, 2, 7, .fw, 0x40⟩
/-- CRANE_STATE [9:9] repaired. -/
def craneStateRepaired (u : Nat) : Field := ⟨0x800008 + u * 0x100000, 9, 1, .ro, 0x0⟩
/-- CRANE_REJECT [31:0] seq. -/
def craneRejectSeq (u : Nat) : Field := ⟨0x800010 + u * 0x100000, 0, 32, .ro, 0x0⟩
/-- CRANE_REJECT [39:32] opcode. -/
def craneRejectOpcode (u : Nat) : Field := ⟨0x800010 + u * 0x100000, 32, 8, .ro, 0x0⟩
/-- CRANE_REJECT [43:40] cause. -/
def craneRejectCause (u : Nat) : Field := ⟨0x800010 + u * 0x100000, 40, 4, .ro, 0x0⟩
/-- CRANE_REJECT [44:44] bg. -/
def craneRejectBg (u : Nat) : Field := ⟨0x800010 + u * 0x100000, 44, 1, .ro, 0x0⟩
/-- CRANE_REJECT [63:63] valid. -/
def craneRejectValid (u : Nat) : Field := ⟨0x800010 + u * 0x100000, 63, 1, .ro, 0x0⟩
/-- CRANE_BGQBASE [28:4] base. -/
def craneBgqBaseBase (u : Nat) : Field := ⟨0x800018 + u * 0x100000, 4, 25, .fw, 0x0⟩
/-- CRANE_BGQBASE [47:32] count. -/
def craneBgqBaseCount (u : Nat) : Field := ⟨0x800018 + u * 0x100000, 32, 16, .fw, 0x0⟩
/-- CRANE_REPAIR [7:0] row. -/
def craneRepairRow (u : Nat) : Field := ⟨0x800020 + u * 0x100000, 0, 8, .fw, 0x0⟩
/-- CRANE_REPAIR [8:8] rowEn. -/
def craneRepairRowEn (u : Nat) : Field := ⟨0x800020 + u * 0x100000, 8, 1, .fw, 0x0⟩
/-- CRANE_REPAIR [23:16] col. -/
def craneRepairCol (u : Nat) : Field := ⟨0x800020 + u * 0x100000, 16, 8, .fw, 0x0⟩
/-- CRANE_REPAIR [24:24] colEn. -/
def craneRepairColEn (u : Nat) : Field := ⟨0x800020 + u * 0x100000, 24, 1, .fw, 0x0⟩
/-- CRANE_ACTGEN [7:0] gen0. -/
def craneActGenGen0 (u : Nat) : Field := ⟨0x801000 + u * 0x100000, 0, 8, .ro, 0x0⟩
/-- CRANE_ACTGEN [15:8] gen1. -/
def craneActGenGen1 (u : Nat) : Field := ⟨0x801000 + u * 0x100000, 8, 8, .ro, 0x0⟩
/-- CRANE_ACTGEN [23:16] gen2. -/
def craneActGenGen2 (u : Nat) : Field := ⟨0x801000 + u * 0x100000, 16, 8, .ro, 0x0⟩
/-- CRANE_ACTGEN [31:24] gen3. -/
def craneActGenGen3 (u : Nat) : Field := ⟨0x801000 + u * 0x100000, 24, 8, .ro, 0x0⟩
/-- CRANE_ACTGEN [35:32] dirty. -/
def craneActGenDirty (u : Nat) : Field := ⟨0x801000 + u * 0x100000, 32, 4, .ro, 0x0⟩
/-- CRANE_ACTGEN [39:36] floodValid. -/
def craneActGenFloodValid (u : Nat) : Field := ⟨0x801000 + u * 0x100000, 36, 4, .ro, 0x0⟩
/-- TUG_VIOLCOUNT [31:0] count. -/
def tugViolCountCount (u : Nat) : Field := ⟨0x1800000 + u * 0x100000, 0, 32, .ro, 0x0⟩
/-- TUG_VIOLCOUNT [32:32] diag. -/
def tugViolCountDiag (u : Nat) : Field := ⟨0x1800000 + u * 0x100000, 32, 1, .ro, 0x0⟩
/-- TUG_VIOLFIRST [47:0] addr. -/
def tugViolFirstAddr (u : Nat) : Field := ⟨0x1800008 + u * 0x100000, 0, 48, .ro, 0x0⟩
/-- TUG_VIOLFIRST [53:48] tug. -/
def tugViolFirstTug (u : Nat) : Field := ⟨0x1800008 + u * 0x100000, 48, 6, .ro, 0x0⟩
/-- TUG_VIOLFIRST [55:54] thread. -/
def tugViolFirstThread (u : Nat) : Field := ⟨0x1800008 + u * 0x100000, 54, 2, .ro, 0x0⟩
/-- TUG_VIOLFIRST [58:56] kind. -/
def tugViolFirstKind (u : Nat) : Field := ⟨0x1800008 + u * 0x100000, 56, 3, .ro, 0x0⟩
/-- TUG_VIOLFIRST [63:63] valid. -/
def tugViolFirstValid (u : Nat) : Field := ⟨0x1800008 + u * 0x100000, 63, 1, .ro, 0x0⟩
/-- TUG_FAULT [47:0] pc. -/
def tugFaultPc (u : Nat) : Field := ⟨0x1800030 + u * 0x100000, 0, 48, .ro, 0x0⟩
/-- TUG_FAULT [53:48] tug. -/
def tugFaultTug (u : Nat) : Field := ⟨0x1800030 + u * 0x100000, 48, 6, .ro, 0x0⟩
/-- TUG_FAULT [55:54] thread. -/
def tugFaultThread (u : Nat) : Field := ⟨0x1800030 + u * 0x100000, 54, 2, .ro, 0x0⟩
/-- TUG_FAULT [59:56] cause. -/
def tugFaultCause (u : Nat) : Field := ⟨0x1800030 + u * 0x100000, 56, 4, .ro, 0x0⟩
/-- TUG_FAULT [63:63] valid. -/
def tugFaultValid (u : Nat) : Field := ⟨0x1800030 + u * 0x100000, 63, 1, .ro, 0x0⟩
/-- TUG_CQBIND [8:0] thread. -/
def tugCqBindThread (u : Nat) (n : Nat) : Field := ⟨0x1800100 + u * 0x100000 + n * 8, 0, 9, .fw, 0x0⟩
/-- TUG_CQBIND [15:15] en. -/
def tugCqBindEn (u : Nat) (n : Nat) : Field := ⟨0x1800100 + u * 0x100000 + n * 8, 15, 1, .fw, 0x0⟩
/-- TUG_REGIONBASE [0:0] rd. -/
def tugRegionBaseRd (u : Nat) (n : Nat) : Field := ⟨0x1800200 + u * 0x100000 + n * 16, 0, 1, .fw, 0x0⟩
/-- TUG_REGIONBASE [1:1] wr. -/
def tugRegionBaseWr (u : Nat) (n : Nat) : Field := ⟨0x1800200 + u * 0x100000 + n * 16, 1, 1, .fw, 0x0⟩
/-- TUG_REGIONBASE [2:2] ex. -/
def tugRegionBaseEx (u : Nat) (n : Nat) : Field := ⟨0x1800200 + u * 0x100000 + n * 16, 2, 1, .fw, 0x0⟩
/-- TUG_REGIONBASE [3:3] en. -/
def tugRegionBaseEn (u : Nat) (n : Nat) : Field := ⟨0x1800200 + u * 0x100000 + n * 16, 3, 1, .fw, 0x0⟩
/-- TUG_REGIONBASE [47:12] base. -/
def tugRegionBaseBase (u : Nat) (n : Nat) : Field := ⟨0x1800200 + u * 0x100000 + n * 16, 12, 36, .fw, 0x0⟩
/-- TUG_REGIONLIMIT [47:12] last. -/
def tugRegionLimitLast (u : Nat) (n : Nat) : Field := ⟨0x1800208 + u * 0x100000 + n * 16, 12, 36, .fw, 0x0⟩
/-- BARGE_STBL [47:7] base. -/
def bargeStblBase (u : Nat) : Field := ⟨0x1a00000 + u * 0x100000, 7, 41, .fw, 0x0⟩
/-- BARGE_START [15:0] stream. -/
def bargeStartStream (u : Nat) : Field := ⟨0x1a00008 + u * 0x100000, 0, 16, .wo, 0x0⟩
/-- BARGE_START [20:16] barge. -/
def bargeStartBarge (u : Nat) : Field := ⟨0x1a00008 + u * 0x100000, 16, 5, .wo, 0x0⟩
/-- BARGE_FAULT [15:0] stream. -/
def bargeFaultStream (u : Nat) : Field := ⟨0x1a00010 + u * 0x100000, 0, 16, .ro, 0x0⟩
/-- BARGE_FAULT [20:16] barge. -/
def bargeFaultBarge (u : Nat) : Field := ⟨0x1a00010 + u * 0x100000, 16, 5, .ro, 0x0⟩
/-- BARGE_FAULT [27:24] cause. -/
def bargeFaultCause (u : Nat) : Field := ⟨0x1a00010 + u * 0x100000, 24, 4, .ro, 0x0⟩
/-- BARGE_FAULT [28:28] fw. -/
def bargeFaultFw (u : Nat) : Field := ⟨0x1a00010 + u * 0x100000, 28, 1, .ro, 0x0⟩
/-- BARGE_FAULT [63:63] valid. -/
def bargeFaultValid (u : Nat) : Field := ⟨0x1a00010 + u * 0x100000, 63, 1, .ro, 0x0⟩
/-- HOLD_STATUS [4:0] devOk. -/
def holdStatusDevOk (u : Nat) : Field := ⟨0x1c00000 + u * 0x100000, 0, 5, .fw, 0x0⟩
/-- HOLD_STATUS [20:8] remapUsed. -/
def holdStatusRemapUsed (u : Nat) : Field := ⟨0x1c00000 + u * 0x100000, 8, 13, .fw, 0x0⟩
/-- HOLD_REMAP [47:12] page. -/
def holdRemapPage (u : Nat) : Field := ⟨0x1c00008 + u * 0x100000, 12, 36, .fw, 0x0⟩
/-- HOLD_REMAP [63:63] go. -/
def holdRemapGo (u : Nat) : Field := ⟨0x1c00008 + u * 0x100000, 63, 1, .fw, 0x0⟩
/-- HOLD_SCRUB [31:0] passes. -/
def holdScrubPasses (u : Nat) : Field := ⟨0x1c00010 + u * 0x100000, 0, 32, .fw, 0x0⟩
/-- HOLD_SCRUB [63:32] periodH. -/
def holdScrubPeriodH (u : Nat) : Field := ⟨0x1c00010 + u * 0x100000, 32, 32, .fw, 0x18⟩
/-- WHSE_PORT [2:0] state. -/
def whsePortState (u : Nat) (n : Nat) : Field := ⟨0x1e00000 + u * 0x100000 + n * 8, 0, 3, .fw, 0x0⟩
/-- WHSE_PORT [7:3] width. -/
def whsePortWidth (u : Nat) (n : Nat) : Field := ⟨0x1e00000 + u * 0x100000 + n * 8, 3, 5, .fw, 0x0⟩
/-- WHSE_PORT [9:8] speed. -/
def whsePortSpeed (u : Nat) (n : Nat) : Field := ⟨0x1e00000 + u * 0x100000 + n * 8, 8, 2, .fw, 0x0⟩
/-- WHSE_PORT [10:10] laneReversed. -/
def whsePortLaneReversed (u : Nat) (n : Nat) : Field := ⟨0x1e00000 + u * 0x100000 + n * 8, 10, 1, .fw, 0x0⟩
/-- WHSE_PORT [15:12] reject. -/
def whsePortReject (u : Nat) (n : Nat) : Field := ⟨0x1e00000 + u * 0x100000 + n * 8, 12, 4, .fw, 0x0⟩
/-- WHSE_PORT [47:32] capGib. -/
def whsePortCapGib (u : Nat) (n : Nat) : Field := ⟨0x1e00000 + u * 0x100000 + n * 8, 32, 16, .fw, 0x0⟩
/-- WHSE_MAP [2:0] w. -/
def whseMapW (u : Nat) : Field := ⟨0x1e00010 + u * 0x100000, 0, 3, .fw, 0x0⟩
/-- WHSE_MAP [47:32] cGib. -/
def whseMapCGib (u : Nat) : Field := ⟨0x1e00010 + u * 0x100000, 32, 16, .fw, 0x0⟩
/-- LEDGER_BASE [47:6] base. -/
def ledgerBaseBase : Field := ⟨0x2000000, 6, 42, .fw, 0x0⟩
/-- LEDGER_BASE [63:48] recordsM1. -/
def ledgerBaseRecordsM1 : Field := ⟨0x2000000, 48, 16, .fw, 0x0⟩
/-- LEDGER_FLIP [15:0] index. -/
def ledgerFlipIndex : Field := ⟨0x2000008, 0, 16, .fw, 0x0⟩
/-- LEDGER_STATUS [47:0] flips. -/
def ledgerStatusFlips : Field := ⟨0x2000010, 0, 48, .fw, 0x0⟩
/-- LEDGER_STATUS [52:48] pending. -/
def ledgerStatusPending : Field := ⟨0x2000010, 48, 5, .fw, 0x0⟩
/-- LEDGER_UPD [47:6] desc. -/
def ledgerUpdDesc (n : Nat) : Field := ⟨0x2000018 + n * 8, 6, 42, .fw, 0x0⟩
/-- LEDGER_DONE [31:0] done0. -/
def ledgerDoneDone0 : Field := ⟨0x2000028, 0, 32, .fw, 0x0⟩
/-- LEDGER_DONE [63:32] done1. -/
def ledgerDoneDone1 : Field := ⟨0x2000028, 32, 32, .fw, 0x0⟩
/-- MANIFEST_PIN [31:0] effStep. -/
def manifestPinEffStep : Field := ⟨0x2100000, 0, 32, .ro, 0x0⟩
/-- MANIFEST_PIN [47:32] effMbatch. -/
def manifestPinEffMbatch : Field := ⟨0x2100000, 32, 16, .ro, 0x0⟩
/-- MANIFEST_PIN [48:48] beforeSlot. -/
def manifestPinBeforeSlot : Field := ⟨0x2100000, 48, 1, .ro, 0x0⟩
/-- MANIFEST_PIN [49:49] afterSlot. -/
def manifestPinAfterSlot : Field := ⟨0x2100000, 49, 1, .ro, 0x0⟩
/-- MANIFEST_SLOT [47:12] base. -/
def manifestSlotBase (n : Nat) : Field := ⟨0x2100008 + n * 8, 12, 36, .fw, 0x0⟩
/-- MANIFEST_SLOT [49:48] state. -/
def manifestSlotState (n : Nat) : Field := ⟨0x2100008 + n * 8, 48, 2, .fw, 0x0⟩
/-- MANIFEST_VER [31:0] ver0. -/
def manifestVerVer0 : Field := ⟨0x2100018, 0, 32, .fw, 0x0⟩
/-- MANIFEST_VER [63:32] ver1. -/
def manifestVerVer1 : Field := ⟨0x2100018, 32, 32, .fw, 0x0⟩
/-- MANIFEST_SWITCH [31:0] effStep. -/
def manifestSwitchEffStep : Field := ⟨0x2100020, 0, 32, .fw, 0x0⟩
/-- MANIFEST_SWITCH [47:32] effMbatch. -/
def manifestSwitchEffMbatch : Field := ⟨0x2100020, 32, 16, .fw, 0x0⟩
/-- MANIFEST_SWITCH [48:48] slot. -/
def manifestSwitchSlot : Field := ⟨0x2100020, 48, 1, .fw, 0x0⟩
/-- MANIFEST_SWITCH [63:63] go. -/
def manifestSwitchGo : Field := ⟨0x2100020, 63, 1, .fw, 0x0⟩
/-- MANIFEST_RESULT [7:0] code. -/
def manifestResultCode : Field := ⟨0x2100028, 0, 8, .fw, 0x0⟩
/-- MANIFEST_RESULT [63:32] accepted. -/
def manifestResultAccepted : Field := ⟨0x2100028, 32, 32, .fw, 0x0⟩

end F

open F

/-- The fields of the MOD register at a block offset. -/
def modRegFields (o : Nat) : List Field :=
  if o = 0x10 then [modHostlinkLinkUp, modHostlinkWidth, modHostlinkSpeed, modHostlinkLaneReversed, modHostlinkHdmCommitted, modHostlinkResets] else
  []

/-- The fields of the TIDE register at a block offset. -/
def tideRegFields (o : Nat) : List Field :=
  if o = 0x8 then [tideStateLockState, tideStateRole, tideStateParentPort, tideStateHops, tideStateRef10mhzOk, tideStateRefPpsOk, tideStatePtpOk, tideStateTideLoss, tideStateOffsetPs] else
  if o = 0x10 then [tideCfgRoleSel, tideCfgSteerLimitPpb] else
  if o = 0x18 then [tideSchedSlot, tideSchedEpochId, tideSchedInHold] else
  if o = 0x20 then [tideHoldHolds, tideHoldQuanta] else
  if o = 0x28 then [tideHoldRaisedRaised, tideHoldRaisedOverruns] else
  if o = 0x30 then [tideTableBaseBase] else
  if o = 0x40 then [tideStageCtrlGroups, tideStageCtrlCheck, tideStageCtrlArm, tideStageCtrlAbort] else
  if o = 0x48 then [tideCommitAtCommitNs] else
  if o = 0x50 then [tideStageStatusStageState, tideStageStatusFailedGroups, tideStageStatusFailCode, tideStageStatusWriteWhileArmed, tideStageStatusLate, tideStageStatusBusy, tideStageStatusOwner] else
  []

/-- The fields of the PWR register at a block offset. -/
def pwrRegFields (o : Nat) : List Field :=
  if o = 0x0 then [pwrStateState, pwrStateLevelMin, pwrStateLevelMax, pwrStatePortsPending] else
  if o = 0x8 then [pwrInVIn, pwrInIIn, pwrInP1ms, pwrInPPeak] else
  if o = 0x10 then [pwrRampFloor, pwrRampStepUs] else
  if o = 0x18 then [pwrFaultCause, pwrFaultValid] else
  if o = 0x20 then [pwrFaultLastCause, pwrFaultLastCount] else
  if o = 0x28 then [pwrThermDie0C, pwrThermDie1C, pwrThermInletC, pwrThermOutletC, pwrThermFlow, pwrThermWarn] else
  if o = 0x30 then [pwrCmdStanddown] else
  []

/-- The fields of the SEC register at a block offset. -/
def secRegFields (o : Nat) : List Field :=
  if o = 0x0 then [secBootStage, secBootFail, secBootBank, secBootFallback, secBootRomTug] else
  if o = 0x10 then [secArbSvn] else
  if o = 0x18 then [secRepairApplied, secRepairRejected, secRepairSelfSigned, secRepairFull] else
  if 0x100 ≤ o ∧ o < 0x180 ∧ (o - 0x100) % 8 = 0 then [secMeasValue ((o - 0x100) / 8)] else
  if 0x200 ≤ o ∧ o < 0x220 ∧ (o - 0x200) % 8 = 0 then [secExtDataD ((o - 0x200) / 8)] else
  if o = 0x220 then [secExtGoIndex, secExtGoGo] else
  []

/-- The fields of the PERF register at a block offset. -/
def perfRegFields (o : Nat) : List Field :=
  if o = 0x0 then [perfCtlFreezeOnOvf, perfCtlSnap, perfCtlClear, perfCtlAction, perfCtlArm, perfCtlArmed, perfCtlLate, perfCtlSampRefused, perfCtlSampOff] else
  if o = 0x8 then [perfSnapAtAtNs] else
  if o = 0x18 then [perfSnapTideT] else
  if 0x40 ≤ o ∧ o < 0x80 ∧ (o - 0x40) % 8 = 0 then [perfSelEvent ((o - 0x40) / 8), perfSelCls ((o - 0x40) / 8), perfSelUnit ((o - 0x40) / 8), perfSelMode ((o - 0x40) / 8), perfSelThresh ((o - 0x40) / 8), perfSelInvert ((o - 0x40) / 8), perfSelTmask ((o - 0x40) / 8), perfSelEn ((o - 0x40) / 8)] ++ (if (o - 0x40) / 8 % 2 = 1 then [perfSelChain ((o - 0x40) / 8)] else []) else
  if 0x100 ≤ o ∧ o < 0x110 ∧ (o - 0x100) % 8 = 0 then [perfHistCfgMeasure ((o - 0x100) / 8), perfHistCfgLg ((o - 0x100) / 8), perfHistCfgW ((o - 0x100) / 8), perfHistCfgTier ((o - 0x100) / 8), perfHistCfgEn ((o - 0x100) / 8), perfHistCfgUnit ((o - 0x100) / 8), perfHistCfgB ((o - 0x100) / 8)] else
  if o = 0x300 then [perfSampCtlTugEn, perfSampCtlCraneEn, perfSampCtlWrap, perfSampCtlFwIncl, perfSampCtlPeriod, perfSampCtlJitter, perfSampCtlCranePeriod] else
  if o = 0x308 then [perfSampBaseBase, perfSampBaseK] else
  if o = 0x310 then [perfSampHeadHead, perfSampHeadLost] else
  if o = 0x318 then [perfSampTailTail] else
  []

/-- The fields of the ERR register at a block offset. -/
def errRegFields (o : Nat) : List Field :=
  if o = 0x0 then [errClsSeen] else
  if o = 0x8 then [errCorrCorrected] else
  if o = 0x10 then [errDropDropped, errDropForced] else
  if o = 0x18 then [errFirstSource, errFirstDie, errFirstUnit, errFirstStep, errFirstValid] else
  if o = 0x20 then [errPoisonAddr, errPoisonConsumer, errPoisonContained, errPoisonValid] else
  if 0x28 ≤ o ∧ o < 0x38 ∧ (o - 0x28) % 8 = 0 then [errMemBerthCorr ((o - 0x28) / 8), errMemBerthUnc ((o - 0x28) / 8), errMemHoldCorr ((o - 0x28) / 8), errMemHoldUnc ((o - 0x28) / 8)] else
  if o = 0x38 then [errRetireRetired0, errRetireRetired1, errRetireQueued0, errRetireQueued1] else
  if o = 0x40 then [errWhseCorr0, errWhseCorr1, errWhseCorr2, errWhseCorr3] else
  if o = 0x48 then [errWhseUncUnc0, errWhseUncUnc1, errWhseUncUnc2, errWhseUncUnc3] else
  if o = 0x50 then [errNowinNowin, errNowinHostDenied] else
  if o = 0x58 then [errSecureSecuredStep, errSecureWardStep] else
  if o = 0x60 then [errFatalsFatals] else
  []

/-- The fields of the QUAY register at a block offset. -/
def quayRegFields (o : Nat) : List Field :=
  if 0x0 ≤ o ∧ o < 0x100 ∧ (o - 0x0) % 8 = 0 then [quayPortStateState ((o - 0x0) / 8), quayPortStateSpareIn ((o - 0x0) / 8), quayPortStateLaneOut ((o - 0x0) / 8), quayPortStateFarIndex ((o - 0x0) / 8), quayPortStateFarPort ((o - 0x0) / 8), quayPortStateIdentMismatch ((o - 0x0) / 8), quayPortStateRetryFail ((o - 0x0) / 8)] else
  if 0x100 ≤ o ∧ o < 0x200 ∧ (o - 0x100) % 8 = 0 then [quayPortCntReplays ((o - 0x100) / 8), quayPortCntLaneSwitches ((o - 0x100) / 8), quayPortCntTimeLost ((o - 0x100) / 8)] else
  if 0x200 ≤ o ∧ o < 0x300 ∧ (o - 0x200) % 8 = 0 then [quayExpectFarIndex ((o - 0x200) / 8), quayExpectFarPort ((o - 0x200) / 8), quayExpectDir ((o - 0x200) / 8), quayExpectEn ((o - 0x200) / 8)] else
  if o = 0x300 then [quayParentCand0, quayParentCand1, quayParentCand2, quayParentCand3] else
  if o = 0x308 then [quayHallHxM1, quayHallHyM1, quayHallHzM1, quayHallIndex, quayHallHallTag] else
  if o = 0x310 then [quaySdtBase] else
  if o = 0x318 then [quayFaultStream, quayFaultPort, quayFaultCause, quayFaultValid] else
  []

/-- The fields of the STOR register at a block offset. -/
def storRegFields (o : Nat) : List Field :=
  if 0x0 ≤ o ∧ o < 0x10 ∧ (o - 0x0) % 8 = 0 then [storPortLinkUp ((o - 0x0) / 8), storPortRoceReady ((o - 0x0) / 8), storPortConns ((o - 0x0) / 8)] else
  if o = 0x10 then [storBytesBytes] else
  if o = 0x18 then [storRetryRetries, storRetryReconnects] else
  if o = 0x20 then [storTgtBase, storTgtCountM1] else
  if o = 0x28 then [storFaultStream, storFaultPort, storFaultCause, storFaultValid] else
  []

/-- The fields of the CRANE register at a block offset. -/
def craneRegFields (u : Nat) (o : Nat) : List Field :=
  if o = 0x0 then [craneStatusFgRetired u, craneStatusBgRetired u] else
  if o = 0x8 then [craneStateFgStopped u, craneStateBgEntry u, craneStateBgFree u, craneStateRepaired u] else
  if o = 0x10 then [craneRejectSeq u, craneRejectOpcode u, craneRejectCause u, craneRejectBg u, craneRejectValid u] else
  if o = 0x18 then [craneBgqBaseBase u, craneBgqBaseCount u] else
  if o = 0x20 then [craneRepairRow u, craneRepairRowEn u, craneRepairCol u, craneRepairColEn u] else
  if o = 0x1000 then [craneActGenGen0 u, craneActGenGen1 u, craneActGenGen2 u, craneActGenGen3 u, craneActGenDirty u, craneActGenFloodValid u] else
  []

/-- The fields of the TUG register at a block offset. -/
def tugRegFields (u : Nat) (o : Nat) : List Field :=
  if o = 0x0 then [tugViolCountCount u, tugViolCountDiag u] else
  if o = 0x8 then [tugViolFirstAddr u, tugViolFirstTug u, tugViolFirstThread u, tugViolFirstKind u, tugViolFirstValid u] else
  if o = 0x30 then [tugFaultPc u, tugFaultTug u, tugFaultThread u, tugFaultCause u, tugFaultValid u] else
  if 0x100 ≤ o ∧ o < 0x140 ∧ (o - 0x100) % 8 = 0 then [tugCqBindThread u ((o - 0x100) / 8), tugCqBindEn u ((o - 0x100) / 8)] else
  if 0x200 ≤ o ∧ o < 0x300 ∧ (o - 0x200) % 16 = 0 then [tugRegionBaseRd u ((o - 0x200) / 16), tugRegionBaseWr u ((o - 0x200) / 16), tugRegionBaseEx u ((o - 0x200) / 16), tugRegionBaseEn u ((o - 0x200) / 16), tugRegionBaseBase u ((o - 0x200) / 16)] else
  if 0x208 ≤ o ∧ o < 0x308 ∧ (o - 0x208) % 16 = 0 then [tugRegionLimitLast u ((o - 0x208) / 16)] else
  []

/-- The fields of the BARGE register at a block offset. -/
def bargeRegFields (u : Nat) (o : Nat) : List Field :=
  if o = 0x0 then [bargeStblBase u] else
  if o = 0x8 then [bargeStartStream u, bargeStartBarge u] else
  if o = 0x10 then [bargeFaultStream u, bargeFaultBarge u, bargeFaultCause u, bargeFaultFw u, bargeFaultValid u] else
  []

/-- The fields of the HOLD register at a block offset. -/
def holdRegFields (u : Nat) (o : Nat) : List Field :=
  if o = 0x0 then [holdStatusDevOk u, holdStatusRemapUsed u] else
  if o = 0x8 then [holdRemapPage u, holdRemapGo u] else
  if o = 0x10 then [holdScrubPasses u, holdScrubPeriodH u] else
  []

/-- The fields of the WHSE register at a block offset. -/
def whseRegFields (u : Nat) (o : Nat) : List Field :=
  if 0x0 ≤ o ∧ o < 0x10 ∧ (o - 0x0) % 8 = 0 then [whsePortState u ((o - 0x0) / 8), whsePortWidth u ((o - 0x0) / 8), whsePortSpeed u ((o - 0x0) / 8), whsePortLaneReversed u ((o - 0x0) / 8), whsePortReject u ((o - 0x0) / 8), whsePortCapGib u ((o - 0x0) / 8)] else
  if o = 0x10 then [whseMapW u, whseMapCGib u] else
  []

/-- The fields of the LEDGER register at a block offset. -/
def ledgerRegFields (o : Nat) : List Field :=
  if o = 0x0 then [ledgerBaseBase, ledgerBaseRecordsM1] else
  if o = 0x8 then [ledgerFlipIndex] else
  if o = 0x10 then [ledgerStatusFlips, ledgerStatusPending] else
  if 0x18 ≤ o ∧ o < 0x28 ∧ (o - 0x18) % 8 = 0 then [ledgerUpdDesc ((o - 0x18) / 8)] else
  if o = 0x28 then [ledgerDoneDone0, ledgerDoneDone1] else
  []

/-- The fields of the MANIFEST register at a block offset. -/
def manifestRegFields (o : Nat) : List Field :=
  if o = 0x0 then [manifestPinEffStep, manifestPinEffMbatch, manifestPinBeforeSlot, manifestPinAfterSlot] else
  if 0x8 ≤ o ∧ o < 0x18 ∧ (o - 0x8) % 8 = 0 then [manifestSlotBase ((o - 0x8) / 8), manifestSlotState ((o - 0x8) / 8)] else
  if o = 0x18 then [manifestVerVer0, manifestVerVer1] else
  if o = 0x20 then [manifestSwitchEffStep, manifestSwitchEffMbatch, manifestSwitchSlot, manifestSwitchGo] else
  if o = 0x28 then [manifestResultCode, manifestResultAccepted] else
  []

/-- The fields of the control register that holds byte offset x of control space (Table 13-2). -/
def regFields (x : Nat) : List Field :=
  let i := x / 0x100000
  let o := x % 0x100000 / 8 * 8
  if i = 0x00 then modRegFields o else
  if i = 0x01 then tideRegFields o else
  if i = 0x02 then pwrRegFields o else
  if i = 0x03 then secRegFields o else
  if i = 0x04 then perfRegFields o else
  if i = 0x05 then errRegFields o else
  if i = 0x06 then quayRegFields o else
  if i = 0x07 then storRegFields o else
  if 0x08 ≤ i ∧ i < 0x18 then craneRegFields (i - 0x08) o else
  if 0x18 ≤ i ∧ i < 0x1A then tugRegFields (i - 0x18) o else
  if 0x1A ≤ i ∧ i < 0x1C then bargeRegFields (i - 0x1A) o else
  if 0x1C ≤ i ∧ i < 0x1E then holdRegFields (i - 0x1C) o else
  if 0x1E ≤ i ∧ i < 0x20 then whseRegFields (i - 0x1E) o else
  if i = 0x20 then ledgerRegFields o else
  if i = 0x21 then manifestRegFields o else
  []

/-- Total of listed values placed at their bits. -/
def assemble (s : State) : List Field → Nat
  | [] => 0
  | f :: rest => fget s f * 2 ^ f.lo + assemble s rest

end Sys2Proof.Machine
end

