-- ==== Sys2Proof/Machine/Shake.lean ====
section
/-! DEFINITION. SHAKE256 of FIPS 202, the digest of every image, page and record (chapter 17, R450), and the
counter-based generator rand64 of R160. SHAKE256 itself is the standard's, not the manual's: PRESUMED, assumption 5. -/

namespace Sys2Proof.Machine

/-- Lane (x, y) of a Keccak state kept as 25 lanes, x fastest. -/
def lane (a : List Word) (x y : Nat) : Word := a.getD (x % 5 + 5 * (y % 5)) 0

/-- A state from its lanes. -/
def lanes (f : Nat → Nat → Word) : List Word := (List.range 25).map (fun i => f (i % 5) (i / 5))

/-- Rotation offset of each lane (FIPS 202, step ρ). -/
def rhoOffsets : List Nat :=
  [0, 1, 62, 28, 27, 36, 44, 6, 55, 20, 3, 10, 43, 25, 39, 41, 45, 15, 21, 8, 18, 2, 61, 56, 14]

/-- Round constants (FIPS 202, step ι). -/
def iotaConstants : List Word :=
  [0x0000000000000001, 0x0000000000008082, 0x800000000000808A, 0x8000000080008000,
   0x000000000000808B, 0x0000000080000001, 0x8000000080008081, 0x8000000000008009,
   0x000000000000008A, 0x0000000000000088, 0x0000000080008009, 0x000000008000000A] ++
  [0x000000008000808B, 0x800000000000008B, 0x8000000000008089, 0x8000000000008003,
   0x8000000000008002, 0x8000000000000080, 0x000000000000800A, 0x800000008000000A,
   0x8000000080008081, 0x8000000000008080, 0x0000000080000001, 0x8000000080008008]

/-- One round: θ, ρ, π, χ, ι. -/
def keccakRound (a : List Word) (rc : Word) : List Word :=
  let c := (List.range 5).map (fun x => lane a x 0 ^^^ lane a x 1 ^^^ lane a x 2 ^^^ lane a x 3 ^^^ lane a x 4)
  let d := (List.range 5).map (fun x => c.getD ((x + 4) % 5) 0 ^^^ (c.getD ((x + 1) % 5) 0).rotateLeft 1)
  let t := lanes (fun x y => (lane a x y ^^^ d.getD x 0).rotateLeft (rhoOffsets.getD (x + 5 * y) 0))
  let b := lanes (fun x y => lane t ((x + 3 * y) % 5) x)
  let e := lanes (fun x y => lane b x y ^^^ (~~~(lane b (x + 1) y) &&& lane b (x + 2) y))
  match e with
  | [] => []
  | l :: rest => (l ^^^ rc) :: rest

def keccakF (a : List Word) : List Word := iotaConstants.foldl keccakRound a

/-- The value of bytes taken little-endian (R10). -/
def natOfBytes : List Byte → Nat
  | [] => 0
  | b :: rest => b.toNat + 256 * natOfBytes rest

/-- The low n bytes of a value, little-endian (R10). -/
def bytesOfNat : Nat → Nat → List Byte
  | 0, _ => []
  | n + 1, v => BitVec.ofNat 8 v :: bytesOfNat n (v / 256)

/-- The rate of SHAKE256 in bytes. -/
def shakeRate : Nat := 136

/-- One rate-sized block absorbed into the state. -/
def absorb (a : List Word) (block : List Byte) : List Word :=
  keccakF (lanes (fun x y =>
    lane a x y ^^^ (if x + 5 * y < 17 then BitVec.ofNat 64 (natOfBytes ((block.drop (8 * (x + 5 * y))).take 8)) else 0)))

/-- Absorbs n whole blocks in turn. -/
def absorbAll : Nat → List Word → List Byte → List Word
  | 0, a, _ => a
  | n + 1, a, m => absorbAll n (absorb a (m.take shakeRate)) (m.drop shakeRate)

/-- The message with the suffix 1111 and the padding of FIPS 202, up to whole blocks. -/
def shakePad (m : List Byte) : List Byte :=
  let r := m.length % shakeRate
  if r = shakeRate - 1 then m ++ [0x9F#8]
  else m ++ [0x1F#8] ++ List.replicate (shakeRate - 2 - r) 0#8 ++ [0x80#8]

/-- The first n bytes of SHAKE256, n at most the rate. -/
def shake256 (n : Nat) (m : List Byte) : List Byte :=
  let p := shakePad m
  let s := absorbAll (p.length / shakeRate) (List.replicate 25 0#64) p
  ((s.take 17).flatMap (fun w => bytesOfNat 8 w.toNat)).take n

/-- The 256-bit digest every structure of the manual uses. -/
def digest (m : List Byte) : List Byte := shake256 32 m

/-- mix of R160. -/
def mix (z : Word) : Word :=
  let z1 := (z ^^^ (z >>> 30)) * 0xBF58476D1CE4E5B9#64
  let z2 := (z1 ^^^ (z1 >>> 27)) * 0x94D049BB133111EB#64
  z2 ^^^ (z2 >>> 31)

/-- rand64 of R160. -/
def rand64 (seed key ctr : Word) : Word :=
  mix (mix (mix (seed ^^^ 0x9E3779B97F4A7C15#64) ^^^ key) ^^^ ctr)

/-- The draw of one element for one purpose: the counter is the purpose in [63:56] and the index modulo 2^56 (R161). -/
def draw (seed key : Word) (purpose idx : Nat) : Word :=
  rand64 seed key (BitVec.ofNat 64 (purpose % 256 * 2 ^ 56 + idx % 2 ^ 56))

/-- A key word (Table 05-5). -/
def keyWord (step : BitVec 32) (layer mbatch : BitVec 16) : Word := mbatch ++ layer ++ step

/-- The 16 bits a stochastic rounding takes from a draw (R158). -/
def drawLow16 (w : Word) : Nat := (w.extractLsb' 0 16).toNat

/-- A dropout decision (R163). -/
def dropped (w : Word) (thresh : BitVec 32) : Bool := decide (w.extractLsb' 32 32 < thresh)

end Sys2Proof.Machine
end

