-- ==== Sys2Proof/Machine/Ops.lean ====
section
/-! DEFINITION. The named operations over memory and over the machine's arrays. Every change of memory goes through
`writeBytes`, `writePoison` or `writeFrom`, so that the canonical form of memory is kept in one place. -/

namespace Sys2Proof.Machine

/-- What a command answers. -/
abbrev Out := Host.Outcome State Fault Refusal

/-- A command whose conditions do not hold where it arrives has no effect: DESIGN CHOICE, assumption 9. -/
def turnedAway (s : State) : Out := .next s

/-- A command's effect where its conditions hold. -/
def whenever (c : Bool) (t s : State) : Out := if c then .next t else turnedAway s

/-! The arrays of the machine. -/

def thread (s : State) (t : Nat) : Thread := Tab.get {} s.threads t
def setThread (s : State) (t : Nat) (th : Thread) : State := { s with threads := Tab.set {} s.threads t th }
def core (s : State) (k : Nat) : Core := Tab.get {} s.cores k
def setCore (s : State) (k : Nat) (c : Core) : State := { s with cores := Tab.set {} s.cores k c }
def crane (s : State) (c : Nat) : Crane := Tab.get {} s.cranes c
def setCrane (s : State) (c : Nat) (x : Crane) : State := { s with cranes := Tab.set {} s.cranes c x }
def bargeSt (s : State) (b : Nat) : BargeSt := Tab.get {} s.barges b
def setBarge (s : State) (b : Nat) (x : BargeSt) : State := { s with barges := Tab.set {} s.barges b x }
def port (s : State) (p : Nat) : Port := Tab.get {} s.ports p
def setPort (s : State) (p : Nat) (x : Port) : State := { s with ports := Tab.set {} s.ports p x }

/-- The n-th free value from here on (assumption 3). -/
def freeAt (s : State) (n : Nat) : Word := Config.freeWord (s.free + n)
/-- A free choice. -/
def freeChoice (s : State) (n : Nat) : Bool := Config.freeBit (s.free + n)
/-- The state after n free values have been taken. -/
def tookFree (s : State) (n : Nat) : State := { s with free := s.free + n }

/-! Memory. -/

/-- What a byte that nothing has written reads as: DESIGN CHOICE 0x00, assumption 2. -/
def memDefault : Byte := 0

/-- One byte of Berth, Hold or Warehouse memory at a device address (R10, R269). -/
def memByte (s : State) (a : Nat) : Byte := Tab.get memDefault s.mem a

/-- The canonical form of memory: addresses strictly rising, no byte equal to the default listed. -/
abbrev memWf (s : State) : Prop := Tab.canon memDefault s.mem = true

/-- One byte written. -/
def setByte (s : State) (a : Nat) (v : Byte) : State := { s with mem := Tab.set memDefault s.mem a v }

/-- n bytes from an address, lowest first. -/
def readBytes (s : State) (a n : Nat) : List Byte := (List.range n).map (fun i => memByte s (a + i))

/-- n bytes as a little-endian number (R10). -/
def readNat (s : State) (a n : Nat) : Nat := natOfBytes (readBytes s a n)

/-- Bytes written at rising addresses. -/
def setBytes (s : State) (a : Nat) : List Byte → State
  | [] => s
  | b :: rest => setBytes (setByte s a b) (a + 1) rest

/-- The 128-byte line of an address (R271, R274, R381). -/
def lineOf (a : Nat) : Nat := a / 128

/-- The lines that a write of n bytes at a replaces whole. -/
def wholeLines (a n : Nat) : List Nat :=
  (List.range (n / 128 + 1)).filterMap (fun i =>
    let l := (a + 127) / 128 + i
    if a ≤ l * 128 ∧ l * 128 + 128 ≤ a + n then some l else none)

/-- The lines that a write of n bytes at a touches. -/
def touchedLines (a n : Nat) : List Nat :=
  if n = 0 then [] else (List.range ((a + n - 1) / 128 - a / 128 + 1)).map (fun i => a / 128 + i)

def setPoisonLines (s : State) (ls : List Nat) (p : Bool) : State :=
  { s with poison := ls.foldl (fun t l => Tab.set false t l p) s.poison }

/-- The Crane command that wrote bytes, for R119. -/
def markWriter (s : State) (a n uid : Nat) : State :=
  { s with writer := (List.range n).foldl (fun t i => Tab.set 0 t (a + i) uid) s.writer }

/-- A write that is not poisoned: it clears the poison of every line it replaces whole (R381). -/
def writeFrom (s : State) (uid a : Nat) (bs : List Byte) : State :=
  markWriter (setPoisonLines (setBytes s a bs) (wholeLines a bs.length) false) a bs.length uid

/-- A clean write by an agent other than a Crane. -/
def writeBytes (s : State) (a : Nat) (bs : List Byte) : State := writeFrom s 0 a bs

/-- A poisoned write: every line it touches is poisoned (R381). -/
def writePoison (s : State) (uid a : Nat) (bs : List Byte) : State :=
  markWriter (setPoisonLines (setBytes s a bs) (touchedLines a bs.length) true) a bs.length uid

/-- An n-byte little-endian number written. -/
def writeNat (s : State) (a n v : Nat) : State := writeBytes s a (bytesOfNat n v)

/-! The address map (Table 10-1). -/

inductive Window where
  | berth
  | control
  | hold
  | whse
  | nowhere
  deriving DecidableEq, Repr

def holdBase : Nat := 0x010000000000
def whseBase : Nat := 0x100000000000
def ctlBase : Nat := 0x40000000
/-- 144 GiB (R269). -/
def holdSize : Nat := 0x2400000000
/-- Bytes of Warehouse that are populated: W × C (R281). -/
def whseSize (s : State) : Nat := fget s (F.whseMapW 0) * fget s (F.whseMapCGib 0) * 0x40000000

def windowOf (a : Nat) : Window :=
  if a < ctlBase then .berth
  else if a < 0x80000000 then .control
  else if holdBase ≤ a ∧ a < holdBase + 0x4000000000 then .hold
  else if whseBase ≤ a ∧ a < whseBase + 0x100000000000 then .whse
  else .nowhere

/-- The address is populated memory: a Berth, the first 144 GiB of the Hold or the populated Warehouse. -/
def populated (s : State) (a : Nat) : Bool :=
  match windowOf a with
  | .berth => true
  | .hold => decide (a < holdBase + holdSize)
  | .whse => decide (a < whseBase + whseSize s)
  | _ => false

/-- Every byte of [a, a + n) is populated memory of one window. -/
def populatedRange (s : State) (a n : Nat) : Bool :=
  n = 0 || (populated s a && populated s (a + n - 1) && decide (windowOf a = windowOf (a + n - 1)))

/-- The firmware-reserved 512 MiB of each die's Hold (R278). -/
def reservedHold (a : Nat) : Bool :=
  decide (0x0111E0000000 ≤ a ∧ a < 0x011200000000) || decide (0x0123E0000000 ≤ a ∧ a < 0x012400000000)

/-- [a, a + n) touches a reserved area. -/
def touchesReserved (a n : Nat) : Bool :=
  decide (n ≠ 0) &&
    (decide (a < 0x011200000000 ∧ 0x0111E0000000 < a + n) || decide (a < 0x012400000000 ∧ 0x0123E0000000 < a + n))

/-- The Warehouse port that serves an address (R280). -/
def whsePortOf (s : State) (a : Nat) : Nat :=
  let g := (a - whseBase) / 4096
  if fget s (F.whseMapW 0) = 4 then g % 4 else 2 * (g % 2)

/-- The home die of an address (Table 10-1). -/
def homeDie (s : State) (a : Nat) : Nat :=
  match windowOf a with
  | .berth => if a < 0x20000000 then 0 else 1
  | .hold => if a < holdBase + 0x1200000000 then 0 else 1
  | .whse => whsePortOf s a / 2
  | _ => 0

/-- A Warehouse port that has failed (R374). -/
def whseFailed (s : State) (p : Nat) : Bool := decide (fget s (F.whsePortState (p / 2) (p % 2)) = 4)

/-- The line of an address is poisoned, or belongs to a failed Warehouse port (R374, R381). -/
def poisoned (s : State) (a : Nat) : Bool :=
  Tab.get false s.poison (lineOf a) || (decide (windowOf a = .whse) && whseFailed s (whsePortOf s a))

/-- Some line of [a, a + n) is poisoned. -/
def poisonedRange (s : State) (a n : Nat) : Bool :=
  (touchedLines a n).any (fun l => poisoned s (l * 128))

/-! The job's regions (R99), seen from a die's TUG block. -/

inductive Need where
  | read
  | write
  | both
  | exec
  deriving DecidableEq, Repr

/-- Region n of die d is enabled, grants the access, and holds the whole of [a, a + len). -/
def regionGrants (s : State) (d : Nat) (need : Need) (a len n : Nat) : Bool :=
  flag s (F.tugRegionBaseEn d n) &&
  (match need with
   | .read => flag s (F.tugRegionBaseRd d n)
   | .write => flag s (F.tugRegionBaseWr d n)
   | .both => flag s (F.tugRegionBaseRd d n) && flag s (F.tugRegionBaseWr d n)
   | .exec => flag s (F.tugRegionBaseEx d n)) &&
  decide (fget s (F.tugRegionBaseBase d n) * 4096 ≤ a) &&
  decide (a + len ≤ fget s (F.tugRegionLimitLast d n) * 4096 + 4096)

/-- Some enabled region permits the access wholly (R99). -/
def regionOk (s : State) (d : Nat) (need : Need) (a len : Nat) : Bool :=
  (List.range 16).any (regionGrants s d need a len)

/-- [a, a + len) touches an enabled region. -/
def touchesRegion (s : State) (d : Nat) (a len : Nat) : Bool :=
  (List.range 16).any (fun n => flag s (F.tugRegionBaseEn d n) &&
    decide (a < fget s (F.tugRegionLimitLast d n) * 4096 + 4096) &&
    decide (fget s (F.tugRegionBaseBase d n) * 4096 < a + len))

/-- A job is live: from its launch commit until it has ended (R370, R472). -/
def jobLive (s : State) : Bool := decide (s.job.st = 5) || decide (s.job.st = 6)

/-- Module Tug of a thread (R67). -/
def tugOf (t : Nat) : Nat := t / 4
/-- Die of a thread. -/
def dieOfThread (t : Nat) : Nat := t / 256
/-- Die of a module Crane. -/
def dieOfCrane (c : Nat) : Nat := c / 8
/-- Device address of a die-local Berth offset (R117, R269). -/
def berthAddr (d o : Nat) : Nat := d * 0x20000000 + o % 0x20000000
/-- A job thread: not on Tug 0 of its die (R66). -/
def isJobThread (t : Nat) : Bool := decide (t / 4 % 64 ≠ 0)

end Sys2Proof.Machine
end

