-- ==== Sys2Proof/Machine/Count.lean ====
section
/-! DEFINITION. Counting for performance monitoring (chapter 15). Every command that is one of the events of Table 15-2
counts itself through `countEvent`; a latency histogram counts through `countLatency`. Only `State.perf` changes. -/

namespace Sys2Proof.Machine

/-- An event code exists in a class (Tables 15-2 and 15-3). -/
def eventExists (cls ev : Nat) : Bool :=
  match cls with
  | 0 => decide (1 ≤ ev ∧ ev ≤ 8) || decide (0x10 ≤ ev ∧ ev ≤ 0x18)
  | 1 => decide (1 ≤ ev ∧ ev ≤ 0xA) || decide (0x10 ≤ ev ∧ ev ≤ 0x1B)
  | 2 => decide (1 ≤ ev ∧ ev ≤ 7) || decide (0x10 ≤ ev ∧ ev ≤ 0x16)
  | 3 => decide (1 ≤ ev ∧ ev ≤ 7) || decide (0x10 ≤ ev ∧ ev ≤ 0x16)
  | 4 => decide (1 ≤ ev ∧ ev ≤ 3)
  | 5 => decide (1 ≤ ev ∧ ev ≤ 7)
  | 6 => decide (1 ≤ ev ∧ ev ≤ 5)
  | 7 => decide (1 ≤ ev ∧ ev ≤ 7 ∧ ev ≠ 4)
  | _ => false

/-- Units of a class (Table 15-1); Ledger events use unit 0. -/
def unitExists (cls ev unit : Nat) : Bool :=
  match cls with
  | 0 => decide (unit < 16)
  | 1 => decide (unit < 128)
  | 2 => decide (unit < 64)
  | 3 => decide (unit < 32)
  | 4 => decide (unit < 128)
  | 5 => decide (unit < 32)
  | 6 => decide (unit < 2) && (decide (unit = 0) || (decide (ev ≠ 3) && decide (ev ≠ 5)))
  | _ => decide (unit = 0)

/-- Selector n names nothing that exists, or holds a reserved value (R407). -/
def selBad (s : State) (n : Nat) : Bool :=
  !(eventExists (fget s (F.perfSelCls n)) (fget s (F.perfSelEvent n)) &&
    unitExists (fget s (F.perfSelCls n)) (fget s (F.perfSelEvent n)) (fget s (F.perfSelUnit n)) &&
    decide (fget s (F.perfSelMode n) < 2))

/-- Selector n belongs to the odd half of a chained pair, or to the even half (R405). -/
def chained (s : State) (n : Nat) : Bool := flag s (F.perfSelChain (n / 2 * 2 + 1))

/-- What an event's value adds under selector n (R404). -/
def increment (s : State) (n v : Nat) : Nat :=
  let v := if v < 255 then v else 255
  let th := fget s (F.perfSelThresh n)
  if fget s (F.perfSelMode n) = 0 then
    if th = 0 then v else if decide (th ≤ v) ^^ flag s (F.perfSelInvert n) then 1 else 0
  else if (if th = 0 then 1 else th) ≤ v then 1 else 0

/-- The largest count of a 48-bit counter or bin. -/
def countMax : Nat := 2 ^ 48 - 1

/-- Counter n advanced; the result tells whether an ovf flag rose (R405). -/
def addCounter (s : State) (p : PerfSt) (n inc : Nat) : PerfSt × Bool :=
  let c := Tab.get 0 p.ctr n
  if inc = 0 then (p, false)
  else if chained s n then
    if n % 2 = 1 then (p, false)
    else if c + inc ≤ countMax then ({ p with ctr := Tab.set 0 p.ctr n (c + inc) }, false)
    else if Tab.get 0 p.ctr (n + 1) < countMax then
      ({ p with ctr := Tab.set 0 (Tab.set 0 p.ctr n ((c + inc) % 2 ^ 48)) (n + 1) (Tab.get 0 p.ctr (n + 1) + 1) }, false)
    else
      ({ p with ctr := Tab.set 0 (Tab.set 0 p.ctr n countMax) (n + 1) countMax, ovf := Tab.set false p.ovf (n + 1) true },
        !Tab.get false p.ovf (n + 1))
  else if c + inc ≤ countMax then ({ p with ctr := Tab.set 0 p.ctr n (c + inc) }, false)
  else ({ p with ctr := Tab.set 0 p.ctr n countMax, ovf := Tab.set false p.ovf n true }, !Tab.get false p.ovf n)

/-- Selector n counts the event: enabled, well formed, and naming it (R403, R407). -/
def selects (s : State) (n cls unit ev tbit : Nat) : Bool :=
  flag s (F.perfSelEn n) && !selBad s n && decide (fget s (F.perfSelCls n) = cls) &&
  decide (fget s (F.perfSelUnit n) = unit) && decide (fget s (F.perfSelEvent n) = ev) &&
  (decide (cls ≠ 1) || decide (fget s (F.perfSelTmask n) = 0) || decide (fget s (F.perfSelTmask n) / 2 ^ tbit % 2 = 1))

/-- All counters after one event; the rising of an ovf flag is itself an event (R406), counted once more. -/
def countIn (s : State) : Nat → PerfSt → Nat → Nat → Nat → Nat → Nat → PerfSt
  | 0, p, _, _, _, _, _ => p
  | fuel + 1, p, cls, unit, ev, v, tbit =>
    let r := (List.range 8).foldl (fun (q : PerfSt × Nat) n =>
      if selects s n cls unit ev tbit then
        let (p', rose) := addCounter s q.1 n (increment s n v)
        (p', if rose then q.2 + 1 else q.2)
      else q) (p, 0)
    if r.2 = 0 then r.1
    else
      let p' := countIn s fuel r.1 7 0 5 r.2 0
      if flag s F.perfCtlFreezeOnOvf then { p' with run := false } else p'

/-- An event of Table 15-2 with value v at a unit; `tbit` is the thread within its core for class 1. -/
def countEvent (s : State) (cls unit ev v tbit : Nat) : State :=
  if s.perf.run then { s with perf := countIn s 3 s.perf cls unit ev v tbit } else s

/-- Bin of a latency (R411). -/
def histBin (lg : Bool) (w b l : Nat) : Nat :=
  if lg then
    let bb := if b = 0 then 1 else b
    if l < bb then 0 else if 1 + Nat.log2 (l / bb) < 15 then 1 + Nat.log2 (l / bb) else 15
  else if l < b then 0
  else if 1 + (l - b) / 2 ^ w < 15 then 1 + (l - b) / 2 ^ w else 15

/-- Histogram unit h counts items of the measure at the unit and tier (R410). -/
def histSelects (s : State) (h measure unit tier : Nat) : Bool :=
  flag s (F.perfHistCfgEn h) && decide (fget s (F.perfHistCfgMeasure h) = measure) && decide (measure < 7) &&
  (decide (measure = 6) || decide (fget s (F.perfHistCfgUnit h) = unit)) &&
  (decide (measure ≠ 0) || decide (fget s (F.perfHistCfgTier h) = 0) || decide (fget s (F.perfHistCfgTier h) = tier))

/-- One more item with latency l. -/
def addBin (s : State) (p : PerfSt) (h l : Nat) : PerfSt :=
  let k := h * 16 + histBin (flag s (F.perfHistCfgLg h)) (fget s (F.perfHistCfgW h)) (fget s (F.perfHistCfgB h)) l
  let c := Tab.get 0 p.bins k
  { p with bins := Tab.set 0 p.bins k (if c < countMax then c + 1 else c) }

/-- An item of a histogram measure with a known latency. -/
def countItem (s : State) (measure unit tier l : Nat) : State :=
  if s.perf.run then
    { s with perf := (List.range 2).foldl (fun p h => if histSelects s h measure unit tier then addBin s p h l else p) s.perf }
  else s

/-- An item whose latency in clock cycles the model does not keep: the latency is a free value (assumption 7). -/
def countLatency (s : State) (measure unit tier : Nat) : State :=
  let s' := countItem s measure unit tier (Config.freeWord s.perf.lat).toNat
  { s' with perf := { s'.perf with lat := s'.perf.lat + 1 } }

/-- An eligible instruction issued on a Tug moves its sampling counter down (R412). -/
def sampleTug (s : State) (t : Nat) : State :=
  if flag s F.perfSampCtlTugEn && (isJobThread t || flag s F.perfSampCtlFwIncl) then
    { s with perf := { s.perf with tugLeft := Tab.set 0 s.perf.tugLeft (tugOf t) (Tab.get 0 s.perf.tugLeft (tugOf t) - 1) } }
  else s

/-- An accepted Crane command moves its sampling counter down (R413). -/
def sampleCrane (s : State) (c : Nat) (bg : Bool) : State :=
  if flag s F.perfSampCtlCraneEn && (!bg || flag s F.perfSampCtlFwIncl) then
    { s with perf := { s.perf with craneLeft := Tab.set 0 s.perf.craneLeft c (Tab.get 0 s.perf.craneLeft c - 1) } }
  else s

/-- An instruction of a thread issues: events 0x01 of class 1 and the sampling counter. -/
def countIssue (s : State) (t : Nat) : State := sampleTug (countEvent s 1 (tugOf t) 1 1 (t % 4)) t

end Sys2Proof.Machine
end

