-- ==== Sys2Proof/Machine/Events.lean ====
section
/-! DEFINITION. Error events (chapter 14): their classes and sources, what ERR records of them, the fault end, poison
consumption and containment, the launch status page, and the end of a job as a program fault. -/

namespace Sys2Proof.Machine

/-! The status page (R363, Table 13-5). -/

def launchArea : Nat := 0x0111E0000000
def statusPage : Nat := 0x0111E0001000
def switchPage : Nat := 0x0111E0002000

/-- Bytes 0x000 to 0x028 of the status page. -/
def statusBytes (j : Job) : List Byte :=
  bytesOfNat 1 j.st ++ bytesOfNat 1 j.result ++ bytesOfNat 1 j.groupFail ++ bytesOfNat 1 j.endCause ++
  bytesOfNat 4 j.acked.toNat ++ bytesOfNat 8 j.jobId.toNat ++ bytesOfNat 8 j.commitNs.toNat ++
  bytesOfNat 8 j.endDetail.toNat ++ bytesOfNat 4 j.step.toNat ++ bytesOfNat 4 j.switchSeq.toNat ++
  bytesOfNat 1 j.switchCode

/-- Firmware writes the status page from its view of the job. -/
def writeStatus (s : State) : State := writeBytes s statusPage (statusBytes s.job)

/-- The job's fields replaced and shown on the status page. -/
def setJob (s : State) (j : Job) : State := writeStatus { s with job := j }

/-! Classes and records. -/

/-- Class code of an error source (Tables 14-1 and 14-2). -/
def classOf (source : Nat) : Nat :=
  if source < 0x10 then 1 else if source < 0x20 then 2 else if source < 0x30 then 3 else 4

/-- ERR_CLASS.seen takes the bit of a class. -/
def seeClass (s : State) (c : Nat) : State := fput s F.errClsSeen (fget s F.errClsSeen ||| 2 ^ (c - 1))

/-- A corrected event (Table 14-1): counted and nothing else. -/
def corrected (s : State) : State := fcount (seeClass s 1) F.errCorrCorrected 1

/-- n corrected events. -/
def correctedN (s : State) (n : Nat) : State := if n = 0 then s else fcount (seeClass s 1) F.errCorrCorrected n

/-- ERR_FIRST captures the first step-fatal or module-fatal event; a later one adds to ERR_FATALS (R378). -/
def captureFatal (s : State) (source die unit : Nat) : State :=
  if flag s F.errFirstValid then fcount s F.errFatalsFatals 1
  else
    fput (fput (fput (fput (fput s F.errFirstSource source) F.errFirstDie die) F.errFirstUnit unit)
      F.errFirstStep s.job.curStep) F.errFirstValid 1

/-- The 64-bit value of a capture register. -/
def regWord (s : State) (fs : List Field) : Word := BitVec.ofNat 64 (assemble s fs)

/-! The fault end (R379). -/

/-- A thread parked at its next instruction boundary; an access no slot has admitted has not issued and is dropped. -/
def parkThread (s : State) (t : Nat) : State :=
  setThread s t { thread s t with st := .parked, waitOn := none, held := none }

/-- Every job thread parked. -/
def parkJobThreads (s : State) : State :=
  (s.threads.map (·.1)).foldl (fun s t => if isJobThread t then parkThread s t else s) s

/-- Address of the descriptor of a module stream (R287). -/
def bargeDescAddr (s : State) (stream : Nat) : Nat := fget s (F.bargeStblBase (stream / 32768)) * 128 + stream % 32768 * 128

/-- A Barge stream depends on another module or on a gate: it has a gate or a Quay endpoint. -/
def bargeDepends (desc : List Byte) : Bool :=
  decide ((desc.getD 0x53 0).toNat / 2 % 2 = 1) || decide ((desc.getD 0x50 0).toNat % 4 = 1) ||
  decide ((desc.getD 0x50 0).toNat / 4 % 4 = 1)

/-- The writes of a list performed in order, each line of poisoned bytes poisoned. -/
def performWrites (s : State) : List BWrite → State
  | [] => s
  | w :: rest => performWrites (if w.poison then writePoison s 0 w.addr w.bytes else writeBytes s w.addr w.bytes) rest

/-- The first n bytes of a list of writes. -/
def prefixWrites : Nat → List BWrite → List BWrite
  | _, [] => []
  | n, w :: rest =>
    if w.bytes.length ≤ n then w :: prefixWrites (n - w.bytes.length) rest
    else if n = 0 then [] else [{ w with bytes := w.bytes.take n }]

/-- Bytes of a list of writes. -/
def writesLength (ws : List BWrite) : Nat := (ws.map (fun w => w.bytes.length)).sum

/-- Starts that depend on nothing but their own module. -/
def keepStarts (s : State) (l : List BargeStart) : List BargeStart :=
  l.filter (fun x => !bargeDepends (readBytes s (bargeDescAddr s x.stream) 128))

/-- One Barge's streams cancelled that depend on another module or on a gate: of the running one a prefix of its write
order, of free length, has been performed (R379). -/
def cancelBarge (s : State) (b : Nat) : State :=
  let x := bargeSt s b
  let x := { x with queue := keepStarts s x.queue, held := keepStarts s x.held }
  match x.cur with
  | none => setBarge s b x
  | some r =>
    if bargeDepends r.desc then
      setBarge (tookFree (performWrites s (prefixWrites ((freeAt s 0).toNat % (writesLength r.writes + 1)) r.writes)) 1) b
        { x with cur := none }
    else setBarge s b x

def cancelBarges (s : State) : State := (s.barges.map (·.1)).foldl cancelBarge s

/-- One port's runs cancelled. -/
def cancelRuns (s : State) (p : Nat) : State :=
  setPort s p { port s p with tx := none, rx := [], staging := [] }

def cancelQuays (s : State) : State := (s.ports.map (·.1)).foldl cancelRuns s

/-- An armed commit whose instant R60 still allows to be aborted returns to pass. -/
def abortArmed (s : State) : State :=
  if fget s F.tideStageStatusStageState = 4 ∧ s.tide.now + 16384 ≤ s.stage.armedAt then
    fput s F.tideStageStatusStageState 2
  else s

/-- Every Quay port DISABLED. -/
def disablePorts (s : State) : State := (List.range 32).foldl (fun s n => fput s (F.quayPortStateState n) 6) s

/-- What ending a job does at once: job threads parked, no new entry and no new flip, dependent work cancelled. -/
def stopJob (s : State) : State :=
  let s := parkJobThreads s
  let s := cancelQuays (cancelBarges s)
  let s := { s with tide := { s.tide with due := [], dls := [] }, ledger := { s.ledger with flips := [] } }
  abortArmed (fput s F.ledgerStatusPending 0)

/-- The end of a job by the Harbourmaster itself, with its cause and detail (Table 13-5); the state becomes ENDED when the
work already started has completed (JOB_ENDED). -/
def endJob (s : State) (cause : Nat) (detail : Word) : State :=
  let s := stopJob s
  setJob s { s.job with st := 6, endCause := cause, endDetail := detail, stopped := true, endAt := none }

def errFirstFields : List Field :=
  [F.errFirstSource, F.errFirstDie, F.errFirstUnit, F.errFirstStep, F.errFirstValid]

/-- The fault end, with cause 6 and a copy of ERR_FIRST; a module-fatal event disables every Quay port. -/
def faultEnd (s : State) (moduleFatal : Bool) : State :=
  let s := endJob s 6 (regWord s errFirstFields)
  if moduleFatal then disablePorts s else s

/-- A step-fatal or module-fatal event: recorded whether or not a job is live (R472), ending one that is (R379). -/
def fatal (s : State) (source die unit : Nat) : State :=
  let s := captureFatal (seeClass s (classOf source)) source die unit
  if jobLive s then faultEnd s (decide (classOf source = 4)) else s

/-! Poison (R381, R382). -/

/-- Line l lies in the area of micro-batch m. -/
def inArea (s : State) (l m : Nat) : Bool :=
  s.job.areas.any (fun a =>
    decide (l * 128 < a.base + m * a.stride + a.bytes ∧ a.base + m * a.stride < l * 128 + 128 ∧ 0 < a.bytes))

/-- The one micro-batch whose area holds a line, if it is exactly one. -/
def areaOf (s : State) (l : Nat) : Option Nat :=
  match (List.range s.job.m).filter (inArea s l) with
  | [m] => some m
  | _ => none

/-- The micro-batch dropped by a consumption at an address, if it is within containment. -/
def containedIn (s : State) (a : Nat) (canContain : Bool) : Option Nat :=
  if canContain && jobLive s && !s.job.cutoff then areaOf s (lineOf a) else none

/-- ERR_POISON captures the first consumption. -/
def capturePoison (s : State) (a consumer : Nat) (contained : Bool) : State :=
  if flag s F.errPoisonValid then s
  else
    fput (fput (fputBool (fput s F.errPoisonAddr (lineOf a * 128)) F.errPoisonContained contained)
      F.errPoisonConsumer consumer) F.errPoisonValid 1

/-- Micro-batch m dropped on this module for the step; a second event on it has no further effect (R378). -/
def dropMicroBatch (s : State) (m : Nat) : State :=
  if s.job.dropped.contains m then s
  else fput { s with job := { s.job with dropped := s.job.dropped ++ [m] } } F.errDropDropped (fget s F.errDropDropped + 1)

/-- One consumption event: contained, or step-fatal with source 0x20. -/
def consumePoison (s : State) (a consumer : Nat) (canContain : Bool) (die unit : Nat) : State :=
  match containedIn s a canContain with
  | some m => dropMicroBatch (seeClass (capturePoison s a consumer true) 2) m
  | none => fatal (capturePoison s a consumer false) 0x20 die unit

/-- The first poisoned line of [a, a + n), as an address. -/
def firstPoison (s : State) (a n : Nat) : Option Nat :=
  ((touchedLines a n).find? (fun l => poisoned s (l * 128))).map (fun l => l * 128)

/-- A read of [a, a + n) by a consumer: one consumption event if some line of it is poisoned. -/
def consumeRange (s : State) (a n consumer : Nat) (canContain : Bool) (die unit : Nat) : State :=
  match firstPoison s a n with
  | some l => consumePoison s l consumer canContain die unit
  | none => s

/-! Accesses outside the populated windows (R270, R361). -/

def countNowin (s : State) : State := fcount s F.errNowinNowin 1
def countHostDenied (s : State) : State := fcount s F.errNowinHostDenied 1

/-! Time. -/

/-- The Tide counter runs (R441). -/
def atMultiple (s : State) (n : Nat) : Bool := s.tide.running && decide (s.tide.now % n = 0)
/-- Schedule time is paused (R56). -/
def inHold (s : State) : Bool := flag s F.tideSchedInHold
/-- This module's hall index (R300). -/
def hallIndex (s : State) : Nat := fget s F.quayHallIndex
/-- A Quay port in SERVICE (R305). -/
def inService (s : State) (p : Nat) : Bool := decide (fget s (F.quayPortStateState p) = 3)

end Sys2Proof.Machine
end

