-- ==== Sys2Proof/Machine/Num.lean ====
section
/-! DEFINITION. Exact numbers, the formats of Table 05-1, and the roundings of R156 to R158. Every operation forms the
exact result first; one narrowing rounds it. A quotient or a root carries its inexactness in one sticky bit far below
the last bit of any target. -/

namespace Sys2Proof.Machine

/-- A value of a format: NaN, an infinity, or exactly (−1)^neg · m · 2^e. A zero keeps its sign. -/
inductive Num where
  | nan
  | inf (neg : Bool)
  | fin (neg : Bool) (m : Nat) (e : Int)
  deriving DecidableEq, Repr

/-- A binary format (Table 05-1): exponent bits, precision with the hidden bit, exponent of the smallest nonzero
value, largest magnitude maxM · 2^maxE, and whether it encodes infinities and NaN. -/
structure Fmt where
  eb : Nat
  p : Nat
  q : Int
  maxM : Nat
  maxE : Int
  special : Bool
  deriving DecidableEq, Repr

def f64 : Fmt := ⟨11, 53, -1074, 2 ^ 53 - 1, 971, true⟩
def f32 : Fmt := ⟨8, 24, -149, 2 ^ 24 - 1, 104, true⟩
def bf16 : Fmt := ⟨8, 8, -133, 2 ^ 8 - 1, 120, true⟩
def yf8e : Fmt := ⟨4, 4, -9, 15, 5, false⟩
def yf8g : Fmt := ⟨5, 3, -16, 7, 14, false⟩
/-- YI8 as a rounding target (R141): integers up to 127. -/
def yi8 : Fmt := ⟨0, 8, 0, 127, 0, false⟩

/-- How a narrowing rounds (R156 to R158); `stoch r` takes the low 16 bits r of the element's draw. -/
inductive Rnd where
  | rne
  | odd
  | stoch (r : Nat)
  deriving DecidableEq, Repr

/-- 2^n as a natural number, for a signed n; 0 below zero. -/
def pow2 (n : Int) : Nat := if n < 0 then 0 else 2 ^ n.toNat

/-- m · 2^e brought to the exponent e', which is at most e. -/
def alignTo (m : Nat) (e e' : Int) : Nat := m * 2 ^ (e - e').toNat

/-- The exponent of the leading bit of m · 2^e, for m nonzero. -/
def topExp (m : Nat) (e : Int) : Int := e + (Nat.log2 m : Int)

/-- a · 2^ea < b · 2^eb. -/
def magLt (a : Nat) (ea : Int) (b : Nat) (eb : Int) : Bool :=
  let lo := if ea ≤ eb then ea else eb
  decide (alignTo a ea lo < alignTo b eb lo)

/-- A magnitude rounded to a format's grid, with no bound above: the kept integer, its exponent, and whether bits were
lost (R156, R157, R158). -/
def roundMag (f : Fmt) (mode : Rnd) (m : Nat) (e : Int) : Nat × Int × Bool :=
  if m = 0 then (0, f.q, false)
  else
    let qe := if topExp m e + 1 - (f.p : Int) < f.q then f.q else topExp m e + 1 - (f.p : Int)
    if qe ≤ e then (alignTo m e qe, qe, false)
    else
      let sh := (qe - e).toNat
      let t := m / 2 ^ sh
      let r := m % 2 ^ sh
      if r = 0 then (t, qe, false)
      else
        match mode with
        | .odd => (if t % 2 = 0 then t + 1 else t, qe, true)
        | .rne =>
          if 2 * r < 2 ^ sh then (t, qe, true)
          else if 2 ^ sh < 2 * r then (t + 1, qe, true)
          else (if t % 2 = 0 then t else t + 1, qe, true)
        | .stoch d => (if 65536 ≤ (r * 65536) / 2 ^ sh + d then t + 1 else t, qe, true)

/-- The largest magnitude of a format, with a sign. -/
def largest (f : Fmt) (neg : Bool) : Num := .fin neg f.maxM f.maxE

/-- The exact magnitude lies beyond the largest of the format. -/
def beyond (f : Fmt) (m : Nat) (e : Int) : Bool := magLt f.maxM f.maxE m e

/-- The module's narrowing (R156 to R158, R164): a finite value beyond the largest takes the largest with its sign, and
no finite value becomes an infinity. -/
def narrow (f : Fmt) (mode : Rnd) : Num → Num
  | .nan => .nan
  | .inf s => .inf s
  | .fin s m e =>
    if beyond f m e then largest f s
    else
      let (m', e', _) := roundMag f mode m e
      if beyond f m' e' then largest f s else .fin s m' e'

/-- The exact magnitude of x exceeds the format's largest finite magnitude (R166). -/
def exceeds (f : Fmt) : Num → Bool
  | .fin _ m e => beyond f m e
  | _ => false

def rto32 (x : Num) : Num := narrow f32 .odd x
def rto64 (x : Num) : Num := narrow f64 .odd x
def rne32 (x : Num) : Num := narrow f32 .rne x
def rtoBf (x : Num) : Num := narrow bf16 .odd x

/-- The code of a value already on the format's grid; NaN is the canonical quiet NaN (R150). A format without
infinities writes its largest magnitude for one, 0x00 for a NaN and 0x00 for either zero (R140, R149). -/
def encode (f : Fmt) : Num → Nat
  | .nan => if f.special then (2 ^ f.eb - 1) * 2 ^ (f.p - 1) + 2 ^ (f.p - 2) else 0
  | .inf s =>
    (if s then 2 ^ (f.eb + f.p - 1) else 0) +
      (if f.special then (2 ^ f.eb - 1) * 2 ^ (f.p - 1) else 2 ^ (f.eb + f.p - 1) - 1)
  | .fin s m e =>
    if m = 0 then (if s && f.special then 2 ^ (f.eb + f.p - 1) else 0)
    else
      let emin := f.q + (f.p : Int) - 1
      let te := topExp m e
      let mag :=
        if te < emin then alignTo m e f.q
        else
          let sig :=
            if te - ((f.p : Int) - 1) ≤ e then alignTo m e (te - ((f.p : Int) - 1))
            else m / 2 ^ (te - ((f.p : Int) - 1) - e).toNat
          ((te - emin).toNat + 1) * 2 ^ (f.p - 1) + (sig - 2 ^ (f.p - 1))
      (if s then 2 ^ (f.eb + f.p - 1) else 0) + mag

/-- The value of a code (R139, R150). In a format without infinities 0x80 reads as +0 (R140). -/
def decode (f : Fmt) (c : Nat) : Num :=
  let s := decide (c / 2 ^ (f.eb + f.p - 1) % 2 = 1)
  let ex := c / 2 ^ (f.p - 1) % 2 ^ f.eb
  let fr := c % 2 ^ (f.p - 1)
  if f.special && ex = 2 ^ f.eb - 1 then (if fr = 0 then .inf s else .nan)
  else if ex = 0 then .fin (s && (f.special || fr ≠ 0)) fr f.q
  else .fin s (fr + 2 ^ (f.p - 1)) (f.q + (ex : Int) - 1)

/-- The value of a signed integer. -/
def numOfInt (i : Int) : Num := .fin (decide (i < 0)) i.natAbs 0

/-- The value as a fraction of 2^e0, signed, for exponents not below e0. -/
def signedAt (neg : Bool) (m : Nat) (e e0 : Int) : Int :=
  if neg then -((alignTo m e e0 : Nat) : Int) else ((alignTo m e e0 : Nat) : Int)

/-- Exact sum; ∞ − ∞ and any NaN operand give NaN (R81, R155). A zero sum is +0 unless both operands are −0. -/
def nadd : Num → Num → Num
  | .nan, _ => .nan
  | _, .nan => .nan
  | .inf a, .inf b => if a = b then .inf a else .nan
  | .inf a, .fin _ _ _ => .inf a
  | .fin _ _ _, .inf b => .inf b
  | .fin sa ma ea, .fin sb mb eb =>
    let e0 := if ea ≤ eb then ea else eb
    let t := signedAt sa ma ea e0 + signedAt sb mb eb e0
    if t = 0 then .fin (sa && sb) 0 e0 else .fin (decide (t < 0)) t.natAbs e0

def nneg : Num → Num
  | .nan => .nan
  | .inf s => .inf (!s)
  | .fin s m e => .fin (!s) m e

def nsub (a b : Num) : Num := nadd a (nneg b)

/-- Exact product; 0 × ∞ and any NaN operand give NaN (R81, R155). -/
def nmul : Num → Num → Num
  | .nan, _ => .nan
  | _, .nan => .nan
  | .inf a, .inf b => .inf (a ^^ b)
  | .inf a, .fin sb mb _ => if mb = 0 then .nan else .inf (a ^^ sb)
  | .fin sa ma _, .inf b => if ma = 0 then .nan else .inf (sa ^^ b)
  | .fin sa ma ea, .fin sb mb eb => .fin (sa ^^ sb) (ma * mb) (ea + eb)

/-- x · 2^n, exactly. -/
def nscale (x : Num) (n : Int) : Num :=
  match x with
  | .fin s m e => .fin s m (e + n)
  | y => y

/-- Quotient of two nonzero magnitudes: at least 128 bits, then one sticky bit for a nonzero remainder. -/
def divMag (a : Nat) (ea : Int) (b : Nat) (eb : Int) : Nat × Int :=
  let k := 130 + Nat.log2 b
  let n := a * 2 ^ k
  (2 * (n / b) + (if n % b = 0 then 0 else 1), ea - eb - (k : Int) - 1)

/-- Quotient; `onZero s` is the result for a nonzero finite value divided by zero, with the quotient's sign s: the
infinity on a Tug (R81), the largest finite magnitude elsewhere (R155). -/
def ndiv (onZero : Bool → Num) : Num → Num → Num
  | .nan, _ => .nan
  | _, .nan => .nan
  | .inf _, .inf _ => .nan
  | .inf a, .fin sb _ _ => .inf (a ^^ sb)
  | .fin sa _ ea, .inf b => .fin (sa ^^ b) 0 ea
  | .fin sa ma ea, .fin sb mb eb =>
    if mb = 0 then (if ma = 0 then .nan else onZero (sa ^^ sb))
    else if ma = 0 then .fin (sa ^^ sb) 0 ea
    else .fin (sa ^^ sb) (divMag ma ea mb eb).1 (divMag ma ea mb eb).2

/-- Integer square root by deciding its bits from the highest. -/
def isqrt (n : Nat) : Nat :=
  (List.range (Nat.log2 n / 2 + 1)).reverse.foldl
    (fun r i => if (r + 2 ^ i) * (r + 2 ^ i) ≤ n then r + 2 ^ i else r) 0

/-- Square root of a magnitude: at least 64 bits beyond any target, then one sticky bit. -/
def sqrtMag (m : Nat) (e : Int) : Nat × Int :=
  let m' := if e % 2 = 0 then m * 2 ^ 200 else m * 2 ^ 201
  let e' := if e % 2 = 0 then e - 200 else e - 201
  let r := isqrt m'
  (2 * r + (if r * r = m' then 0 else 1), e' / 2 - 1)

/-- Square root; below −0 it is invalid (R81, R155). -/
def nsqrt : Num → Num
  | .nan => .nan
  | .inf s => if s then .nan else .inf false
  | .fin s m e =>
    if m = 0 then .fin s 0 e
    else if s then .nan
    else .fin false (sqrtMag m e).1 (sqrtMag m e).2

def isNan : Num → Bool
  | .nan => true
  | _ => false

def isInf : Num → Bool
  | .inf _ => true
  | _ => false

def isZero : Num → Bool
  | .fin _ m _ => decide (m = 0)
  | _ => false

def isFinite : Num → Bool
  | .fin _ _ _ => true
  | _ => false

def signOf : Num → Bool
  | .nan => false
  | .inf s => s
  | .fin s _ _ => s

def nabs : Num → Num
  | .nan => .nan
  | .inf _ => .inf false
  | .fin _ m e => .fin false m e

/-- a < b, false when either is NaN; −0 equals +0. -/
def nlt : Num → Num → Bool
  | .nan, _ => false
  | _, .nan => false
  | .inf a, .inf b => a && !b
  | .inf a, .fin _ _ _ => a
  | .fin _ _ _, .inf b => !b
  | .fin sa ma ea, .fin sb mb eb =>
    let e0 := if ea ≤ eb then ea else eb
    decide (signedAt sa ma ea e0 < signedAt sb mb eb e0)

/-- a = b as values, false when either is NaN. -/
def neq : Num → Num → Bool
  | .nan, _ => false
  | _, .nan => false
  | .inf a, .inf b => decide (a = b)
  | .inf _, .fin _ _ _ => false
  | .fin _ _ _, .inf _ => false
  | .fin sa ma ea, .fin sb mb eb =>
    let e0 := if ea ≤ eb then ea else eb
    decide (signedAt sa ma ea e0 = signedAt sb mb eb e0)

def nle (a b : Num) : Bool := nlt a b || neq a b

/-- Smaller of two values: the non-NaN one when exactly one is NaN, −0 below +0 (R82). -/
def nmin (a b : Num) : Num :=
  if isNan a then b else if isNan b then a
  else if nlt a b then a else if nlt b a then b
  else if signOf a then a else b

/-- Larger of two values, with the same rules (R82). -/
def nmax (a b : Num) : Num :=
  if isNan a then b else if isNan b then a
  else if nlt a b then b else if nlt b a then a
  else if signOf a then b else a

/-! Operations of the Drain Path, the update unit and the firmware-free datapaths: binary64, round-to-odd, R155. -/

def add64 (a b : Num) : Num := rto64 (nadd a b)
def sub64 (a b : Num) : Num := rto64 (nsub a b)
def mul64 (a b : Num) : Num := rto64 (nmul a b)
def div64 (a b : Num) : Num := rto64 (ndiv (largest f64) a b)
def sqrt64 (a : Num) : Num := rto64 (nsqrt a)

def dec64 (w : BitVec 64) : Num := decode f64 w.toNat
def enc64 (x : Num) : BitVec 64 := BitVec.ofNat 64 (encode f64 x)
def dec32 (w : BitVec 32) : Num := decode f32 w.toNat
def enc32 (x : Num) : BitVec 32 := BitVec.ofNat 32 (encode f32 x)
def decBf (w : BitVec 16) : Num := decode bf16 w.toNat
def encBf (x : Num) : BitVec 16 := BitVec.ofNat 16 (encode bf16 x)
/-- Value of a YF8E (fmt 0) or YF8G (fmt 1) code (R139). -/
def dec8 (g : Bool) (b : Byte) : Num := decode (if g then yf8g else yf8e) b.toNat
def enc8 (g : Bool) (x : Num) : Byte := BitVec.ofNat 8 (encode (if g then yf8g else yf8e) x)

/-- +0. -/
def nzero : Num := .fin false 0 0
/-- 1.0. -/
def none1 : Num := .fin false 1 0

end Sys2Proof.Machine
end

