-- ==== Sys2Proof/Machine/Flags.lean ====
section
/-! DEFINITION. The Tug floating-point unit's rounding and its FSTAT flags (R81, R82, R86): invalid, saturated, flushed,
inexact in bits 0 to 3. -/

namespace Sys2Proof.Machine

def flagInvalid : BitVec 4 := 1
def flagSaturated : BitVec 4 := 2
def flagFlushed : BitVec 4 := 4
def flagInexact : BitVec 4 := 8

/-- A result rounded to nearest even, with the flags it sets; overflow gives the infinity (R81). -/
def tugRound (f : Fmt) : Num → Num × BitVec 4
  | .nan => (.nan, 0)
  | .inf s => (.inf s, 0)
  | .fin s m e =>
    let (m', e', lost) := roundMag f .rne m e
    if beyond f m' e' then (.inf s, flagSaturated ||| flagInexact)
    else (.fin s m' e', if lost then flagInexact else 0)

/-- An arithmetic result of operands: a NaN operand gives NaN and no flag; an invalid operation gives NaN and invalid. -/
def tugArith (f : Fmt) (operands : List Num) (exact : Num) : Num × BitVec 4 :=
  if operands.any isNan then (.nan, 0)
  else if isNan exact then (.nan, flagInvalid)
  else tugRound f exact

/-- Division: a nonzero finite value by zero gives the infinity and sets saturated alone (R81). -/
def tugDiv (f : Fmt) (a b : Num) : Num × BitVec 4 :=
  if isFinite a && !isZero a && isZero b then (.inf (signOf a ^^ signOf b), flagSaturated)
  else tugArith f [a, b] (ndiv .inf a b)

def tugSqrt (f : Fmt) (a : Num) : Num × BitVec 4 := tugArith f [a] (nsqrt a)
def tugAdd (f : Fmt) (a b : Num) : Num × BitVec 4 := tugArith f [a, b] (nadd a b)
def tugSub (f : Fmt) (a b : Num) : Num × BitVec 4 := tugArith f [a, b] (nsub a b)
def tugMul (f : Fmt) (a b : Num) : Num × BitVec 4 := tugArith f [a, b] (nmul a b)
/-- c + a × b with one rounding. -/
def tugFma (f : Fmt) (c a b : Num) : Num × BitVec 4 := tugArith f [c, a, b] (nadd c (nmul a b))

/-- A magnitude rounded to nearest even at the units place, and whether bits were lost. -/
def roundUnits (m : Nat) (e : Int) : Nat × Bool :=
  if 0 ≤ e then (m * 2 ^ e.toNat, false)
  else
    let sh := (-e).toNat
    let t := m / 2 ^ sh
    let r := m % 2 ^ sh
    if r = 0 then (t, false)
    else if 2 * r < 2 ^ sh then (t, true)
    else if 2 ^ sh < 2 * r then (t + 1, true)
    else (if t % 2 = 0 then t else t + 1, true)

/-- Conversion to a signed integer of w bits (R82): out of range gives the nearest representable one. -/
def toSigned (w : Nat) : Num → Int × BitVec 4
  | .nan => (0, flagInvalid)
  | .inf s => (if s then -(2 ^ (w - 1) : Nat) else ((2 ^ (w - 1) - 1 : Nat) : Int), flagSaturated ||| flagInexact)
  | .fin s m e =>
    let (u, lost) := roundUnits m e
    if s then
      if 2 ^ (w - 1) < u then (-(2 ^ (w - 1) : Nat), flagSaturated ||| flagInexact)
      else (-(u : Int), if lost then flagInexact else 0)
    else if 2 ^ (w - 1) - 1 < u then (((2 ^ (w - 1) - 1 : Nat) : Int), flagSaturated ||| flagInexact)
    else ((u : Int), if lost then flagInexact else 0)

/-- A comparison that sets invalid for a NaN operand (R82). -/
def tugLess (orEqual : Bool) (a b : Num) : Bool × BitVec 4 :=
  if isNan a || isNan b then (false, flagInvalid) else (if orEqual then nle a b else nlt a b, 0)

/-- A pack's element (R86): saturating conversion of an exact quotient to YF8E or YF8G. An inexact result sets inexact too, as
R81 says of every result that the unit rounds. DEDUCED, assumption 20. -/
def packElement (g : Bool) (mode : Rnd) (x : Num) : Byte × BitVec 4 :=
  let f := if g then yf8g else yf8e
  match x with
  | .nan => (0, flagInvalid)
  | .inf s => (enc8 g (largest f s), flagSaturated)
  | .fin s m e =>
    let r := narrow f mode x
    let fl : BitVec 4 := if beyond f m e then flagSaturated else 0
    let fl := fl ||| (if m ≠ 0 ∧ isZero r then flagFlushed else 0)
    let fl := fl ||| (if neq r (.fin s m e) then 0 else flagInexact)
    (enc8 g r, fl)

end Sys2Proof.Machine
end

