-- ==== Sys2Proof/Machine/Operands.lean ====
section
/-! DEFINITION. A thread's registers as operands, immediates, SIMD elements, and the issue, stall and switch of threads
(R70 to R73, R75, R83). -/

namespace Sys2Proof.Machine

/-! Registers (R73): g0 reads as zero and discards writes. -/

def gread (th : Thread) (r : Nat) : Word := if r = 0 then 0 else Tab.get 0 th.g r
def gwrite (th : Thread) (r : Nat) (v : Word) : Thread := if r = 0 then th else { th with g := Tab.set 0 th.g r v }
def vread (th : Thread) (r : Nat) : VWord := Tab.get 0 th.v r
/-- A register number above 31 stands for a destination that a later instruction has overwritten. -/
def vwrite (th : Thread) (r : Nat) (v : VWord) : Thread := if 31 < r then th else { th with v := Tab.set 0 th.v r v }

def g (s : State) (t r : Nat) : Word := gread (thread s t) r
def v (s : State) (t r : Nat) : VWord := vread (thread s t) r

/-! Outstanding accesses of a thread. -/

def isPrefetch : AccKind → Bool
  | .prefetch _ => true
  | _ => false

/-- The accesses of a thread that its core's slots hold, oldest first; a prefetch is none of the thread's own. -/
def outstanding (s : State) (t : Nat) : List Access :=
  ((core s (tugOf t)).slots.map (·.2)).filter (fun a => decide (a.t = t) && !isPrefetch a.kind)

def isLoadLike : AccKind → Bool
  | .load _ _ => true
  | .amo _ _ _ => true
  | .vload => true
  | _ => false

def isSimd : AccKind → Bool
  | .vload => true
  | .vstore => true
  | _ => false

/-- An outstanding access loses its destination, because a later instruction wrote the register first. -/
def loseDest (simd : Bool) (t r : Nat) (a : Access) : Access :=
  if a.t = t ∧ isLoadLike a.kind = true ∧ isSimd a.kind = simd ∧ a.rd = r then { a with rd := if simd then 32 else 0 } else a

/-- The accesses of a thread that would have written a register no longer do. -/
def overtake (s : State) (simd : Bool) (t r : Nat) : State :=
  let c := core s (tugOf t)
  setCore s (tugOf t) { c with slots := c.slots.map (fun p => (p.1, loseDest simd t r p.2)) }

/-- A g register written by an instruction; a load outstanding for it is overtaken. -/
def setG (s : State) (t r : Nat) (x : Word) : State :=
  if (thread s t).pendG.contains r then
    let s := overtake s false t r
    setThread s t { gwrite (thread s t) r x with pendG := (thread s t).pendG.filter (fun q => decide (q ≠ r)) }
  else setThread s t (gwrite (thread s t) r x)

/-- A v register written by an instruction. -/
def setV (s : State) (t r : Nat) (x : VWord) : State :=
  if (thread s t).pendV.contains r then
    let s := overtake s true t r
    setThread s t { vwrite (thread s t) r x with pendV := (thread s t).pendV.filter (fun q => decide (q ≠ r)) }
  else setThread s t (vwrite (thread s t) r x)

/-- FSTAT takes sticky flags. -/
def orFstat (s : State) (t : Nat) (f : BitVec 4) : State :=
  setThread s t { thread s t with fstat := (thread s t).fstat ||| f }

def setPc (s : State) (t : Nat) (pc : Word) : State := setThread s t { thread s t with pc := pc }

/-! Ownership of the core (R70 to R72). -/

/-- The threads of t's core in the order of R72: t + 1, t + 2, t + 3, then t. -/
def switchOrder (t : Nat) : List Nat := [1, 2, 3, 0].map (fun i => t / 4 * 4 + (t + i) % 4)

/-- The next READY thread takes the core of t, if there is one. -/
def handOn (s : State) (t : Nat) : State :=
  match (switchOrder t).find? (fun u => decide ((thread s u).st = .ready)) with
  | some u => countEvent (setThread s u { thread s u with st := .run }) 1 (tugOf t) 2 1 (t % 4)
  | none => s

/-- Thread t leaves RUN for a state, waiting on an event or not, and the core passes on. -/
def giveUp (s : State) (t : Nat) (st : TState) (w : Option WaitOn) : State :=
  handOn (setThread s t { thread s t with st := st, waitOn := w }) t

/-- Some thread of t's core is RUN. -/
def coreBusy (s : State) (t : Nat) : Bool := (switchOrder t).any (fun u => decide ((thread s u).st = .run))

/-- A thread becomes READY; it takes an idle core (R72). -/
def makeReady (s : State) (t : Nat) : State :=
  setThread s t { thread s t with st := if coreBusy s t then .ready else .run, waitOn := none }

/-- A thread parked by an instruction or by firmware; its core passes on if it owned it. -/
def park (s : State) (t : Nat) : State :=
  if (thread s t).st = .run then handOn (parkThread s t) t else parkThread s t

/-! Issue. -/

/-- The thread owns its core and is not held by an access without a slot. -/
def mayIssue (s : State) (t : Nat) : Bool := decide ((thread s t).st = .run) && decide ((thread s t).held = none)

/-- No source register waits for a load. -/
def operandsReady (s : State) (t : Nat) (gs vs : List Nat) : Bool :=
  gs.all (fun r => decide (r = 0) || !(thread s t).pendG.contains r) && vs.all (fun r => !(thread s t).pendV.contains r)

/-- The instruction of a thread issues now. -/
def canIssue (s : State) (t : Nat) (gs vs : List Nat) : Bool := mayIssue s t && operandsReady s t gs vs

/-- A register waits on data of the Warehouse (R71). -/
def onWarehouse (s : State) (t : Nat) (simd : Bool) (r : Nat) : Bool :=
  (outstanding s t).any (fun a => isLoadLike a.kind && decide (isSimd a.kind = simd) && decide (a.rd = r) &&
    decide (windowOf a.addr = .whse))

/-- A RUN thread that stalls on Warehouse data gives up the core; any other stall holds it in place (R71). -/
def stall (s : State) (t : Nat) (gs vs : List Nat) : State :=
  if mayIssue s t then
    match gs.find? (fun r => decide (r ≠ 0) && (thread s t).pendG.contains r && onWarehouse s t false r) with
    | some r => giveUp s t .wait (some (.warehouse false r))
    | none =>
      match vs.find? (fun r => (thread s t).pendV.contains r && onWarehouse s t true r) with
      | some r => giveUp s t .wait (some (.warehouse true r))
      | none => s
  else s

/-- The instruction has issued: the program counter passes it and the thread's count rises (Table 03-4). -/
def retire (s : State) (t : Nat) : State :=
  setThread s t { thread s t with pc := (thread s t).pc + 4, issued := (thread s t).issued + 1 }

/-- As `retire`, for an instruction that sets the program counter itself. -/
def retireTo (s : State) (t : Nat) (pc : Word) : State :=
  setThread s t { thread s t with pc := pc, issued := (thread s t).issued + 1 }

/-! Instruction fetch (R68, R99, R100, R270). -/

/-- What the fetch at a thread's program counter gives: a word, nothing because the fetch is not permitted, or a miss. -/
inductive Fetched where
  | word (w : BitVec 32)
  | denied
  | miss
  deriving DecidableEq, Repr

/-- The bytes that a cached line holds at an address. -/
def lineBytes (x : BitVec 1024) (off n : Nat) : Nat := x.toNat / 2 ^ (8 * off) % 2 ^ (8 * n)

/-- The line of an instruction cache. -/
def icacheLine (c : Core) (l : Nat) : Option (BitVec 1024) := (c.icache.find? (fun p => decide (p.1 = l))).map (·.2)

/-- The word is read through the instruction cache. Control space, and an unpopulated address at firmware privilege, give the
zero word (R68, R270); a job's fetch outside an executable region is not permitted (R99). A job's fetch from control space
is the zero word too: DEDUCED, assumption 75. -/
def fetchWord (s : State) (t : Nat) : Fetched :=
  let a := (thread s t).pc.toNat
  if windowOf a = .control then .word 0
  else if (thread s t).fw = false ∧ (populatedRange s a 4 && regionOk s (dieOfThread t) .exec a 4) = false then .denied
  else if populatedRange s a 4 = false then .word 0
  else
    match icacheLine (core s (tugOf t)) (lineOf a) with
    | none => .miss
    | some x => .word (BitVec.ofNat 32 (lineBytes x (a % 128) 4))

/-- The command that the fetched word stands for; a fetch that is not permitted executes as an illegal instruction (R100). -/
def fetched (s : State) (t : Tid) : Option Instr :=
  match fetchWord s t.val with
  | .word w => some (decodeFlx t w)
  | .denied => some (.ill t .fetchDenied)
  | .miss => none

/-- The line of the program counter has been used: it is the most recent of the instruction cache (R68). -/
def useLine (s : State) (t : Nat) : State :=
  let c := core s (tugOf t)
  let l := lineOf (thread s t).pc.toNat
  match icacheLine c l with
  | none => s
  | some x => setCore s (tugOf t) { c with icache := (l, x) :: c.icache.filter (fun p => decide (p.1 ≠ l)) }

/-- The running thread is at an instruction whose fetched word stands for command i. -/
def atInstr (i : Instr) (t : Tid) (s : State) : Bool := mayIssue s t.val && decide (fetched s t = some i)

/-- A thread's instruction is carried out only where its fetched word stands for it (R75 to R77). -/
def fetching (i : Instr) (t : Tid) (f : State → Out) (s : State) : Out :=
  if atInstr i t s then f (useLine s t.val) else turnedAway s

/-- An instruction with sources gs and vs: issued with the effect f, or stalled. -/
def issueWith (t : Nat) (gs vs : List Nat) (f : State → State) (s : State) : Out :=
  if canIssue s t gs vs then .next (f (countIssue s t)) else .next (stall s t gs vs)

/-! Immediates (R75). -/

def sext16 (i : BitVec 16) : Word := i.signExtend 64
def zext16 (i : BitVec 16) : Word := i.zeroExtend 64

/-! SIMD elements (R83): element 0 in the lowest-addressed bytes. -/

/-- Bits of an element of a type. -/
def elemBits (et : Nat) : Nat :=
  match et with
  | 0 => 8
  | 1 => 16
  | 2 => 32
  | 3 => 64
  | 4 => 16
  | 5 => 32
  | _ => 64

def elemCount (et : Nat) : Nat := 256 / elemBits et

/-- The type is a floating one: bfloat16, binary32 or binary64. -/
def elemFloat (et : Nat) : Bool := decide (4 ≤ et)

def elemFmt (et : Nat) : Fmt := if et = 4 then bf16 else if et = 5 then f32 else f64

/-- Element i of width w, as a number. -/
def elem (w : Nat) (x : VWord) (i : Nat) : Nat := x.toNat / 2 ^ (w * i) % 2 ^ w

/-- A v register from its elements of width w, lowest first. -/
def fromElems (w : Nat) (xs : List Nat) : VWord := BitVec.ofNat 256 (xs.foldr (fun e acc => e % 2 ^ w + 2 ^ w * acc) 0)

/-- The signed value of an element of width w. -/
def signedElem (w e : Nat) : Int := if e < 2 ^ (w - 1) then (e : Int) else (e : Int) - ((2 ^ w : Nat) : Int)

/-- The bits of a signed value at width w. -/
def toElem (w : Nat) (i : Int) : Nat := (i % ((2 ^ w : Nat) : Int)).toNat

end Sys2Proof.Machine
end

