-- ==== Sys2Proof/Machine/Drops.lean ====
section
/-! DEFINITION. The drop record of a step and the forced drops (R383, R384, Table 14-3). -/

namespace Sys2Proof.Machine

/-- Bytes of a drop record for M micro-batches. -/
def dropRecordBytes (m : Nat) : Nat := 64 * ((16 + 8 * ((m + 63) / 64) + 63) / 64)

/-- Address of step st's record in a log. -/
def dropRecordAddr (s : State) (log st : Nat) : Nat := log + (st % 512) * dropRecordBytes s.job.m

/-- The mask words of a set of micro-batches. -/
def maskBytes (m : Nat) (set : List Nat) : List Byte :=
  (List.range (8 * ((m + 63) / 64))).map (fun i =>
    BitVec.ofNat 8 ((List.range 8).foldl (fun a b => a + (if set.contains (8 * i + b) then 2 ^ b else 0)) 0))

/-- A drop record (Table 14-3). -/
def dropRecord (m st : Nat) (set : List Nat) (forced final : Bool) : List Byte :=
  let body := bytesOfNat 4 st ++ bytesOfNat 4 (m - set.length) ++ bytesOfNat 2 set.length ++ bytesOfNat 2 m ++
    bytesOfNat 1 ((if forced then 1 else 0) + (if final then 2 else 0)) ++ bytesOfNat 3 0 ++ maskBytes m set
  body ++ List.replicate (dropRecordBytes m - body.length) 0

/-- The micro-batches that a log's record for step st names, if the record is of that step and final. -/
def loggedDrops (s : State) (log st : Nat) : List Nat :=
  let a := dropRecordAddr s log st
  if readNat s a 4 = st ∧ readNat s (a + 12) 1 / 2 % 2 = 1 then
    (List.range s.job.m).filter (fun m => decide (readNat s (a + 16 + m / 8) 1 / 2 ^ (m % 8) % 2 = 1))
  else []

/-- The drops forced for step st (R384): the module's own log, its Partner's log read back by the restore, and the
replay list. -/
def forcedDrops (s : State) (st : Nat) : List Nat :=
  let own := loggedDrops s s.job.dropLog st
  (List.range s.job.m).filter (fun m => own.contains m || s.job.replay.any (fun r => decide (r = (st, m, s.job.rank))))

/-- The drop cutoff of the step: the mask is formed, the record written with final clear, and no further drop is taken. -/
def dropCutoff (s : State) : State :=
  let st := s.job.curStep
  let forced := forcedDrops s st
  let mask := (List.range s.job.m).filter (fun m => s.job.dropped.contains m || forced.contains m)
  let s1 := fput s F.errDropDropped (fget s F.errDropDropped + (mask.length - s.job.dropped.length))
  let s2 := fput s1 F.errDropForced (fget s1 F.errDropForced + forced.length)
  let s3 := writeBytes s2 (dropRecordAddr s s.job.dropLog st) (dropRecord s.job.m st mask (decide (forced ≠ [])) false)
  { s3 with job := { s3.job with cutoff := true, dropped := mask, gateWritten := false } }

/-- The Partner has acknowledged every cell of the log run: final is set, then the drop gate word takes s + 1. -/
def execDropRecordFinal (s : State) : Out :=
  let st := s.job.curStep
  let a := dropRecordAddr s s.job.dropLog st + 12
  let t := writeBytes s a [memByte s a ||| 2#8]
  let t := writeNat t s.job.dropGate 8 (st + 1)
  whenever (jobLive s && s.job.cutoff && !s.job.gateWritten) { t with job := { t.job with gateWritten := true } } s

/-- Byte a belongs to a runs field of a stream table of stride 128 at a base, at an offset within the descriptor. -/
def runsByte (base count off a : Nat) : Bool :=
  decide (base ≤ a ∧ a < base + 128 * count ∧ off ≤ (a - base) % 128 ∧ (a - base) % 128 < off + 4)

/-- Byte a is copied at a step end (R392): the runs fields of the Barge and Quay stream descriptors and the drop gate
word. -/
def stepEndByte (s : State) (a : Nat) : Bool :=
  runsByte (fget s (F.bargeStblBase 0) * 128) 32768 0x54 a || runsByte (fget s (F.bargeStblBase 1) * 128) 32768 0x54 a ||
  runsByte (fget s F.quaySdtBase * 128) 65536 0x0C a || decide (s.job.dropGate ≤ a ∧ a < s.job.dropGate + 8)

/-- Firmware's copy at a step_end marker, before any later entry starts: the listed bytes; an unlisted one is zero. -/
def stepEndCopy (s : State) : State :=
  { s with job := { s.job with runsCopied := s.mem.filter (fun p => stepEndByte s p.1) } }

/-- The end of a step: the copies of R392, and the next step begins with no drop. -/
def endStep (s : State) : State :=
  let s := stepEndCopy s
  { s with job := { s.job with curStep := s.job.curStep + 1, cutoff := false, dropped := [], gateWritten := false } }

end Sys2Proof.Machine
end

