-- ==== Sys2Proof/Machine/Wire.lean ====
section
/-! DEFINITION. A cell on the wire (R309, Tables 11-3 to 11-6): its bytes with both checks, and what a receiver reads from them. -/

namespace Sys2Proof.Machine

/-- A number of n bytes at an offset of a list of bytes. -/
def at_ (bs : List Byte) (off n : Nat) : Nat := natOfBytes ((bs.drop off).take n)

/-! CRC-32C, which the manual names (assumption 85). -/

def crcBit (r : BitVec 32) : BitVec 32 := if r.getLsbD 0 then (r >>> 1) ^^^ 0x82F63B78#32 else r >>> 1

def crcByte (r : BitVec 32) (b : Byte) : BitVec 32 :=
  crcBit (crcBit (crcBit (crcBit (crcBit (crcBit (crcBit (crcBit (r ^^^ b.setWidth 32))))))))

def crc32c (bs : List Byte) : BitVec 32 := ~~~(bs.foldl crcByte 0xFFFFFFFF#32)

/-! The wire image. -/

/-- Bytes of a payload once padded to a multiple of 8. -/
def padded (n : Nat) : Nat := (n + 7) / 8 * 8

/-- Header bytes 0x00 to 0x1B (Table 11-4). -/
def headerBytes (c : Cell) : List Byte :=
  bytesOfNat 2 c.stream.toNat ++ bytesOfNat 1 c.typ.toNat ++ bytesOfNat 1 c.flags.toNat ++ bytesOfNat 4 c.lseq.toNat ++
  bytesOfNat 4 c.cidx.toNat ++ bytesOfNat 2 c.payload.length ++ bytesOfNat 2 c.run.toNat ++ bytesOfNat 8 c.aux.toNat ++
  bytesOfNat 4 0

def paddedBytes (c : Cell) : List Byte := c.payload ++ List.replicate (padded c.payload.length - c.payload.length) 0#8

/-- A cell as it goes out: header with hcrc, padded payload, and the trailer with pcrc and ack. -/
def wireOf (c : Cell) : List Byte :=
  headerBytes c ++ bytesOfNat 4 (crc32c (headerBytes c)).toNat ++ paddedBytes c ++
  bytesOfNat 4 (crc32c (paddedBytes c)).toNat ++ bytesOfNat 4 c.ack.toNat

/-- Both checks of a received cell hold, and it is as long as its header tells. -/
def wireGood (w : List Byte) : Bool :=
  let n := padded (at_ w 0xC 2)
  decide (at_ w 0xC 2 ≤ 512 ∧ w.length = 40 + n ∧ at_ w 0x18 4 = 0 ∧ at_ w 0x1C 4 = (crc32c (w.take 28)).toNat ∧
    at_ w (32 + n) 4 = (crc32c ((w.drop 32).take n)).toNat)

/-- The cell that arrived bytes spell; `fec` tells that its FEC decoding was uncorrectable. -/
def cellIn (w : List Byte) (fec : Bool) : Cell :=
  { stream := BitVec.ofNat 16 (at_ w 0 2)
    typ := BitVec.ofNat 8 (at_ w 2 1)
    flags := BitVec.ofNat 8 (at_ w 3 1)
    lseq := BitVec.ofNat 32 (at_ w 4 4)
    cidx := BitVec.ofNat 32 (at_ w 8 4)
    run := BitVec.ofNat 16 (at_ w 0xE 2)
    aux := BitVec.ofNat 64 (at_ w 0x10 8)
    payload := (w.drop 32).take (at_ w 0xC 2)
    ack := BitVec.ofNat 32 (at_ w (36 + padded (at_ w 0xC 2)) 4)
    bad := fec || !wireGood w }

/-! What a receiver makes of a cell. -/

def isLast (c : Cell) : Bool := c.flags.getLsbD 1
def isFirst (c : Cell) : Bool := c.flags.getLsbD 0

/-- The type is one of Table 11-5 and every reserved field is zero (R310). -/
def reservedClear (c : Cell) : Bool :=
  let p := c.payload
  decide (c.flags.toNat < 16) &&
  (match c.typ.toNat with
   | 1 => isFirst c || decide (c.aux = 0)
   | 2 => decide (p.length = 48 ∧ c.stream = 0 ∧ c.aux = 0 ∧ c.lseq = 0 ∧ at_ p 0x1C 4 = 0 ∧ at_ p 0x2A 6 = 0)
   | 3 => decide (p.length = 24 ∧ c.stream = 0 ∧ c.aux = 0 ∧ at_ p 3 5 = 0)
   | 4 => decide (p.length = 64 ∧ c.stream = 0 ∧ c.aux = 0 ∧ at_ p 8 8 = 0 ∧ at_ p 0x30 16 = 0)
   | 5 => decide (p.length = 8 ∧ c.stream = 0 ∧ c.aux = 0 ∧ at_ p 4 1 ≤ 2 ∧ at_ p 5 3 = 0)
   | _ => false)

/-- A cell received in error (R313). -/
def cellInError (c : Cell) : Bool := c.bad || !reservedClear c

/-- DATA, HOLD and IDENT cells are numbered and replayed (Table 11-5). -/
def numbered (c : Cell) : Bool := decide (c.typ = 1 ∨ c.typ = 3 ∨ c.typ = 4)

/-- Table 11-6. -/
def readTime (p : List Byte) : TimeCell :=
  { txNs := BitVec.ofNat 64 (at_ p 0 8)
    txPs := BitVec.ofNat 16 (at_ p 8 2)
    hops := BitVec.ofNat 16 (at_ p 0xA 2)
    lock := BitVec.ofNat 8 (at_ p 0xC 1)
    role := BitVec.ofNat 8 (at_ p 0xD 1)
    tseq := BitVec.ofNat 16 (at_ p 0xE 2)
    echoTxNs := BitVec.ofNat 64 (at_ p 0x10 8)
    echoTxPs := BitVec.ofNat 16 (at_ p 0x18 2)
    echoTseq := BitVec.ofNat 16 (at_ p 0x1A 2)
    echoRxNs := BitVec.ofNat 64 (at_ p 0x20 8)
    echoRxPs := BitVec.ofNat 16 (at_ p 0x28 2) }

/-- The payload of a HOLD cell (R319). -/
def readHold (p : List Byte) : HoldReq :=
  ⟨BitVec.ofNat 16 (at_ p 0 2), BitVec.ofNat 8 (at_ p 2 1), BitVec.ofNat 64 (at_ p 8 8), BitVec.ofNat 64 (at_ p 0x10 8)⟩

/-- Table 11-3. -/
def readIdent (p : List Byte) : IdentCell :=
  ⟨BitVec.ofNat 32 (at_ p 0 4), BitVec.ofNat 16 (at_ p 4 2), BitVec.ofNat 8 (at_ p 6 1), BitVec.ofNat 8 (at_ p 7 1),
    (p.drop 0x10).take 32⟩

/-! The circle of link sequence numbers. -/

/-- a is before b. -/
def seqBefore (a b : BitVec 32) : Bool := decide (a ≠ b ∧ (b - a).toNat < 2 ^ 31)

end Sys2Proof.Machine
end

