-- ==== Sys2Proof/Machine/Link.lean ====
section
/-! DEFINITION. Cells that the module itself makes (chapter 11): their payloads and their waiting on a port. -/

namespace Sys2Proof.Machine

/-- A cell of a type with a payload; the link fills in its sequence number and acknowledgement as it leaves. -/
def mkCell (typ : BitVec 8) (payload : List Byte) : Cell := ⟨0, typ, 0, 0, 0, 0, 0, payload, 0, false⟩

/-- A cell waits on a port for its turn (R310). -/
def queueCell (s : State) (p : Nat) (c : Cell) : State := setPort s p { port s p with waiting := (port s p).waiting ++ [c] }

/-- Cells up to the acknowledged one leave the replay buffer (R313). -/
def takeAck (s : State) (p : Nat) (ack : BitVec 32) : State :=
  setPort s p { port s p with replay := (port s p).replay.filter (fun x => seqBefore ack x.1.lseq) }

/-- A cell waits on every port in SERVICE. -/
def queueEverywhere (s : State) (c : Cell) : State :=
  (List.range 32).foldl (fun s p => if inService s p then queueCell s p c else s) s

/-- The payload of a HOLD cell (R319). -/
def holdPayload (r : HoldReq) : List Byte :=
  bytesOfNat 2 r.origin.toNat ++ bytesOfNat 1 r.q.toNat ++ bytesOfNat 5 0 ++ bytesOfNat 8 r.tr.toNat ++ bytesOfNat 8 r.b.toNat

/-- The payload of a LINK cell (Table 11-5). -/
def linkPayload (nak : BitVec 32) (code : Nat) : List Byte := bytesOfNat 4 nak.toNat ++ bytesOfNat 1 code ++ bytesOfNat 3 0

/-- The payload of a TIME cell (Table 11-6). -/
def timePayload (c : TimeCell) : List Byte :=
  bytesOfNat 8 c.txNs.toNat ++ bytesOfNat 2 c.txPs.toNat ++ bytesOfNat 2 c.hops.toNat ++ bytesOfNat 1 c.lock.toNat ++
  bytesOfNat 1 c.role.toNat ++ bytesOfNat 2 c.tseq.toNat ++ bytesOfNat 8 c.echoTxNs.toNat ++ bytesOfNat 2 c.echoTxPs.toNat ++
  bytesOfNat 2 c.echoTseq.toNat ++ bytesOfNat 4 0 ++ bytesOfNat 8 c.echoRxNs.toNat ++ bytesOfNat 2 c.echoRxPs.toNat ++
  bytesOfNat 6 0

/-- The payload of an IDENT cell (Table 11-3). -/
def identPayload (s : State) (p : Nat) : List Byte :=
  bytesOfNat 4 (fget s F.quayHallHallTag) ++ bytesOfNat 2 (hallIndex s) ++ bytesOfNat 1 p ++
  bytesOfNat 1 (fget s (F.quayExpectDir p)) ++ bytesOfNat 8 0 ++ digest s.sec.identKey ++ bytesOfNat 16 0

/-- A received IDENT agrees with the port's expectation (R306). -/
def identMatches (s : State) (p : Nat) (c : IdentCell) : Bool :=
  decide (c.hallTag.toNat = fget s F.quayHallHallTag) && decide (c.moduleIndex.toNat = fget s (F.quayExpectFarIndex p)) &&
  decide (c.port.toNat = fget s (F.quayExpectFarPort p))

/-- The parent candidates of the active routing, in order (R39). -/
def candidates (s : State) : List Nat :=
  [fget s F.quayParentCand0, fget s F.quayParentCand1, fget s F.quayParentCand2, fget s F.quayParentCand3].filter
    (fun p => decide (p < 32))

/-- A candidate is usable: it has passed the identity exchange, is not quarantined, and gives a hop count of at most 32
(R39). A parent is chosen again among these, so one whose hop count is too high, or that has sent no TIME cell yet, is passed
over; a module that acquires looks at the first candidate in SERVICE alone (`mayAcquire`). DESIGN CHOICE, assumption 72. -/
def usable (s : State) (p : Nat) : Bool := inService s p && decide ((port s p).farHops + 1 ≤ 32)

/-- The first usable candidate other than `except`. -/
def nextParent (s : State) (except : Nat) : Option Nat := (candidates s).find? (fun p => decide (p ≠ except) && usable s p)

end Sys2Proof.Machine
end

