-- ==== Sys2Proof/Machine/Tide.lean ====
section
/-! DEFINITION. The Tide counter, its lock states, the Lighthouse and the time cells (R30 to R43, R319). -/

namespace Sys2Proof.Machine

def lockState (s : State) : Nat := fget s F.tideStateLockState
/-- 0 follower, 1 Lighthouse, 2 standby (Table 02-11). -/
def role (s : State) : Nat := fget s F.tideStateRole
def parentPort (s : State) : Nat := fget s F.tideStateParentPort
/-- Both inputs of the module's Lighthouse port are valid. -/
def referenceOk (s : State) : Bool := flag s F.tideStateRef10mhzOk && flag s F.tideStateRefPpsOk

def setTide (s : State) (t : TideSt) : State := { s with tide := t }

/-- The parent replaced; 0x3F for none. -/
def setParent (s : State) (p hops : Nat) : State := fput (fput s F.tideStateParentPort p) F.tideStateHops hops

def enterFree (s : State) : State := fput (setTide s { s.tide with okRun := 0 }) F.tideStateLockState 0
def enterLocked (s : State) : State :=
  fput (setTide s { s.tide with okRun := 0, everLocked := true, lossReported := false }) F.tideStateLockState 2
def enterHoldover (s : State) : State :=
  fput (setTide s { s.tide with okRun := 0, holdoverAt := s.tide.now, lossReported := false }) F.tideStateLockState 3

/-- What the counter is loaded with on entering ACQUIRE: a follower its parent's time, the Lighthouse its time of day or
zero (R30, R33). -/
def loadValue (s : State) (parentTime : Word) : Nat :=
  if role s = 1 then (if flag s F.tideStatePtpOk then s.tide.tai.toNat else 0) else parentTime.toNat

/-- Acquisition may start: the Lighthouse has its reference, or the port is the follower's first candidate in SERVICE and its
hop count is accepted (R39). DESIGN CHOICE, assumption 72: a first candidate with a hop count above 32 keeps the module from
acquiring rather than being passed over. -/
def mayAcquire (s : State) (p hops : Nat) : Bool :=
  s.tide.running && decide (lockState s = 0) && !s.tide.everLocked &&
  (if role s = 1 then referenceOk s
   else decide ((candidates s).find? (inService s) = some p) && decide (hops + 1 ≤ 32))

def execAcquireEntry (p : PortIx) (parentTime : Word) (parentHops : Nat) (s : State) : Out :=
  let t := setTide s { s.tide with now := loadValue s parentTime, okRun := 0, offsets := [] }
  let t := fput t F.tideStateLockState 1
  whenever (mayAcquire s p.val parentHops)
    (if role s = 1 then setParent t 0x3F 0 else setParent t p.val (parentHops + 1)) s

/-- The lock transition of Table 02-2 for a filtered offset in ps. -/
def lockUpdate (s : State) (o : Int) : State :=
  let ok := decide (o.natAbs ≤ 100)
  let s := setTide s { s.tide with okRun := if ok then s.tide.okRun + 1 else 0 }
  match lockState s with
  | 1 => if s.tide.okRun = 64 then enterLocked s else s
  | 2 => if 250 < o.natAbs then enterHoldover s else s
  | 3 => if role s ≠ 1 ∧ s.tide.okRun = 8 then enterLocked s else s
  | _ => s

/-- An update of the rate: the filter's gains are the implementation's, so the new rate is a free value within the
steering limit (R38). DESIGN CHOICE, assumption 10. -/
def steerRate (s : State) : Int :=
  let lim := fget s F.tideCfgSteerLimitPpb
  (((freeAt s 0).toNat % (2 * lim + 1) : Nat) : Int) - (lim : Int)

/-- The module steers: a follower from its parent, the Lighthouse from its reference unless it is in HOLDOVER (R36, R38). -/
def steers (s : State) : Bool :=
  decide (1 ≤ lockState s) && (if role s = 1 then decide (lockState s ≠ 3) else decide (parentPort s < 32))

/-- The filter's output, which is shown in offset_ps and decides Table 02-2, is the command's operand: the manual gives
no gains that would bind it to the offsets collected since the last update. DESIGN CHOICE, assumption 10. -/
def execSteerUpdate (offset : Int) (s : State) : Out :=
  let t := setTide s { s.tide with rate := steerRate s, offsets := [], lastSteer := some s.tide.now }
  let t := fput (tookFree t 1) F.tideStateOffsetPs (BitVec.ofInt 32 offset).toNat
  whenever (atMultiple s 65536 && steers s && decide (s.tide.lastSteer ≠ some s.tide.now))
    (lockUpdate t offset) s

/-- No parent is left: ACQUIRE falls back to FREE and LOCKED to HOLDOVER (Table 02-2). -/
def loseParent (s : State) : State :=
  let s := setParent s 0x3F 0x3F
  match lockState s with
  | 1 => enterFree s
  | 2 => enterHoldover s
  | _ => s

/-- The next candidate taken as parent; in ACQUIRE the run of updates starts again (Table 02-2). -/
def takeParent (s : State) (p : Nat) : State :=
  let s := setParent s p ((port s p).farHops + 1)
  if lockState s = 1 then setTide s { s.tide with okRun := 0 } else s

def moveParent (s : State) (failed : Nat) : State :=
  match nextParent s failed with
  | some q => takeParent s q
  | none => loseParent s

/-- The parent is the first usable candidate (R39): chosen again whenever a candidate may have become usable or the
routing has changed. -/
def reparent (s : State) : State :=
  if role s = 1 ∨ lockState s = 0 then s
  else
    match (candidates s).find? (usable s) with
    | some q => if q = parentPort s then setParent s q ((port s q).farHops + 1) else takeParent s q
    | none => if parentPort s < 32 then loseParent s else s

def execParentLinkFail (p : PortIx) (s : State) : Out :=
  whenever (s.tide.running && decide (role s ≠ 1) && decide (1 ≤ lockState s) && decide (parentPort s = p.val))
    (moveParent s p.val) s

/-- A follower has stayed 2 ms in HOLDOVER and has not yet reported it (R43). -/
def execTideLoss (s : State) : Out :=
  whenever (s.tide.running && decide (role s ≠ 1) && decide (lockState s = 3) && !s.tide.lossReported &&
      decide (s.tide.holdoverAt + 2000000 ≤ s.tide.now))
    (fatal (fput (setTide s { s.tide with lossReported := true }) F.tideStateTideLoss 1) 0x30 0 0) s

/-- The second hold boundary after now (R35). -/
def secondBoundary (s : State) : Nat := (s.tide.now / 16384 + 2) * 16384

def scheduleHandover (s : State) : State :=
  match s.tide.handoverAt with
  | some _ => s
  | none => setTide s { s.tide with handoverAt := some (secondBoundary s) }

def clearReference (s : State) : RefInput → State
  | .tenMHz => fput s F.tideStateRef10mhzOk 0
  | .onePps => fput s F.tideStateRefPpsOk 0
  | .timeOfDay => fput s F.tideStatePtpOk 0

/-- On the Lighthouse the loss of its 10 MHz or 1 PPS input (R35, R36): in ACQUIRE it falls back to FREE (Table 02-2), and
with a valid standby the roles are to change; on the standby the Lighthouse's report of it. -/
def execReferenceLoss (which : RefInput) (standbyValid : Bool) (s : State) : Out :=
  let t := clearReference s which
  if s.tide.running ∧ which ≠ .timeOfDay ∧ role s = 1 then
    .next (if lockState s = 1 then (if standbyValid then scheduleHandover (enterFree t) else enterFree t)
      else if standbyValid then scheduleHandover t
      else if lockState s = 2 then enterHoldover t else t)
  else if s.tide.running ∧ which ≠ .timeOfDay ∧ role s = 2 ∧ referenceOk s then .next (scheduleHandover s)
  else turnedAway s

/-- Both inputs of a Lighthouse in HOLDOVER are valid again. -/
def execReferenceRestored (s : State) : Out :=
  whenever (s.tide.running && decide (role s = 1) && decide (lockState s = 3))
    (enterLocked (fput (fput s F.tideStateRef10mhzOk 1) F.tideStateRefPpsOk 1)) s

/-- The standby has heard no time cell of the Lighthouse for 65,536 Tide ns. -/
def execLighthouseTimeCellTimeout (s : State) : Out :=
  whenever (s.tide.running && decide (role s = 2) && decide (s.tide.lastLhCell + 65536 ≤ s.tide.now) && referenceOk s)
    (scheduleHandover s) s

/-- A module that is no longer the Lighthouse takes link-derived time from its first usable candidate; in FREE it has no
parent until it acquires one (R35, Table 02-2). -/
def followLinks (s : State) : State :=
  if lockState s = 0 then setParent s 0x3F 0x3F
  else
    match nextParent s 0x3F with
    | some q => takeParent s q
    | none => loseParent s

/-- The roles change: the standby continues from its own counter; the former Lighthouse takes link-derived time. -/
def handover (s : State) : State :=
  let s := setTide s { s.tide with handoverAt := none }
  if role s = 2 then (if referenceOk s then setParent (fput s F.tideStateRole 1) 0x3F 0 else s)
  else if role s = 1 then followLinks (fput s F.tideStateRole 0)
  else s

def execLighthouseHandover (s : State) : Out :=
  whenever (s.tide.running && decide (s.tide.handoverAt = some s.tide.now)) (handover s) s

/-- An IEEE 1588 message: the client follows its validity and time of day in every role (R34). -/
def execPtpMessageReceive (valid : Bool) (tai : Word) (s : State) : Out :=
  whenever s.tide.running
    (fputBool (setTide s { s.tide with tai := if valid then tai else s.tide.tai }) F.tideStatePtpOk valid) s

/-- A change of a monitored input (R34). -/
def execReferenceInputChange (which : RefInput) (valid : Bool) (s : State) : Out :=
  whenever s.tide.running
    (match which with
     | .tenMHz => fputBool s F.tideStateRef10mhzOk valid
     | .onePps => fputBool s F.tideStateRefPpsOk valid
     | .timeOfDay => fputBool s F.tideStatePtpOk valid) s

/-! Time cells. -/

/-- The TIME cell a port sends now (Table 11-6). -/
def timeCellOf (s : State) (p : Nat) (ps : BitVec 16) : TimeCell :=
  let x := port s p
  let base : TimeCell :=
    { txNs := BitVec.ofNat 64 s.tide.now, txPs := ps, hops := BitVec.ofNat 16 (fget s F.tideStateHops),
      lock := BitVec.ofNat 8 (lockState s), role := BitVec.ofNat 8 (role s), tseq := x.tseq,
      echoTxNs := 0, echoTxPs := 0, echoTseq := 0xFFFF, echoRxNs := 0, echoRxPs := 0 }
  match x.lastTime with
  | none => base
  | some (c, rxNs, rxPs) =>
    { base with echoTxNs := c.txNs, echoTxPs := c.txPs, echoTseq := c.tseq, echoRxNs := rxNs, echoRxPs := rxPs }

/-- The picoseconds beyond the Tide ns at which a cell leaves: a phase that the model does not keep (assumption 86). -/
def leavingPs (s : State) : BitVec 16 := BitVec.ofNat 16 ((freeAt s 0).toNat % 1000)

/-- Every 4,096 Tide ns a TIME cell is due on a port in SERVICE: it waits for its turn, and its payload is stamped as it leaves
(R37, R310, R319). -/
def execTimeCellSend (p : PortIx) (s : State) : Out :=
  let x := port s p.val
  whenever (atMultiple s 4096 && inService s p.val && !x.retraining && decide (x.timeAt ≠ some s.tide.now))
    (queueCell (setPort s p.val { x with timeAt := some s.tide.now }) p.val (mkCell 2 [])) s

/-- A stamp in ps. -/
def stampPs (ns : Word) (ps : BitVec 16) : Int := ((ns.toNat * 1000 + ps.toNat : Nat) : Int)

/-- Delay and offset of an exchange in ps (R37); a half picosecond is dropped downwards (assumption 11). -/
def exchange (t1 t2 t3 t4 : Int) : Int × Int := (((t4 - t1) - (t3 - t2)) / 2, ((t2 - t1) - (t4 - t3)) / 2)

/-- What a good TIME cell leaves on its port, and the offset for the steering when the port is the parent (R38). -/
def takeTime (s : State) (p : Nat) (c : TimeCell) (rxPs : BitVec 16) : State :=
  let now := BitVec.ofNat 64 s.tide.now
  let x := port s p
  let x := { x with lastTime := some (c, now, rxPs), farHops := c.hops.toNat, farRole := c.role.toNat }
  let s := if c.role = 1 then setTide s { s.tide with lastLhCell := s.tide.now } else s
  if c.echoTseq = 0xFFFF then reparent (setPort s p x)
  else
    let (d, o) := exchange (stampPs c.echoTxNs c.echoTxPs) (stampPs c.echoRxNs c.echoRxPs) (stampPs c.txNs c.txPs)
      (stampPs now rxPs)
    let s := setPort s p { x with delayPs := d, offsetPs := o }
    reparent (if parentPort s = p then setTide s { s.tide with offsets := s.tide.offsets ++ [o] } else s)

/-- A TIME cell received: in error it is discarded without a NAK and counted (R319). -/
def execTimeCellReceive (p : PortIx) (wire : List Byte) (fec : Bool) (rxPs : BitVec 16) (s : State) : Out :=
  let c := cellIn wire fec
  whenever (s.tide.running && inService s p.val && !(port s p.val).retraining && decide (c.typ = 2))
    (if cellInError c then fcount (countEvent s 3 p.val 5 1 0) (F.quayPortCntTimeLost p.val) 1
     else takeTime (takeAck s p.val c.ack) p.val (readTime c.payload) rxPs) s

end Sys2Proof.Machine
end

