-- ==== Sys2Proof/Machine/Sched.lean ====
section
/-! DEFINITION. Schedule time, the entries that have reached their first slot, and holds (R45, R50 to R57). -/

namespace Sys2Proof.Machine

/-- A hold begins at this instant. -/
def holdBeginsNow (s : State) : Bool := s.tide.latched.any (fun l => decide (l.1 = s.tide.now))

/-- Entries may start: the Tide runs, no hold is in progress, and the job has not been stopped (R56, R370, R379). -/
def entriesRun (s : State) : Bool := s.tide.running && !inHold s && !holdBeginsNow s && !s.job.stopped

/-- The table code of an entry kind (Table 02-6). -/
def entryCode : EntryKind → Nat
  | .quayTx => 1
  | .quayRx => 2
  | .barge => 3
  | .craneBg => 4
  | .ballast => 5
  | .marker => 6

/-- Two entries are of one kind and resource. -/
def sameResource (a b : Entry) : Bool := decide (a.kind = b.kind) && decide (a.res = b.res)

/-- An entry reaches its first slot; behind one of the same resource that still waits it is late from the outset (R51). -/
def addDue (due : List Due) (e : Entry) : List Due := due ++ [⟨e, due.any (fun d => sameResource d.entry e)⟩]

/-- The work of an entry has not completed: the entry waits to start, or its resource still carries its stream or job. -/
def workRuns (s : State) (e : Entry) : Bool :=
  s.tide.due.any (fun d => decide (d.entry = e)) ||
  (match e.kind with
   | 1 => decide ((port s e.res).tx.map (·.stream) = some e.stream)
   | 2 => (port s e.res).rx.any (fun r => decide (r.stream = e.stream) && !r.closed)
   | 3 =>
     let b := bargeSt s e.res
     decide (b.cur.map (·.start.stream) = some e.stream) || (b.queue ++ b.held).any (fun x => decide (x.stream = e.stream))
   | 4 =>
     let x := crane s e.res
     !(x.lists.isEmpty && x.bgq.isEmpty && x.bgCmds.isEmpty)
   | _ => false)

/-- A dl entry reaches its first slot now: its deadline is the instant at which schedule time reaches the end of its last
slot plus its slack (R53). -/
def dlWork (s : State) (e : Entry) : DlWork := ⟨e, s.tide.now + 64 * (e.len + e.slack)⟩

/-- A BARGE entry whose stream has a gate has a deadline too: a gate that holds it past its entry's end plus slack raises a hold
(R294). -/
def gatedEntry (s : State) (e : Entry) : Bool :=
  decide (e.kind = 3) && decide (readNat s (bargeDescAddr s e.stream + 0x53) 1 / 2 % 2 = 1)

/-- The deadline with every hold that is latched and not yet inserted treated as inserted (R53). -/
def deadlineLatched (s : State) (d : Nat) : Nat := s.tide.latched.foldl (fun d l => if l.1 < d then d + l.2 * 1024 else d) d

/-- The entries of a slot reach it, those that have waited since an earlier slot being late (R51). -/
def reachSlot (s : State) (ep : Epoch) (slot : Nat) : State :=
  let waiting := s.tide.due.map (fun d => { d with late := true })
  let fresh := if s.job.stopped then [] else ep.entries.filter (fun e => decide (e.start = slot))
  let dls := s.tide.dls.filter (fun d => workRuns s d.entry) ++ (fresh.filter (fun e => e.dl || gatedEntry s e)).map (dlWork s)
  fput (setTide s { s.tide with
    due := fresh.foldl addDue waiting, dls := dls, lastBoundary := some s.tide.now, awaitFirst := false })
    F.tideSchedSlot slot

/-- The slot that begins at this boundary. -/
def nextSlot (s : State) (ep : Epoch) : Nat :=
  if s.tide.awaitFirst then 0
  else if fget s F.tideSchedSlot + 1 < ep.slots then fget s F.tideSchedSlot + 1 else 0

/-- Ballast windows and bank 1 reservations end with the last slot of their entry: units whose window passes. -/
def passWindows (s : State) : State :=
  (List.range 16).foldl (fun s c =>
    let x := crane s c
    let x := match x.bgLast with
      | some 0 => { x with bgLast := none, bgPast := true }
      | some (n + 1) => { x with bgLast := some n }
      | none => x
    let x := match x.ballastLast with
      | some 0 => { x with ballastLast := none, ballast := 0 }
      | some (n + 1) => { x with ballastLast := some n }
      | none => x
    setCrane s c x) s

def execSlotBoundary (s : State) : Out :=
  match s.tide.epoch with
  | none => turnedAway s
  | some ep =>
    whenever (atMultiple s 64 && !inHold s && !holdBeginsNow s && decide (s.tide.lastBoundary ≠ some s.tide.now))
      (reachSlot (passWindows s) ep (nextSlot s ep)) s

/-- The first entry of a kind and resource that waits to start. -/
def dueFor (s : State) (kind res : Nat) : Option Due :=
  s.tide.due.find? (fun d => decide (d.entry.kind = kind) && decide (d.entry.res = res))

/-- The list without the first entry of a kind and resource. -/
def removeDue (kind res : Nat) : List Due → List Due
  | [] => []
  | d :: rest => if d.entry.kind = kind ∧ d.entry.res = res then rest else d :: removeDue kind res rest

def dropDue (s : State) (kind res : Nat) : State := setTide s { s.tide with due := removeDue kind res s.tide.due }

/-- The waiting entries of a resource that was busy at their first slot are late (R51). -/
def markLate (s : State) (kind res : Nat) : State :=
  setTide s { s.tide with due := s.tide.due.map (fun d =>
    if d.entry.kind = kind ∧ d.entry.res = res then { d with late := true } else d) }

/-- A local overrun (R51): a late start. -/
def countOverrun (s : State) : State := countEvent (fcount s F.tideHoldRaisedOverruns 1) 7 0 3 1 0

/-- A marker reaches its first slot: the drop cutoff (R383), and the end of a step (R48, R392). -/
def passMarker (s : State) (e : Entry) : State :=
  let s := if e.stream = 0x0100 ∧ jobLive s = true then dropCutoff s else s
  if e.stepEnd ∧ jobLive s = true then endStep s else s

/-! Holds. -/

/-- Quanta for a shortfall in ns, capped at 15 (R53). -/
def quantaFor (shortfall : Nat) : Nat := if (shortfall + 1023) / 1024 < 15 then (shortfall + 1023) / 1024 else 15

/-- The latch boundary of a request raised at t (R54). -/
def latchBoundary (t : Nat) : Nat := (t + 8192 + 16383) / 16384 * 16384

/-- The request the module raises now. -/
def requestNow (s : State) (shortfall : Nat) : HoldReq :=
  ⟨BitVec.ofNat 16 (hallIndex s), BitVec.ofNat 8 (quantaFor shortfall), BitVec.ofNat 64 s.tide.now,
    BitVec.ofNat 64 (latchBoundary s.tide.now)⟩

/-- A request is recorded and its HOLD cell waits on every port in SERVICE (R54). -/
def recordRequest (s : State) (r : HoldReq) : State :=
  queueEverywhere (setTide s { s.tide with reqs := s.tide.reqs ++ [r], seen := s.tide.seen ++ [(r.origin, r.tr)] })
    (mkCell 3 (holdPayload r))

/-- The running work under a dl entry of a kind and resource that carries a stream. -/
def dlRunning (s : State) (kind res stream : Nat) : Option DlWork :=
  s.tide.dls.find? (fun d => decide (d.entry.kind = kind ∧ d.entry.res = res ∧ d.entry.stream = stream) && workRuns s d.entry)

/-- The module predicts that running work under a dl entry completes at the instant `predicted`; past the deadline it raises a
request for the shortfall, once per hold boundary interval (R53). The prediction itself is the sender's: DESIGN CHOICE,
assumption 74. -/
def execHoldRequestRaise (kind : EntryKind) (unit : Nat) (stream : BitVec 16) (predicted : Word) (s : State) : Out :=
  match dlRunning s (entryCode kind) unit stream.toNat with
  | none => turnedAway s
  | some d =>
    let shortfall := predicted.toNat - deadlineLatched s d.deadline
    let t := recordRequest s (requestNow s shortfall)
    let t := setTide t { t.tide with raisedIn := some (s.tide.now / 16384) }
    whenever (s.tide.running && decide (0 < shortfall) && decide (s.tide.raisedIn ≠ some (s.tide.now / 16384)))
      (countEvent (fcount t F.tideHoldRaisedRaised 1) 7 0 1 1 0) s

/-- The first copy of a request is recorded and forwarded, a repeat discarded, and one that comes at its latch boundary
or later is a Tide protocol fault (R54, R57). -/
def takeRequest (s : State) (r : HoldReq) : State :=
  if s.tide.seen.contains (r.origin, r.tr) then s
  else if r.b.toNat ≤ s.tide.now then
    fatal (setTide s { s.tide with seen := s.tide.seen ++ [(r.origin, r.tr)] }) 0x21 0 0
  else recordRequest s r

/-- The largest q of the requests for a boundary. -/
def latchedQuanta (s : State) (b : Nat) : Nat :=
  (s.tide.reqs.filter (fun r => decide (r.b.toNat = b))).foldl (fun q r => if q < r.q.toNat then r.q.toNat else q) 0

def execHoldLatch (s : State) : Out :=
  let b := s.tide.now
  let q := latchedQuanta s b
  let t := setTide s { s.tide with reqs := s.tide.reqs.filter (fun r => decide (r.b.toNat ≠ b)) }
  whenever (atMultiple s 16384)
    (if q = 0 then t else setTide t { t.tide with latched := t.tide.latched ++ [(b + 16384, q)] }) s

/-- The hold that begins now. -/
def holdNow (s : State) : Option (Nat × Nat) := s.tide.latched.find? (fun l => decide (l.1 = s.tide.now))

def execHoldStart (s : State) : Out :=
  match holdNow s with
  | none => turnedAway s
  | some (b, q) =>
    let t := setTide s { s.tide with
      latched := s.tide.latched.filter (fun l => decide (l.1 ≠ b)), holdEnd := b + q * 1024
      dls := s.tide.dls.map (fun d => if b < d.deadline then { d with deadline := d.deadline + q * 1024 } else d) }
    let t := fcount (fcount (fput t F.tideSchedInHold 1) F.tideHoldHolds 1) F.tideHoldQuanta q
    whenever (s.tide.running && !inHold s) (countItem t 6 0 0 q) s

def execHoldEnd (s : State) : Out :=
  whenever (s.tide.running && inHold s && decide (s.tide.holdEnd ≤ s.tide.now)) (fput s F.tideSchedInHold 0) s

end Sys2Proof.Machine
end

