-- ==== Sys2Proof/Machine/PortState.lean ====
section
/-! DEFINITION. The states of Quay ports (Table 11-2): what enters and leaves them, the judgement of an IDENT, and protocol
faults (R305 to R308, R317). -/

namespace Sys2Proof.Machine

def portState (s : State) (p : Nat) : Nat := fget s (F.quayPortStateState p)
def setPortState (s : State) (p st : Nat) : State := fput s (F.quayPortStateState p) st

/-- The first entry of the active epoch that names a stream on the port. -/
def entryOnPort (s : State) (p : Nat) : Option Entry :=
  match s.tide.epoch with
  | none => none
  | some ep => ep.entries.find? (fun e => decide ((e.kind = 1 ∨ e.kind = 2) ∧ e.res = p))

/-- QUAY_FAULT captures the first Quay protocol fault. -/
def captureQuay (s : State) (p stream cause : Nat) : State :=
  if flag s F.quayFaultValid then s
  else fput (fput (fput (fput s F.quayFaultStream stream) F.quayFaultPort p) F.quayFaultCause cause) F.quayFaultValid 1

/-- A Quay protocol fault (R317). -/
def quayFault (s : State) (p stream cause : Nat) : State := fatal (captureQuay s p stream cause) 0x23 (p / 16) (p % 16)

/-- A port that was in SERVICE has left it: step-fatal when the active epoch of a live job uses it (R308). -/
def leftService (was : Bool) (s : State) (p : Nat) : State :=
  match entryOnPort s p with
  | some e => if was && jobLive s then fatal (captureQuay s p e.stream 4) 0x22 (p / 16) (p % 16) else s
  | none => s

/-- The port loses its link: DOWN, and nothing received before counts. -/
def enterDown (s : State) (p : Nat) : State :=
  let s := setPortState s p 0
  setPort s p { port s p with identSeen := false, retraining := false, waiting := [], replay := [], reorder := [] }

/-- The port fails (R304, R314). -/
def enterFailed (s : State) (p : Nat) : State :=
  let was := inService s p
  let s := setPortState s p 5
  leftService was (setPort s p { port s p with retraining := false }) p

def enterService (s : State) (p : Nat) : State := reparent (setPortState s p 3)

def enterQuarantine (s : State) (p : Nat) : State := fput (setPortState s p 4) (F.quayPortStateIdentMismatch p) 1

/-- The port's last IDENT stands and matches its expectation (R306). -/
def lastMatches (s : State) (p : Nat) : Bool := (port s p).identSeen && identMatches s p (port s p).lastIdent

/-- What a port expects of the far end (R306). -/
def expectation (s : State) (p : Nat) : Nat × Nat × Nat :=
  (fget s F.quayHallHallTag, fget s (F.quayExpectFarIndex p), fget s (F.quayExpectFarPort p))

/-- A routing commit at one port (R306, R307, R332); `before` is the state with the former routing. -/
def commitPort (before s : State) (p : Nat) : State :=
  if !flag s (F.quayExpectEn p) then setPort (setPortState s p 6) p { port s p with identSeen := false, retraining := false }
  else if portState s p = 6 then enterDown s p
  else if expectation s p = expectation before p then s
  else if portState s p = 3 ∧ lastMatches s p = false then enterQuarantine s p
  else if portState s p = 4 ∧ lastMatches s p = true then enterService s p
  else s

end Sys2Proof.Machine
end

