-- ==== Sys2Proof/Machine/Cache.lean ====
section
/-! DEFINITION. The Harbour Cache (R274, R275): which lines each set holds, in the order of their last use. Lines outstanding bound
time only. -/

namespace Sys2Proof.Machine

/-- The Hold and the Warehouse have a home Harbour Cache. -/
def hasHome (a : Nat) : Bool := decide (windowOf a = .hold) || decide (windowOf a = .whse)

/-- The bank of an address, numbered over the module, and its set. -/
def hcBank (s : State) (a : Nat) : Nat := homeDie s a * 16 + a / 128 % 16
def hcKey (s : State) (a : Nat) : Nat := hcBank s a * 2048 + a / 2048 % 2048
def hcSet (s : State) (a : Nat) : List HcLine := Tab.get [] s.hcache (hcKey s a)
def hcHas (s : State) (a : Nat) : Bool := (hcSet s a).any (fun x => decide (x.line = lineOf a))
def setHc (s : State) (a : Nat) (l : List HcLine) : State := { s with hcache := Tab.set [] s.hcache (hcKey s a) l }

/-- The line used last in a full set leaves; a dirty one is written to memory. -/
def hcEvict (s : State) (a : Nat) (l : List HcLine) : State :=
  let t := setHc s a (l.take 12)
  if (l.drop 12).any (·.dirty) then countEvent t 5 (hcBank s a) 3 1 0 else t

/-- An access of the line of an address at its home cache: a hit makes it the most recently used and a write dirty; a miss
allocates it (measure 4 of Table 15-4), or goes to memory alone. -/
def hcAccess (s : State) (a : Nat) (write alloc : Bool) : State :=
  if !hasHome a then s
  else
    let l := hcSet s a
    let others := l.filter (fun x => decide (x.line ≠ lineOf a))
    match l.find? (fun x => decide (x.line = lineOf a)) with
    | some x => countEvent (setHc s a (⟨x.line, x.dirty || write⟩ :: others)) 5 (hcBank s a) 1 1 0
    | none =>
      let t := countEvent s 5 (hcBank s a) 2 1 0
      if alloc then countLatency (hcEvict t a (⟨lineOf a, write⟩ :: others)) 4 (hcBank s a) 0 else t

/-- Every line of [a, a + n) accessed in turn. -/
def hcRange (s : State) (a n : Nat) (write alloc : Bool) : State :=
  (touchedLines a n).foldl (fun t l => hcAccess t (l * 128) write alloc) s

end Sys2Proof.Machine
end

