-- ==== Sys2Proof/Machine/Power.lean ====
section
/-! DEFINITION. Power: applying it, its phases, the power states and the faults of power and cooling (R421 to R437, R440 to
R444). -/

namespace Sys2Proof.Machine

def setSec (s : State) (x : SecSt) : State := { s with sec := x }
def setHost (s : State) (x : HostSt) : State := { s with host := x }

/-! The power state (R429, R432, Table 16-8). -/

/-- 0 IDLE, 1 RAMP_UP, 2 FLOOR, 3 RAMP_DOWN, 4 STANDDOWN, 5 OFF. -/
def pwrState (s : State) : Nat := fget s F.pwrStateState
def setPwr (s : State) (v : Nat) : State := fput s F.pwrStateState v

/-- The launch state is IDLE, REJECTED or ENDED. -/
def betweenJobs (s : State) : Bool := decide (s.job.st = 0 ∨ s.job.st = 3 ∨ s.job.st = 7)

/-- A stand-down begins; the stages follow (R434). -/
def startStanddown (s : State) : State := setPwr s 4

/-- No job is live any more: RAMP_DOWN, which a module without Ballast leaves at once (R432). -/
def rampDown (s : State) : State := if pwrState s = 1 ∨ pwrState s = 2 then setPwr s 3 else s

def rampUp (s : State) : State := setPwr s 1

/-- Every Crane's level has reached the floor. -/
def atFloor (s : State) : Bool := (List.range 16).all (fun c => decide (fget s F.pwrRampFloor ≤ (crane s c).level))

/-- Every Crane's level is 0. -/
def atZero (s : State) : Bool := (List.range 16).all (fun c => decide ((crane s c).level = 0))

/-- RAMP_DOWN is over once every level is 0; a fault's stand-down follows (R433). -/
def endRampDown (s : State) : State :=
  if pwrState s = 3 && atZero s then (if s.sec.faultDown then startStanddown s else setPwr s 0) else s

/-! Losing power (R436). -/

/-- What remains without power: the fuses, the boot flash and the power stage log, and what lies outside the module. -/
def keptSec (x : SecSt) : SecSt :=
  { blown := x.blown, flash := x.flash, faultLog := x.faultLog, senseClosed := x.senseClosed, inputCv := x.inputCv,
    lampInput := x.lampInput, offLatched := x.offLatched }

/-- The module without power: everything else is lost, and it starts again from reset. -/
def unpowered (s : State) : State :=
  { State.reset with pending := s.pending, free := s.free, uid := s.uid, sec := keptSec s.sec }

/-- An entry of the power stage log, which keeps the newest 16 (R426). -/
def logFault (s : State) (cause : Nat) : State := setSec s { s.sec with faultLog := (cause :: s.sec.faultLog).take 16 }

/-- A fault marked immediate cut in Table 16-5: logged, and the input switch opens. -/
def cutWith (s : State) (cause : Nat) : State := if s.sec.powered then unpowered (logFault s cause) else s

/-! Faults that ramp down and stand down (R433). -/

/-- PWR_FAULT captures the first fault. -/
def capturePwr (s : State) (cause : Nat) : State :=
  if flag s F.pwrFaultValid then s else fput (fput s F.pwrFaultCause cause) F.pwrFaultValid 1

/-- The job ends, the module ramps down, then stands down. -/
def powerFault (s : State) (cause die : Nat) : State :=
  let s := capturePwr (logFault s cause) cause
  let s := fatal s 0x33 die 0
  let s := setSec s { s.sec with faultDown := true }
  if pwrState s = 0 then startStanddown s else if jobLive s then s else rampDown s

/-! The input. -/

/-- The sense pin closed and the input in range for 100 ms: the input capacitance charges (R422), unless OFF still holds
(R444). -/
def execPowerApply (centivolts : Nat) (s : State) : Out :=
  whenever (!s.sec.powered && !s.sec.offLatched && decide (4800 ≤ centivolts ∧ centivolts ≤ 6000))
    (setSec s { s.sec with powered := true, phase := 0, senseClosed := true, inputCv := centivolts, lampInput := false, lampSafe := false })
    s

/-- Input below 46 V for 1 ms; below 5 V it also ends OFF (R421, R444). -/
def execInputUndervoltage (centivolts : Nat) (s : State) : Out :=
  let t := cutWith (setSec s { s.sec with inputCv := centivolts }) 1
  whenever (decide (centivolts < 4600))
    (if centivolts < 500 then setSec t { t.sec with offLatched := false, lampSafe := false } else t) s

/-- Input above 62 V for 1 ms or at 63 V at any instant; above 72 V no behaviour is guaranteed (R421). -/
def execInputOvervoltage (centivolts : Nat) (forOneMs : Bool) (s : State) : Out :=
  if 7200 < centivolts then .fault .outsideRating
  else
    whenever (decide (6300 ≤ centivolts) || (decide (6200 ≤ centivolts) && forOneMs))
      (cutWith (setSec s { s.sec with inputCv := centivolts }) 2) s

/-- Reversed input: no conversion runs and the INPUT lamp lights; the power stage logs it (R421, R426). The voltage is the
magnitude; beyond 60 V no behaviour is guaranteed. -/
def execReversePolarity (centivolts : Nat) (s : State) : Out :=
  if 6000 < centivolts then .fault .outsideRating
  else
    let t := if s.sec.powered then unpowered s else s
    .next (logFault (setSec t { t.sec with lampInput := true, inputCv := 0 }) 3)

/-- The sense pin opens: the input is isolated and bled; a draw above 20 W is a fault (R424). -/
def execSensePinOpen (watts : Nat) (s : State) : Out :=
  let s1 := if s.sec.powered ∧ 20 < watts then logFault s 5 else s
  let s2 := if s.sec.powered then unpowered s1 else s1
  .next (setSec s2 { s2.sec with senseClosed := false, offLatched := false, lampSafe := false })

/-- A converter's current limit trips (R425). -/
def execRailShort (s : State) : Out := whenever s.sec.powered (cutWith s 4) s

/-! Temperature and coolant. -/

/-- PWR_THERM of a die. -/
def putDieTemp (s : State) (d : Die) (c : Nat) : State := fput s (if d.val = 0 then F.pwrThermDie0C else F.pwrThermDie1C) c

def execDieOvertemp (die : Die) (celsius : Nat) (s : State) : Out :=
  whenever (s.tide.running && decide (100 ≤ celsius)) (powerFault (putDieTemp s die celsius) 6 die.val) s

def execDieCriticalTemp (die : Die) (celsius : Nat) (s : State) : Out :=
  whenever (s.tide.running && decide (110 ≤ celsius)) (cutWith (putDieTemp s die celsius) 9) s

/-- Flow in units of 10 mL/min (Table 16-8). -/
def execCoolantFlowLow (flow : Nat) (s : State) : Out :=
  whenever (s.tide.running && decide (flow < 160)) (powerFault (fput s F.pwrThermFlow flow) 7 0) s

def execCoolantInletHigh (celsius : Nat) (s : State) : Out :=
  whenever (s.tide.running && decide (50 < celsius))
    (powerFault (fput (fput s F.pwrThermInletC celsius) F.pwrThermWarn 1) 8 0) s

/-- A warning raises no error class (R435). -/
def execThermalWarning (celsius : Nat) (s : State) : Out :=
  whenever (s.tide.running && decide (45 < celsius)) (fput (fput s F.pwrThermInletC celsius) F.pwrThermWarn 1) s

/-! Stand-down (R434). -/

/-- PWR_CMD.standdown: only in IDLE. -/
def writeStanddown (s : State) : State :=
  let s := fput s F.pwrCmdStanddown 1
  if pwrState s = 0 then startStanddown s else s

def execPwrStanddown (s : State) : Out := .next (writeStanddown s)

/-- Tug-clock cycles of 1 ms (R6). -/
def msCycles : Nat := 2400000

/-- The phase began at least 1 ms ago. -/
def phaseAged (s : State) : Bool := decide (s.sec.phaseAt + msCycles ≤ s.perf.tc.toNat)

/-- Engines that a phase powers (Table 17-3): S6 0 to 2, S7 3 to 5, S8 6 and 7. -/
def phaseEngines (p : Nat) : List Nat := if p = 6 then [0, 1, 2] else if p = 7 then [3, 4, 5] else if p = 8 then [6, 7] else []

/-- An engine's power, which its ports' optics follow. -/
def setEngine (s : State) (e : Nat) (on : Bool) : State :=
  let s := setSec s { s.sec with enginePower := Tab.set false s.sec.enginePower e on }
  (List.range 4).foldl (fun s k => setPort s (4 * e + k) { port s (4 * e + k) with lit := on }) s

/-- A port moved to DOWN; one in use leaves SERVICE (R308), and one that is not enabled stays DISABLED (Table 11-12). -/
def portDown (s : State) (p : Nat) : State :=
  if portState s p = 6 then s else leftService (inService s p) (enterDown s p) p

/-- An engine that loses power: its ports move to DOWN (R467). -/
def dropEngine (s : State) (e : Nat) : State := (List.range 4).foldl (fun s k => portDown s (4 * e + k)) (setEngine s e false)

/-- Every Warehouse port down, and no storage link. -/
def dropPeripherals (s : State) : State :=
  let s := [0, 1].foldl (fun s d => [0, 1].foldl (fun s p => fput s (F.whsePortState d p) 0) s) s
  let s := [0, 1].foldl (fun s p => fput (fput s (F.storPortLinkUp p) 0) (F.storPortConns p) 0) s
  { s with storConn := [] }

/-- What a phase powered is switched off. -/
def leavePhase (s : State) (p : Nat) : State :=
  let s := (phaseEngines p).foldl dropEngine s
  if p = 5 then dropPeripherals s else s

/-- OFF: at most 20 W, the SAFE lamp lit, and no start until the input or the sense pin has been cycled (R434, R444). -/
def enterOff (s : State) : State :=
  let t := unpowered s
  setPwr (setSec t { t.sec with offLatched := true, lampSafe := true }) 5

/-- One stage of a stand-down, at least 1 ms after the last. -/
def execStanddownStage (s : State) : Out :=
  let t := setSec (leavePhase s s.sec.phase) { (leavePhase s s.sec.phase).sec with phase := s.sec.phase - 1, phaseAt := s.perf.tc.toNat }
  whenever (decide (pwrState s = 4) && phaseAged s) (if s.sec.phase ≤ 1 then enterOff s else t) s

/-! Start-up phases (R440, R441). -/

/-- The work of the present phase is done: the start-up stage tells (Tables 17-3 and 17-4). -/
def phaseWorkDone (s : State) : Bool :=
  let st := fget s F.secBootStage
  match s.sec.phase with
  | 0 => true
  | 1 => decide (1 ≤ st)
  | 2 => decide (1 ≤ st)
  | 3 => decide (1 ≤ st)
  | 4 => decide (6 ≤ st)
  | 5 => decide (6 ≤ st)
  | 6 => decide (6 ≤ st)
  | 7 => decide (6 ≤ st)
  | _ => false

/-- S1 begins: the Tide counter starts at zero in FREE, the boot ROM on physical Tug 0 (R441, R442); PWR_IN shows the input. -/
def beginS1 (s : State) : State :=
  fput { s with tide := { s.tide with running := true, now := 0 } } F.pwrInVIn s.sec.inputCv

/-- The next phase is powered. -/
def nextPhase (s : State) : State :=
  let p := s.sec.phase + 1
  let s := setSec s { s.sec with phase := p, phaseAt := s.perf.tc.toNat }
  let s := if p = 1 then beginS1 s else s
  (phaseEngines p).foldl (fun s e => setEngine s e true) s

/-- The next power phase, once the previous one's work is done and at least 1 ms has passed. Before S1 no clock runs, and
the surroundings time it. -/
def execPowerPhaseAdvance (s : State) : Out :=
  whenever (s.sec.powered && !s.sec.halted && decide (s.sec.phase < 8) && phaseWorkDone s &&
      decide (pwrState s ≤ 3) && (decide (s.sec.phase = 0) || phaseAged s))
    (nextPhase s) s

end Sys2Proof.Machine
end

