-- ==== Sys2Proof/Machine/Convert.lean ====
section
/-! DEFINITION. The converters into the storage formats: choice of a block's E8, block and scalar conversion, and the counts
of a Numeric Status Record (R142 to R151, R156 to R158, R164 to R166, Table 05-7). -/

namespace Sys2Proof.Machine

/-- The class an element is counted in (R166). -/
inductive Cls where
  | plain
  | invalid
  | saturated
  | flushed
  deriving DecidableEq, Repr

/-- The counts of a Numeric Status Record while it is formed. -/
structure Nsr where
  sat : Nat := 0
  flushed : Nat := 0
  invalid : Nat := 0
  first : Nat := 0xFFFFFFFF
  written : Nat := 0
  zeroBlocks : Nat := 0
  accSat : Bool := false
  deriving DecidableEq, Repr

/-- One element counted; the index is its place in the writer's order. An invalid element whose index does not lie below
0xFFFF_FFFF leaves first_invalid as it is, since the field has no larger value (DESIGN CHOICE, assumption 78). -/
def countCls (n : Nsr) (c : Cls) (idx : Nat) : Nsr :=
  let n := { n with written := n.written + 1 }
  match c with
  | .plain => n
  | .invalid => { n with invalid := n.invalid + 1, first := if idx < n.first then idx else n.first }
  | .saturated => { n with sat := n.sat + 1 }
  | .flushed => { n with flushed := n.flushed + 1 }

def stick32 (n : Nat) : Nat := if n < 2 ^ 32 then n else 2 ^ 32 - 1

/-- The flags byte of a record (Table 05-7). -/
def nsrFlags (accSat rsv stoch bg poison : Bool) : Nat :=
  (if accSat then 1 else 0) + (if rsv then 2 else 0) + (if stoch then 4 else 0) + (if bg then 8 else 0) +
  (if poison then 16 else 0)

/-- A record of 32 bytes. Where the source held poison, the class counts cover only elements written clean, of which
there are none (R381). Table 05-7 does not say what zero_blocks does above 2³² − 1; it sticks there like the counts beside it
(DESIGN CHOICE, assumption 78). -/
def nsrBytes (n : Nsr) (fmt : Nat) (rsv stoch bg poison : Bool) (seq : Nat) : List Byte :=
  (if poison then bytesOfNat 4 0 ++ bytesOfNat 4 0 ++ bytesOfNat 4 0 ++ bytesOfNat 4 0xFFFFFFFF
   else bytesOfNat 4 (stick32 n.sat) ++ bytesOfNat 4 (stick32 n.flushed) ++ bytesOfNat 4 (stick32 n.invalid) ++
     bytesOfNat 4 n.first) ++
  bytesOfNat 4 (stick32 n.written) ++ bytesOfNat 4 (stick32 n.zeroBlocks) ++ bytesOfNat 1 fmt ++
  bytesOfNat 1 (nsrFlags (n.accSat && !poison) rsv stoch bg poison) ++ bytesOfNat 2 0 ++ bytesOfNat 4 seq

/-- An element to convert: its value, its bank saturation bit, its index for counting, and how it rounds. -/
structure CElem where
  val : Num
  sat : Bool
  idx : Nat
  rnd : Rnd

/-- The larger of an amax and an element's magnitude; an infinity counts as the largest binary32, a NaN not at all. -/
def amaxStep (a : Nat × Int) : Num → Nat × Int
  | .nan => a
  | .inf _ => if magLt a.1 a.2 f32.maxM f32.maxE then (f32.maxM, f32.maxE) else a
  | .fin _ m e => if magLt a.1 a.2 m e then (m, e) else a

/-- choose_e8 of R147; `g` selects YF8G. -/
def chooseE8 (g : Bool) (xs : List Num) : Nat :=
  let a := xs.foldl amaxStep (0, 0)
  if a.1 = 0 then 0
  else
    let ex := topExp a.1 a.2
    let tooLarge := if g then magLt 7 (ex - 2) a.1 a.2 else magLt 15 (ex - 3) a.1 a.2
    let e := 127 + ex - (if g then 16 else 8) + (if tooLarge then 1 else 0)
    if e < 1 then 1 else if 254 < e then 254 else e.toNat

def fmt8 (g : Bool) : Fmt := if g then yf8g else yf8e

/-- The class of an element converted to a format, from its exact quotient and its result. -/
def classOfElem (f : Fmt) (q : Num) (sat : Bool) (r : Num) : Cls :=
  if isNan q then .invalid
  else if sat || exceeds f q || isInf q then .saturated
  else if !isZero q && isZero r then .flushed
  else .plain

/-- Whether a count as saturated came from the bank bit alone sets acc_sat: an element was counted because of its bit. -/
def countElem (n : Nsr) (f : Fmt) (x : CElem) (q r : Num) : Nsr :=
  let c := classOfElem f q x.sat r
  let n := countCls n c x.idx
  if c = .saturated ∧ x.sat = true then { n with accSat := true } else n

/-- One element of a block with a factor, converted; a NaN is written 0x00. Where every element of the block is zero, no class
count changes (R148). -/
def convElem8 (g : Bool) (e8 : Nat) (allZero : Bool) (x : CElem) (n : Nsr) : Byte × Nsr :=
  let q := if e8 = 0 then x.val else nscale x.val (127 - (e8 : Int))
  let r := narrow (fmt8 g) x.rnd q
  (if e8 = 0 then 0 else enc8 g r, countElem n (fmt8 g) { x with sat := x.sat && !allZero } q r)

def convElems8 (g : Bool) (e8 : Nat) (allZero : Bool) : List CElem → Nsr → List Byte × Nsr
  | [], n => ([], n)
  | x :: rest, n =>
    let (c, n1) := convElem8 g e8 allZero x n
    let (cs, n2) := convElems8 g e8 allZero rest n1
    (c :: cs, n2)

/-- A block: its E8, its codes and the counts. -/
def convBlock (g : Bool) (xs : List CElem) (n : Nsr) : Nat × List Byte × Nsr :=
  let e8 := chooseE8 g (xs.map (·.val))
  let (cs, n') := convElems8 g e8 (xs.all (fun x => isZero x.val)) xs n
  (e8, cs, if e8 = 0 then { n' with zeroBlocks := n'.zeroBlocks + 1 } else n')

/-- A list cut into runs of b. -/
def chunks {α : Type} (b : Nat) : Nat → List α → List (List α)
  | 0, _ => []
  | fuel + 1, xs => if xs.isEmpty then [] else xs.take b :: chunks b fuel (xs.drop b)

/-- Codes padded with 0x00 to the end of the last block. -/
def padTo (b : Nat) (cs : List Byte) : List Byte := cs ++ List.replicate (b - cs.length) 0

/-- A row of blocks: the E8 bytes, the codes and the counts. -/
def convBlocks (g : Bool) (b : Nat) : List (List CElem) → Nsr → List Byte × List Byte × Nsr
  | [], n => ([], [], n)
  | blk :: rest, n =>
    let (e, cs, n1) := convBlock g blk n
    let (es, ds, n2) := convBlocks g b rest n1
    (BitVec.ofNat 8 e :: es, padTo b cs ++ ds, n2)

/-- An element converted to a format without blocks: its code and the counts. -/
def convScalar (f : Fmt) (x : CElem) (n : Nsr) : Nat × Nsr :=
  let r := narrow f x.rnd x.val
  (encode f r, countElem n f x x.val r)

/-- A row of scalars of w bytes each. -/
def convScalars (f : Fmt) (w : Nat) : List CElem → Nsr → List Byte × Nsr
  | [], n => ([], n)
  | x :: rest, n =>
    let (c, n1) := convScalar f x n
    let (cs, n2) := convScalars f w rest n1
    (bytesOfNat w c ++ cs, n2)

/-- The lo part of a pair split with a rounding; +0 beside a non-finite hi (R151, Table 06-5). -/
def loPart (mode : Rnd) (x : Num) : Num :=
  if isFinite x then narrow bf16 mode (nsub x (narrow bf16 mode x)) else nzero

/-- A row of pairs: hi bytes, lo bytes and the counts, which are taken on hi. -/
def convPairs : List CElem → Nsr → List Byte × List Byte × Nsr
  | [], n => ([], [], n)
  | x :: rest, n =>
    let (c, n1) := convScalar bf16 x n
    let (hs, ls, n2) := convPairs rest n1
    (bytesOfNat 2 c ++ hs, bytesOfNat 2 (encode bf16 (loPart x.rnd x.val)) ++ ls, n2)

/-- The factor of a block applied to the value of a code: a zero block for 0x00 and 0xFF (R142, R145). -/
def scaled8 (g : Bool) (e8 : Byte) (code : Byte) : Num :=
  if e8 = 0 ∨ e8 = 0xFF then nzero else nscale (dec8 g code) ((e8.toNat : Int) - 127)

/-- The block size of a code: 16, 32, 64 or 128. -/
def blkSize (code : Nat) : Nat := 16 * 2 ^ (code % 4)

/-- A binary32 field at an offset. -/
def f32At (bs : List Byte) (off : Nat) : Num := decode f32 (at_ bs off 4)

end Sys2Proof.Machine
end

