-- ==== Sys2Proof/Machine/ActTable.lean ====
section
/-! DEFINITION. The activation tables of a Crane (R181 to R185) and the staging state they share with the other settings
groups (R58 to R61). -/

namespace Sys2Proof.Machine

/-! The staging machinery's state (Table 02-16). -/

def stageState (s : State) : Nat := fget s F.tideStageStatusStageState
def setStage (s : State) (v : Nat) : State := fput s F.tideStageStatusStageState v
/-- A group takes part in the current pass, arm or check. -/
def inPass (s : State) (group : Nat) : Bool := s.stage.groups.getLsbD group
/-- The group is being checked or is armed, so that its shadow writes are ignored (R61). -/
def shadowLocked (s : State) (group : Nat) : Bool := (decide (stageState s = 1) || decide (stageState s = 4)) && inPass s group
/-- A shadow write ignored (R61). -/
def ignoreShadow (s : State) : State := fput s F.tideStageStatusWriteWhileArmed 1
/-- A shadow write to a group of the current pass takes the pass back to idle (R61). -/
def shadowTaken (s : State) (group : Nat) : State := if stageState s = 2 ∧ inPass s group = true then setStage s 0 else s

/-! The table words. -/

/-- Word n of the identity table (R185). -/
def actIdentity (n : Nat) : BitVec 32 :=
  if n = 63 then 0xFF800000 else if n = 64 then 0x7F800000 else if 65 ≤ n ∧ (n - 65) % 5 = 2 then 0x3F800000 else 0

/-- Word n of a physical bank of a slot. -/
def actWord (x : Crane) (slot bank n : Nat) : BitVec 32 :=
  (Tab.get 0 x.act (slot * 1024 + bank * 512 + n)) ^^^ actIdentity n

def setActWord (x : Crane) (slot bank n : Nat) (w : BitVec 32) : Crane :=
  { x with act := Tab.set 0 x.act (slot * 1024 + bank * 512 + n) (w ^^^ actIdentity n) }

/-- The physical bank that is Ebb, and the one that is Flood (R182). -/
def ebbBank (x : Crane) (slot : Nat) : Nat := if Tab.get false x.ebb1 slot then 1 else 0
def floodBank (x : Crane) (slot : Nat) : Nat := if Tab.get false x.ebb1 slot then 0 else 1

/-- The word pair n of a bank as a control register; the high word of pair 192 is reserved (Table 06-9). -/
def actPair (x : Crane) (slot bank n : Nat) : Word :=
  (if n = 192 then 0#32 else actWord x slot bank (2 * n + 1)) ++ actWord x slot bank (2 * n)

/-- A write applied to the Flood bank. -/
def putActPair (x : Crane) (h : HeldAct) : Crane :=
  let old := actPair x h.slot (floodBank x h.slot) h.n
  let new := (old &&& ~~~h.mask) ||| (h.value &&& h.mask)
  let x := setActWord x h.slot (floodBank x h.slot) (2 * h.n) (new.setWidth 32)
  if h.n = 192 then x else setActWord x h.slot (floodBank x h.slot) (2 * h.n + 1) (new.extractLsb' 32 32)

/-- A write that takes effect now: into the Flood bank with dirty set and flood_valid cleared, or ignored while the Drain
tables group is being checked or is armed (R183). -/
def applyAct (s : State) (c : Nat) (h : HeldAct) : State :=
  if shadowLocked s 4 then ignoreShadow s
  else
    let s := setCrane s c (putActPair (crane s c) h)
    let s := fput s (F.craneActGenDirty c) (fget s (F.craneActGenDirty c) ||| 2 ^ h.slot)
    let s := fput s (F.craneActGenFloodValid c) (fget s (F.craneActGenFloodValid c) &&& (15 - 2 ^ h.slot))
    shadowTaken s 4

/-- An unretired command has resolved the Flood bank of a slot. -/
def floodInUse (x : Crane) (slot : Nat) : Bool :=
  (x.fgCmds ++ x.bgCmds).any (fun k => decide (k.actBank = some (slot, floodBank x slot)))

/-- A write to a table word: held behind a command or an earlier held write of the slot, or taken at once (R183). -/
def writeAct (s : State) (c : Nat) (h : HeldAct) : State :=
  let x := crane s c
  if floodInUse x h.slot || x.heldAct.any (fun y => decide (y.slot = h.slot)) then
    setCrane s c { x with heldAct := x.heldAct ++ [h] }
  else applyAct s c h

/-- The host and firmware and a job may all write the words (RW). -/
def execActTableWrite (_who : Agent) (c : CraneIx) (slot : Fin 4) (n : Fin 193) (value : Word) (s : State) : Out :=
  .next (writeAct s c.val ⟨slot.val, n.val, value, BitVec.allOnes 64⟩)

/-- The first held write of a slot. -/
def firstHeld (x : Crane) (slot : Nat) : Option HeldAct := x.heldAct.find? (fun h => decide (h.slot = slot))

def removeHeld (slot : Nat) : List HeldAct → List HeldAct
  | [] => []
  | h :: rest => if h.slot = slot then rest else h :: removeHeld slot rest

/-- The oldest held write of a slot is released once no unretired command uses the bank. -/
def execActTableWriteRelease (c : CraneIx) (slot : Fin 4) (s : State) : Out :=
  let x := crane s c.val
  match firstHeld x slot.val with
  | none => turnedAway s
  | some h =>
    whenever (!floodInUse x slot.val)
      (applyAct (setCrane s c.val { x with heldAct := removeHeld slot.val x.heldAct }) c.val h) s

/-- Generation of the Ebb bank of a slot. -/
def actGenField (c slot : Nat) : Field :=
  match slot with
  | 0 => F.craneActGenGen0 c
  | 1 => F.craneActGenGen1 c
  | 2 => F.craneActGenGen2 c
  | _ => F.craneActGenGen3 c

/-- A dirty slot exchanges its banks at a commit (R183). -/
def exchangeSlot (s : State) (c slot : Nat) : State :=
  if fget s (F.craneActGenDirty c) / 2 ^ slot % 2 = 1 then
    let x := crane s c
    let s := setCrane s c { x with ebb1 := Tab.set false x.ebb1 slot (!Tab.get false x.ebb1 slot) }
    let s := fput s (actGenField c slot) (fget s (actGenField c slot) + 1)
    let s := fput s (F.craneActGenDirty c) (fget s (F.craneActGenDirty c) &&& (15 - 2 ^ slot))
    fput s (F.craneActGenFloodValid c) (fget s (F.craneActGenFloodValid c) ||| 2 ^ slot)
  else s

/-- Every dirty slot of every Crane. -/
def exchangeTables (s : State) : State :=
  (List.range 16).foldl (fun s c => (List.range 4).foldl (fun s slot => exchangeSlot s c slot) s) s

/-- A finite binary32 word. -/
def finite32 (w : BitVec 32) : Bool := decide (w.extractLsb' 23 8 ≠ 0xFF)
def nan32 (w : BitVec 32) : Bool := decide (w.extractLsb' 23 8 = 0xFF) && decide (w.extractLsb' 0 23 ≠ 0)

/-- The check of one table: bounds non-decreasing and none NaN, centres and coefficients finite, limits not NaN (R184). -/
def tableOk (x : Crane) (slot bank : Nat) : Bool :=
  let w := actWord x slot bank
  (List.range 63).all (fun k => !nan32 (w k)) &&
  (List.range 62).all (fun k => nle (dec32 (w k)) (dec32 (w (k + 1)))) &&
  !nan32 (w 63) && !nan32 (w 64) && (List.range 320).all (fun k => finite32 (w (65 + k)))

/-- The check of the Drain tables group covers every dirty slot. -/
def drainTablesOk (s : State) : Bool :=
  (List.range 16).all (fun c => (List.range 4).all (fun slot =>
    decide (fget s (F.craneActGenDirty c) / 2 ^ slot % 2 = 0) || tableOk (crane s c) slot (floodBank (crane s c) slot)))

/-- act(y) of R181 from the words of a table. -/
def act (w : Nat → BitVec 32) (y : Num) : Num :=
  match y with
  | .nan => .nan
  | .inf s => if s then dec32 (w 63) else dec32 (w 64)
  | .fin _ _ _ =>
    let seg := ((List.range 63).filter (fun k => nle (dec32 (w k)) y)).length
    let c := fun i => dec32 (w (65 + 5 * seg + i))
    let u := sub64 y (c 0)
    let r := add64 (mul64 (c 4) u) (c 3)
    let r := add64 (mul64 r u) (c 2)
    add64 (mul64 r u) (c 1)

end Sys2Proof.Machine
end

