-- ==== Sys2Proof/Machine/RegMap.lean ====
section
/-! DEFINITION. Control space as it is read: which bits of which register exist with which access code, and their values
(R11, R12, R14, R358, Table 13-2). -/

namespace Sys2Proof.Machine

/-- A range of bits of one register whose value is computed or kept outside `State.fields`: lowest bit, width, code, value. -/
structure ExtraBits where
  lo : Nat
  w : Nat
  acc : Code
  val : Nat
  deriving DecidableEq, Repr

/-- Threads of a die that are not PARKED, 64 at a time (Table 03-16). -/
def threadLive (s : State) (d k : Nat) : Nat :=
  (List.range 64).foldl (fun a i => a + (if (thread s (256 * d + 64 * k + i)).st = .parked then 0 else 2 ^ i)) 0

/-- The revision code of MOD_ID (R3). -/
def revisionCode : Nat := if Config.revB then 2 else 1

/-- The value of PERF_OVF.ovf. -/
def ovfBits (s : State) : Nat := (List.range 8).foldl (fun a n => a + (if Tab.get false s.perf.ovf n then 2 ^ n else 0)) 0
/-- The value of PERF_OVF.sel_bad (R407): reported for a selector that is enabled or not alike. -/
def selBadBits (s : State) : Nat := (List.range 8).foldl (fun a n => a + (if selBad s n then 2 ^ n else 0)) 0

/-- The register at offset o of PERF that is not kept in fields (Tables 15-7 to 15-9). -/
def perfExtra (s : State) (o : Nat) : List ExtraBits :=
  let p := s.perf
  let k := o / 8
  if o = 0 then [⟨0, 1, .rw, if p.run then 1 else 0⟩]
  else if o = 0x10 then [⟨0, 8, .w1c, ovfBits s⟩, ⟨8, 8, .ro, selBadBits s⟩]
  else if 0x80 ≤ o ∧ o < 0xC0 then [⟨0, 48, .rw, Tab.get 0 p.ctr (k - 0x10)⟩]
  else if 0xC0 ≤ o ∧ o < 0x100 then [⟨0, 48, .ro, Tab.get 0 p.snapCtr (k - 0x18)⟩]
  else if 0x200 ≤ o ∧ o < 0x300 then [⟨0, 48, .rw, Tab.get 0 p.bins (k - 0x40)⟩]
  else if 0x1000 ≤ o ∧ o < 0x1080 then [⟨0, 64, .ro, p.cc.toNat⟩]
  else if 0x1100 ≤ o ∧ o < 0x1500 then [⟨0, 64, .ro, p.tc.toNat⟩]
  else if 0x1500 ≤ o ∧ o < 0x1700 then [⟨0, 64, .ro, p.cc.toNat⟩]
  else if 0x2000 ≤ o ∧ o < 0x2080 then [⟨0, 64, .ro, p.snapCc.toNat⟩]
  else if 0x2100 ≤ o ∧ o < 0x2500 then [⟨0, 64, .ro, p.snapTc.toNat⟩]
  else if 0x2500 ≤ o ∧ o < 0x2700 then [⟨0, 64, .ro, p.snapCc.toNat⟩]
  else []

/-- The bits of the register holding byte offset x that are not kept in fields. -/
def extraBits (s : State) (x : Nat) : List ExtraBits :=
  let i := x / 0x100000
  let o := x % 0x100000 / 8 * 8
  if i = 0 ∧ o = 0 then
    [⟨0, 4, .ro, revisionCode⟩, ⟨4, 4, .ro, 2⟩, ⟨16, 16, .ro, 0x1900⟩, ⟨32, 8, .ro, 0x10⟩, ⟨40, 8, .ro, 0x80⟩, ⟨48, 8, .ro, 0x90⟩]
  else if i = 1 ∧ o = 0 then [⟨0, 64, .ro, s.tide.now⟩]
  else if i = 3 ∧ o = 8 then [⟨0, 64, .ro, Config.serial.toNat⟩]
  else if i = 3 ∧ o = 0x10 then [⟨0, 8, .ro, Config.fusedCount + s.sec.blown⟩]
  else if i = 4 then perfExtra s o
  else if 8 ≤ i ∧ i < 0x18 ∧ 0x1800 ≤ o ∧ o < 0x3800 ∧ (o - 0x1800) % 0x800 / 8 < 193 then
    let c := i - 8
    let slot := (o - 0x1800) / 0x800
    let n := (o - 0x1800) % 0x800 / 8
    let x := actPair (crane s c) slot (ebbBank (crane s c) slot) n
    ⟨0, 32, .rw, x.toNat % 2 ^ 32⟩ :: (if n = 192 then [] else [⟨32, 32, .rw, x.toNat / 2 ^ 32⟩])
  else if 0x18 ≤ i ∧ i < 0x1A ∧ 0x10 ≤ o ∧ o < 0x30 then [⟨0, 64, .ro, threadLive s (i - 0x18) (o / 8 - 2)⟩]
  else []

/-- The code lets an agent read the current value: firmware reads every field but WO, a job and the host none that is FW
(R12). -/
def readable (fw : Bool) : Code → Bool
  | .ro => true
  | .rw => true
  | .w1c => true
  | .w1s => true
  | .wo => false
  | .fw => fw

/-- The 64-bit value of the register that holds byte offset x, as an agent reads it. -/
def regValue (s : State) (fw : Bool) (x : Nat) : Nat :=
  assemble s ((regFields x).filter (fun f => readable fw f.acc)) +
    ((extraBits s x).filter (fun e => readable fw e.acc)).foldl (fun a e => a + e.val % 2 ^ e.w * 2 ^ e.lo) 0

/-- n bytes of control space from byte offset x, within one register, as an agent reads them. -/
def ctlRead (s : State) (fw : Bool) (x n : Nat) : Nat := regValue s fw x / 2 ^ (8 * (x % 8)) % 2 ^ (8 * n)

/-- The offset lies in CXLC or CXLD, whose registers CXL 2.0 and not the manual gives (Table 13-2). -/
def isCxlBlock (x : Nat) : Bool := decide (x / 0x100000 = 0x38) || decide (x / 0x100000 = 0x39)

/-- What a load of control space gives; firmware's read of a CXL register is the k-th free value (DESIGN CHOICE,
assumption 70). -/
def ctlLoad (s : State) (fw : Bool) (x n k : Nat) : Nat :=
  if fw && isCxlBlock x then (freeAt s k).toNat % 2 ^ (8 * n) else ctlRead s fw x n

/-- [lo, lo + w) meets the bits of an access of n bytes at offset x. -/
def meets (x n lo w : Nat) : Bool := decide (lo < 8 * (x % 8 + n)) && decide (8 * (x % 8) < lo + w)

/-- The codes of the bits that an access touches. -/
def touchedCodes (s : State) (x n : Nat) : List Code :=
  ((regFields x).filter (fun f => meets x n f.lo f.w)).map (·.acc) ++
    ((extraBits s x).filter (fun e => meets x n e.lo e.w)).map (·.acc)

/-- At job privilege a read can act on some touched bit (R99). -/
def jobMayRead (s : State) (x n : Nat) : Bool := (touchedCodes s x n).any (fun c => decide (c ≠ .fw))
/-- At job privilege a write can act on some touched bit (R99). -/
def jobMayWrite (s : State) (x n : Nat) : Bool := (touchedCodes s x n).any (fun c => decide (c ≠ .fw ∧ c ≠ .ro))

/-- A violation by a job thread: counted and the first one captured, in diagnostic mode only (R101). -/
def violation (s : State) (t kind addr : Nat) : State :=
  let d := dieOfThread t
  if (thread s t).fw || !flag s (F.tugViolCountDiag d) then s
  else
    let s := fcount s (F.tugViolCountCount d) 1
    if flag s (F.tugViolFirstValid d) then s
    else
      fput (fput (fput (fput (fput s (F.tugViolFirstAddr d) addr) (F.tugViolFirstTug d) (tugOf t % 64))
        (F.tugViolFirstThread d) (t % 4)) (F.tugViolFirstKind d) kind) (F.tugViolFirstValid d) 1

/-! Plain writes: fields without a behaviour of their own. -/

/-- A field's value after its bits [lo, lo + w) are written with the bits of v in mask m. -/
def mergeBits (old v m w : Nat) : Nat := (old &&& (2 ^ w - 1 - m % 2 ^ w)) ||| (v &&& (m % 2 ^ w))

/-- What a write of value v under mask m leaves in a field for an agent, with the bits that hardware sets or clears in the
same cycle (R12, R15). -/
def writtenValue (fw : Bool) (f : Field) (old v m hwSet hwClear : Nat) : Nat :=
  match f.acc with
  | .ro => old
  | .wo => old
  | .rw => mergeBits old v m f.w
  | .fw => if fw then mergeBits old v m f.w else old
  | .w1c => mergeBits old 0 (v &&& m) f.w ||| (hwSet % 2 ^ f.w)
  | .w1s => (old &&& (2 ^ f.w - 1 - hwClear % 2 ^ f.w)) ||| (v &&& (m % 2 ^ f.w))

/-- Fields written one after another; v, m, hwSet and hwClear are 64-bit register images. -/
def writeFields (s : State) (fw : Bool) (v m hwSet hwClear : Nat) : List Field → State
  | [] => s
  | f :: rest =>
    writeFields (fput s f (writtenValue fw f (fget s f) (v / 2 ^ f.lo) (m / 2 ^ f.lo) (hwSet / 2 ^ f.lo) (hwClear / 2 ^ f.lo)))
      fw v m hwSet hwClear rest

/-- The register image of an access's value, and its mask. -/
def imageOf (x v : Nat) : Nat := v * 2 ^ (8 * (x % 8))
def maskOf (x n : Nat) : Nat := (2 ^ (8 * n) - 1) * 2 ^ (8 * (x % 8))

/-- Fields whose write is a command of its own: the action bits and every staged field. -/
def hasBehaviour (f : Field) : Bool :=
  let i := f.off / 0x100000
  let o := f.off % 0x100000
  (decide (i = 1) && (decide (o = 0x10) || decide (o = 0x30))) ||
  (decide (i = 2) && (decide (o = 0x10) || decide (o = 0x30))) ||
  (decide (i = 3) && decide (f = F.secExtGoGo)) ||
  (decide (i = 4) && (decide (f = F.perfSampCtlTugEn) || decide (f = F.perfSampCtlCraneEn))) ||
  (decide (i = 6) && decide (0x200 ≤ o ∧ o < 0x310)) ||
  (decide (0x1C ≤ i ∧ i < 0x1E) && decide (o = 8) && decide (f.lo = 63)) ||
  (decide (i = 0x20) && decide (8 ≤ o ∧ o < 0x28) && decide (o ≠ 0x10)) ||
  (decide (i = 0x21) && decide (f = F.manifestSwitchGo))

def plainFields (x : Nat) : List Field := (regFields x).filter (fun f => !hasBehaviour f)

/-- The bits of PERF kept outside fields that a plain write reaches: run, the ovf flags, and the bins. A write to a counter
is the command PERF_CTR_WRITE. -/
def writePerf (s : State) (x v m hwSet : Nat) : State :=
  let o := x % 0x100000 / 8 * 8
  if x / 0x100000 ≠ 4 then s
  else if o = 0 then
    if m % 2 = 1 then { s with perf := { s.perf with run := decide (v % 2 = 1) } } else s
  else if o = 0x10 then
    { s with perf := { s.perf with ovf := (List.range 8).foldl (fun t n =>
        if hwSet / 2 ^ n % 2 = 1 then Tab.set false t n true
        else if m / 2 ^ n % 2 = 1 ∧ v / 2 ^ n % 2 = 1 then Tab.set false t n false else t) s.perf.ovf } }
  else if 0x200 ≤ o ∧ o < 0x300 then
    let k := o / 8 - 0x40
    { s with perf := { s.perf with bins := Tab.set 0 s.perf.bins k (mergeBits (Tab.get 0 s.perf.bins k) v m 48) } }
  else s

def isFw : Agent → Bool
  | .fw => true
  | _ => false

/-- The access has a width and place that its sender may use: 4 or 8 bytes from the host (R359), else 1, 2, 4 or 8, always
aligned. -/
def accessOk (who : Agent) (x n : Nat) : Bool :=
  (match who with
   | .host => decide (n = 4 ∨ n = 8)
   | _ => decide (n = 1 ∨ n = 2 ∨ n = 4 ∨ n = 8)) && decide (x % n = 0)

end Sys2Proof.Machine
end

