-- ==== Sys2Proof/Machine/Stage.lean ====
section
/-! DEFINITION. Staged settings groups (R58 to R63, R431, R473, R474, Tables 02-4 to 02-9). -/

namespace Sys2Proof.Machine

/-! Shadow fields. -/

/-- Group of a staged register at an offset of control space; 5 for none. The Drain tables group (4) lies in the Crane
blocks and is written through `writeAct`. -/
def groupOf (x : Nat) : Nat :=
  let i := x / 0x100000
  let o := x % 0x100000 / 8 * 8
  if i = 6 ∧ 0x200 ≤ o ∧ o < 0x310 then 0
  else if i = 1 ∧ o = 0x30 then 1
  else if i = 2 ∧ o = 0x10 then 2
  else if i = 1 ∧ o = 0x10 then 3
  else 5

/-- A field's shadow value; where none has been written it is the active one. -/
def shadowGet (s : State) (f : Field) : Nat :=
  match Tab.get none s.stage.shadow (fieldKey f) with
  | some v => v
  | none => fget s f

def shadowPut (s : State) (f : Field) (v : Nat) : State :=
  { s with stage := { s.stage with shadow := Tab.set none s.stage.shadow (fieldKey f) (some (v % 2 ^ f.w)) } }

/-- Shadow fields of one register written with the bits of v in mask m. -/
def shadowFields (s : State) (v m : Nat) : List Field → State
  | [] => s
  | f :: rest => shadowFields (shadowPut s f (mergeBits (shadowGet s f) (v / 2 ^ f.lo) (m / 2 ^ f.lo) f.w)) v m rest

/-- Firmware's write to a staged register (R61). -/
def writeShadow (s : State) (x v m : Nat) : State :=
  let gr := groupOf x
  if shadowLocked s gr then ignoreShadow s else shadowTaken (shadowFields s v m (regFields x)) gr

def execShadowWrite (off : BitVec 26) (value : Word) (s : State) : Out :=
  whenever (decide (groupOf off.toNat < 4)) (writeShadow s off.toNat value.toNat (2 ^ 64 - 1)) s

/-! Checks. -/

/-- The side of an agent: firmware, or the job and the host (R63). -/
def sideOf (who : Agent) : Nat := if isFw who then 0 else 1

def refuseStage (s : State) : State := fput s F.tideStageStatusBusy 1

/-- A write to TIDE_STAGE_CTRL from the job or the host that is ignored as a whole; a job's is a violation (R63). -/
def ignoredCtrl (s : State) : Agent → State
  | .job t => violation s t.val 1 (ctlBase + 0x100040)
  | _ => s

/-- A check is refused while a check runs or a commit is armed (R60, R63). -/
def checkRefused (s : State) : Bool := decide (stageState s = 1 ∨ stageState s = 4)

/-- The check bit: refused, or the groups are being checked; no check takes its routing from a job image unless firmware
says so (`checkImage`). -/
def startCheck (s : State) (who : Agent) (groups : BitVec 5) : State :=
  if checkRefused s then refuseStage s
  else
    let sel := if isFw who then groups else 16#5
    fput (setStage { s with stage := { s.stage with groups := sel, epoch := none, fromImage := false } } 1) F.tideStageStatusOwner (sideOf who)

def execStageCheck (who : Agent) (groups : BitVec 5) (s : State) : Out :=
  if !isFw who && decide (groups &&& 15#5 ≠ 0) then .next (ignoredCtrl s who)
  else if checkRefused s then .next (refuseStage s)
  else .next (startCheck (fput s F.tideStageCtrlGroups groups.toNat) who groups)

/-- What an entry's 16 bytes say (Table 02-5). -/
def parseEntry (w : Nat) : Entry :=
  ⟨w % 2 ^ 32, w / 2 ^ 32 % 2 ^ 24, w / 2 ^ 56 % 256, w / 2 ^ 64 % 2 ^ 16, w / 2 ^ 80 % 2 ^ 16, w / 2 ^ 96 % 2 ^ 12,
    decide (w / 2 ^ 112 % 2 = 1), decide (w / 2 ^ 113 % 2 = 1), decide (w / 2 ^ 114 % 2 = 1), decide (w / 2 ^ 115 % 2 = 1)⟩

/-- The encoding and ranges of an entry and its extent (R47, R48). -/
def entryOk (slots w : Nat) : Bool :=
  let e := parseEntry w
  decide (w / 2 ^ 108 % 16 = 0 ∧ w / 2 ^ 116 % 2 ^ 12 = 0) && decide (1 ≤ e.len ∧ e.start + e.len ≤ slots) &&
  (match e.kind with
   | 1 => decide (e.res < 32)
   | 2 => decide (e.res < 32)
   | 3 => decide (e.res < 64)
   | 4 => decide (e.res < 16)
   | 5 => decide (e.res < 16 ∧ e.stream ≤ 15)
   | 6 => decide (e.res = 0)
   | _ => false) &&
  (!e.stepEnd || decide (e.kind = 6))

/-- The order of two neighbouring entries. -/
def entryLe (a b : Entry) : Bool :=
  decide (a.start < b.start) ||
    (decide (a.start = b.start) && (decide (a.kind < b.kind) || (decide (a.kind = b.kind) && decide (a.res ≤ b.res))))

def entryOverlaps (a b : Entry) : Bool :=
  sameResource a b && decide (a.start < b.start + b.len) && decide (b.start < a.start + a.len)

/-- The entries examined one at a time: the first fault's code, or the entries (R474). -/
def parseEntries (slots : Nat) : List Nat → List Entry → Nat ⊕ List Entry
  | [], done => .inr done.reverse
  | w :: rest, done =>
    let e := parseEntry w
    if !entryOk slots w then .inl 2
    else if !(match done with | [] => true | p :: _ => entryLe p e) then .inl 3
    else if done.any (entryOverlaps e) then .inl 1
    else parseEntries slots rest (e :: done)

/-- A Tide Table image examined in the order of R474. -/
def parseTable (s : State) (a : Nat) (jobId : Word) : Nat ⊕ Epoch :=
  let h := readBytes s a 64
  let n := at_ h 0xC 4
  let slots := at_ h 0x10 4 + 1
  if at_ h 0 4 ≠ 0x54545859 ∨ at_ h 4 2 ≠ 1 ∨ at_ h 6 2 ≠ 0 ∨ at_ h 0xA 2 ≠ 0 ∨ at_ h 0x16 2 ≠ 0 ∨ n < 1 ∨ 4194304 < n ∨ slots < 256 then
    .inl 3
  else if at_ h 0x18 8 ≠ jobId.toNat ∨ at_ h 8 2 ≠ hallIndex s then .inl 9
  else
    let body := readBytes s (a + 64) (16 * n)
    if digest (h.take 32 ++ body) ≠ h.drop 32 then .inl 3
    else
      match parseEntries slots ((List.range n).map (fun i => at_ body (16 * i) 16)) [] with
      | .inl c => .inl c
      | .inr es => .inr ⟨slots, at_ h 0x14 2, jobId, es⟩

/-- The value that a routing field would have after the commit. -/
def routed (s : State) (f : Field) : Nat := if inPass s 0 then shadowGet s f else fget s f

/-- The last IDENT of a port matches its expectation in that routing. -/
def identFits (s : State) (p : Nat) : Bool :=
  let c := (port s p).lastIdent
  decide (c.hallTag.toNat = routed s F.quayHallHallTag ∧ c.moduleIndex.toNat = routed s (F.quayExpectFarIndex p) ∧
    c.port.toNat = routed s (F.quayExpectFarPort p))

/-- A port named by a Quay entry is usable (R473). -/
def portFit (s : State) (p : Nat) : Bool :=
  decide (routed s (F.quayExpectEn p) = 1) && inService s p && (port s p).identSeen && identFits s p

/-- A parent candidate is acceptable (R473): 0x3F names none, and 0x20 to 0x3E name a port that is absent. -/
def candidateFit (s : State) (p : Nat) : Bool :=
  decide (p = 0x3F) ||
    (decide (p < 32) && decide (routed s (F.quayExpectEn p) = 1) && decide (portState s p ≠ 5) && (!(port s p).identSeen || identFits s p))

/-- The hall dimensions and index, and for a routing from a job image, its equality with the active QUAY_HALL (R371). -/
def hallFit (s : State) : Bool :=
  let dims := (routed s F.quayHallHxM1 + 1) * (routed s F.quayHallHyM1 + 1) * (routed s F.quayHallHzM1 + 1)
  decide (dims ≤ 8192 ∧ routed s F.quayHallIndex < dims) &&
  (!(inPass s 0 && s.stage.fromImage) ||
    [F.quayHallHxM1, F.quayHallHyM1, F.quayHallHzM1, F.quayHallIndex, F.quayHallHallTag].all
      (fun f => decide (routed s f = fget s f)))

/-- The ports of the Quay entries considered. -/
def consideredPorts (es : List Entry) : List Nat := (es.filter (fun e => decide (e.kind = 1 ∨ e.kind = 2))).map (·.res)

/-- The port check of R473. -/
def portsFit (s : State) (es : List Entry) : Bool :=
  (consideredPorts es).all (portFit s) &&
  [F.quayParentCand0, F.quayParentCand1, F.quayParentCand2, F.quayParentCand3].all (fun f => candidateFit s (routed s f)) &&
  hallFit s

/-- The staged epoch as the check finds it. -/
def stagedTable (s : State) : Nat ⊕ Epoch := parseTable s (shadowGet s F.tideTableBaseBase * 64) s.job.jobId

/-- The Quay entries that the port check considers. -/
def consideredEntries (s : State) : List Entry :=
  if inPass s 1 then (match stagedTable s with | .inl _ => [] | .inr ep => ep.entries)
  else if jobLive s then (match s.tide.epoch with | some ep => ep.entries | none => [])
  else []

/-- The failure code of a group; 0 when it passes (Table 02-9, R431, R473, R474). -/
def groupFailure (s : State) (gr : Nat) : Nat :=
  if !inPass s gr then 0
  else
    match gr with
    | 0 => if portsFit s (consideredEntries s) then 0 else 6
    | 1 =>
      match stagedTable s with
      | .inl c => c
      | .inr ep => if inPass s 0 || portsFit s ep.entries then 0 else 6
    | 2 => if shadowGet s F.pwrRampFloor < 13 ∨ shadowGet s F.pwrRampStepUs < 1000 then 4 else 0
    | 3 => if 100 ≤ shadowGet s F.tideCfgSteerLimitPpb ∧ shadowGet s F.tideCfgSteerLimitPpb ≤ 2000 then 0 else 5
    | _ => if drainTablesOk s then 0 else 7

def failedMask (s : State) : Nat := (List.range 5).foldl (fun a gr => a + if groupFailure s gr = 0 then 0 else 2 ^ gr) 0
def firstFailure (s : State) : Nat :=
  match (List.range 5).find? (fun gr => decide (groupFailure s gr ≠ 0)) with
  | some gr => groupFailure s gr
  | none => 0

/-- The epoch that the check keeps a copy of (R46). -/
def checkedEpoch (s : State) : Option Epoch :=
  if inPass s 1 then
    match stagedTable s with
    | .inl _ => none
    | .inr ep => some ep
  else none

/-- The check's result (R59). -/
def finishCheck (s : State) : State :=
  let t := fput (fput s F.tideStageStatusFailedGroups (failedMask s)) F.tideStageStatusFailCode (firstFailure s)
  if failedMask s = 0 then
    setStage { t with stage := { t.stage with epoch := checkedEpoch s } } 2
  else setStage t 3

/-- Firmware checks the routing and the schedule epoch that it has staged from a job image, at once (R371, R473). -/
def checkImage (s : State) : State :=
  let s := startCheck s .fw 3#5
  finishCheck { s with stage := { s.stage with fromImage := true } }

def execStageCheckComplete (s : State) : Out := whenever (decide (stageState s = 1)) (finishCheck s) s

/-! Arm, abort, commit. -/

/-- The instant that an arm would take. -/
def commitAt (s : State) : Nat := fget s F.tideCommitAtCommitNs
/-- The instant of the armed commit: TIDE_COMMIT_AT as it stood at the arm (R60). -/
def armedAt (s : State) : Nat := s.stage.armedAt
def ownedBy (s : State) (who : Agent) : Bool := decide (fget s F.tideStageStatusOwner = sideOf who)

/-- An arm refused for its commit instant (R60). -/
def refuseInstant (s : State) (gs : Nat) : State :=
  fput (fput (fput s F.tideStageStatusLate 1) F.tideStageStatusFailCode 8) F.tideStageStatusFailedGroups gs

/-- An arm is accepted only in pass and from the side that holds the pass (R60, R63). -/
def armRefused (s : State) (who : Agent) : Bool := decide (stageState s ≠ 2) || !ownedBy s who

def armStage (s : State) (who : Agent) : State :=
  if armRefused s who then refuseStage s
  else if commitAt s < s.tide.now + 16384 then refuseInstant s s.stage.groups.toNat
  else if inPass s 1 ∧ commitAt s % 16384 ≠ 0 then refuseInstant s 2
  else setStage { s with stage := { s.stage with armedAt := commitAt s } } 4

/-- An abort is accepted in armed, from the side that owns the commit, until 16,384 Tide ns before it (R60, R63). -/
def abortRefused (s : State) (who : Agent) : Bool :=
  decide (stageState s ≠ 4) || !ownedBy s who || decide (armedAt s < s.tide.now + 16384)

def abortStage (s : State) (who : Agent) : State :=
  if abortRefused s who then refuseStage s else setStage s 2

def execStageArm (who : Agent) (s : State) : Out := .next (armStage s who)
def execStageAbort (who : Agent) (s : State) : Out := .next (abortStage s who)

/-- The shadow values of a list of fields become active, and the shadow set follows them again. -/
def activate (s : State) : List Field → State
  | [] => s
  | f :: rest =>
    activate { fput s f (shadowGet s f) with
      stage := { s.stage with shadow := Tab.set none s.stage.shadow (fieldKey f) none } } rest

def routingFields : List Field :=
  (List.range 32).flatMap (fun n => [F.quayExpectFarIndex n, F.quayExpectFarPort n, F.quayExpectDir n, F.quayExpectEn n]) ++
  [F.quayParentCand0, F.quayParentCand1, F.quayParentCand2, F.quayParentCand3] ++
  [F.quayHallHxM1, F.quayHallHyM1, F.quayHallHzM1, F.quayHallIndex, F.quayHallHallTag]

def commitRouting (s : State) : State := reparent ((List.range 32).foldl (commitPort s) (activate s routingFields))

/-- A new epoch: its slot 0 begins at the next slot boundary outside a hold; entries of the old one that have reached their
first slot stay due (R51, R61). -/
def commitEpoch (s : State) : State :=
  let s := activate s [F.tideTableBaseBase]
  match s.stage.epoch with
  | none => s
  | some ep =>
    fput (fput (setTide s { s.tide with epoch := some ep, awaitFirst := true, lastBoundary := none }) F.tideSchedSlot 0)
      F.tideSchedEpochId ep.id

/-- TIDE_STATE.role follows a change of the selected role; the Lighthouse has no parent (R33), and a former Lighthouse takes
link-derived time or has no usable parent (Table 02-2). A limit that the commit lowers bounds the rate from the next
STEER_UPDATE on: the rate itself is not clamped here (R32). DESIGN CHOICE, assumption 73. -/
def commitClock (s : State) : State :=
  let old := fget s F.tideCfgRoleSel
  let s := activate s [F.tideCfgRoleSel, F.tideCfgSteerLimitPpb]
  if fget s F.tideCfgRoleSel = old then s
  else
    let was := role s
    let s := fput s F.tideStateRole (fget s F.tideCfgRoleSel)
    if role s = 1 then setParent s 0x3F 0 else if was = 1 then followLinks s else reparent s

/-- Every selected group becomes active at once (R59). -/
def commitGroups (s : State) : State :=
  let s0 := if inPass s 0 then commitRouting s else s
  let s1 := if inPass s 1 then commitEpoch s0 else s0
  let s2 := if inPass s 2 then activate s1 [F.pwrRampFloor, F.pwrRampStepUs] else s1
  let s3 := if inPass s 3 then commitClock s2 else s2
  let s4 := if inPass s 4 then exchangeTables s3 else s3
  setStage { s4 with stage := { s4.stage with epoch := none, fromImage := false } } 5

def execStageCommit (s : State) : Out :=
  whenever (s.tide.running && decide (stageState s = 4) && decide (s.tide.now = armedAt s)) (commitGroups s) s

end Sys2Proof.Machine
end

