-- ==== Sys2Proof/Machine/Trust.lean ====
section
/-! DEFINITION. Start-up, the boot chain, repair records, measurements and the identity (R438 to R458). -/

namespace Sys2Proof.Machine

/-! The boot flash and the fuses (R438, R439). -/

/-- A byte of the boot flash: as written last, else as the module was made. -/
def flashByte (s : State) (a : Nat) : Byte :=
  match Tab.get none s.sec.flash a with
  | some b => b
  | none => Config.flashImage a

def flashBytes (s : State) (a n : Nat) : List Byte := (List.range n).map (fun i => flashByte s (a + i))

def putFlash (s : State) (a : Nat) (bs : List Byte) : State :=
  setSec s { s.sec with flash := (List.range bs.length).foldl (fun t i => Tab.set none t (a + i) (some (bs.getD i 0))) s.sec.flash }

def bankBase (b : Bool) : Nat := if b then 0x3000000 else 0
/-- SEC_ARB.fuse_count: the number of fuses blown. -/
def fuseCount (s : State) : Nat := Config.fusedCount + s.sec.blown

/-! Measurements (R450). -/

def measBytes (s : State) (k : Nat) : List Byte := (List.range 4).flatMap (fun w => bytesOfNat 8 (fget s (F.secMeasValue (4 * k + w))))

/-- M_k extended with a digest. -/
def extendM (s : State) (k : Nat) (d : List Byte) : State :=
  let m := digest (measBytes s k ++ d)
  (List.range 4).foldl (fun s w => fput s (F.secMeasValue (4 * k + w)) (at_ m (8 * w) 8)) s

/-- SEC_EXT_GO.go: the digest in SEC_EXT_DATA extends M_index. -/
def writeExtGo (s : State) (k : Nat) : State :=
  extendM (fput (fput s F.secExtGoIndex k) F.secExtGoGo 1) k ((List.range 4).flatMap (fun w => bytesOfNat 8 (fget s (F.secExtDataD w))))

def execSecExtGo (index : Fin 4) (s : State) : Out := .next (writeExtGo s index.val)

/-! Bundles (Table 17-5). -/

/-- What holds a bundle: its byte at an offset. -/
abbrev Image := Nat → Byte

def imBytes (b : Image) (o n : Nat) : List Byte := (List.range n).map (fun i => b (o + i))
def imNat (b : Image) (o n : Nat) : Nat := natOfBytes (imBytes b o n)

/-- Bytes of an SLH-DSA-SHAKE-256s signature. -/
def sigBytes : Nat := 29792

/-- Magic, format, flags, reserved bytes and the places of the two parts. -/
def bundleForm (b : Image) : Bool :=
  decide (imNat b 0 4 = 0x46575859 ∧ imNat b 4 2 = 1 ∧ imNat b 6 2 < 4 ∧ imNat b 8 4 ≤ 128) &&
  (imBytes b 0xB0 80).all (fun x => decide (x = 0)) &&
  decide (imNat b 0x20 4 % 4096 = 0 ∧ 0x8000 ≤ imNat b 0x20 4 ∧ imNat b 0x24 4 ≤ 0x400000 ∧ imNat b 0x28 4 % 4096 = 0 ∧
    imNat b 0x20 4 + imNat b 0x24 4 ≤ 0x3000000 ∧ imNat b 0x28 4 + imNat b 0x2C 4 ≤ 0x3000000)

/-- The conditions of R446 but for the fuse count. -/
def bundleVerified (b : Image) : Bool :=
  bundleForm b && decide (digest (imBytes b 0x70 64) = Config.rootDigest) &&
  Config.sigVerify (imBytes b 0x70 64) (imBytes b 0 256) (imBytes b 0x100 sigBytes) &&
  decide (digest (imBytes b (imNat b 0x20 4) (imNat b 0x24 4)) = imBytes b 0x30 32)

def bundleFused (s : State) (b : Image) : Bool := decide (fuseCount s ≤ imNat b 8 4)

/-- The runtime hashes to rt_digest (R448). -/
def runtimeOk (b : Image) : Bool := decide (digest (imBytes b (imNat b 0x28 4) (imNat b 0x2C 4)) = imBytes b 0x50 32)

/-- What the module keeps of a bundle. -/
def toBundle (b : Image) (bank : Bool) : Bundle :=
  { bank := bank, svn := imNat b 8 4, seq := imNat b 0xC 4, rcompat := BitVec.ofNat 64 (imNat b 0x10 8),
    version := BitVec.ofNat 64 (imNat b 0x18 8), advance := decide (imNat b 6 2 % 2 = 1),
    inService := decide (imNat b 6 2 / 2 % 2 = 1), rtDigest := imBytes b 0x50 32 }

def flashBundle (s : State) (bank : Bool) : Image := fun i => flashByte s (bankBase bank + i)

/-- The ROM accepts a bank (R446). -/
def bankAccepted (s : State) (bank : Bool) : Bool := bundleVerified (flashBundle s bank) && bundleFused s (flashBundle s bank)

/-- The bank tried first: the higher seq, else A (R447). -/
def firstBank (s : State) : Bool := decide (imNat (flashBundle s false) 0xC 4 < imNat (flashBundle s true) 0xC 4)

/-! The end of start-up by a failure (R443). -/

def bootStageOf (s : State) : Nat := fget s F.secBootStage
def setBootStage (s : State) (v : Nat) : State := fput s F.secBootStage v

def failBoot (s : State) (code : Nat) : State :=
  setSec (fput s F.secBootFail code) { s.sec with halted := true, lampFault := true }

/-- Stage 0x0: a bank is chosen and stage 1 loaded. -/
def bootRom (s : State) : State :=
  let first := firstBank s
  let run (bank : Bool) : State :=
    let b := flashBundle s bank
    let t := extendM s 0 (digest (imBytes b 0 256))
    let t := setSec t { t.sec with running := some (toBundle b bank), rootKey := imBytes b 0x70 64 }
    setBootStage (fputBool (fputBool t F.secBootBank bank) F.secBootFallback (decide (bank ≠ first))) 1
  if bankAccepted s first then run first
  else if bankAccepted s (!first) then run (!first)
  else failBoot s (if bundleVerified (flashBundle s false) || bundleVerified (flashBundle s true) then 2 else 1)

/-- A ROM core fails its test: the next physical Tug, or S1 for good (R442). -/
def execRomCoreTestTimeout (s : State) : Out :=
  whenever (s.tide.running && !s.sec.halted && decide (bootStageOf s = 0))
    (if fget s F.secBootRomTug < 3 then fput s F.secBootRomTug (fget s F.secBootRomTug + 1)
     else setSec (fput s F.secBootFail 8) { s.sec with halted := true }) s

/-! Identity (R451, R452). -/

/-- "YXG4-ID". -/
def identString : List Byte := [0x59, 0x58, 0x47, 0x34, 0x2D, 0x49, 0x44]

/-- The identity public key. -/
def identityKey : List Byte := Config.keyGen (shake256 96 (identString ++ Config.idSeed))

/-- The identity secret: the 96 bytes that give SK.seed, SK.prf and PK.seed. -/
def identitySecret : List Byte := shake256 96 (identString ++ Config.idSeed)

/-- Stage 0x4's check of the identity record (Table 17-6). -/
def identityOk (s : State) : Bool :=
  let r := fun o n => flashBytes s (0x7800000 + o) n
  decide (natOfBytes (r 0 4) = 0x44495859 ∧ natOfBytes (r 4 2) = 1 ∧ natOfBytes (r 8 8) = Config.serial.toNat) &&
  decide (r 0x18 64 = identityKey) && Config.sigVerify s.sec.rootKey (r 0 128) (r 128 sigBytes)

/-! Repair records (R455 to R458). -/

def slotBase (i : Nat) : Nat := 0x6000000 + i * 0x8000

/-- A repair record as a slot holds it. -/
structure RepairRecord where
  signer : Nat
  seq : Nat
  entries : List RepairEntry
  bytes : List Byte
  sound : Bool
  deriving DecidableEq, Repr

def parseRepairEntry (e : List Byte) : RepairEntry := ⟨at_ e 0 1, at_ e 1 1, at_ e 2 2, at_ e 4 4, at_ e 8 8⟩

/-- A field of an entry within its range (Table 17-8). -/
def repairEntryOk (signer : Nat) (e : RepairEntry) : Bool :=
  match e.kind with
  | 1 => decide (e.die < 2 ∧ e.unit < 8 ∧ e.index ≤ 128)
  | 2 => decide (e.die < 2 ∧ e.unit < 8 ∧ e.index ≤ 128)
  | 3 => decide (e.die < 2 ∧ e.unit < 64 ∧ e.index ≤ 65535)
  | 4 => decide (e.die < 2 ∧ e.unit ≤ 67 ∧ e.index = 0)
  | 5 => decide (e.die < 2 ∧ e.unit ≤ 31 ∧ e.index ≤ 8)
  | 6 => decide (e.die < 2 ∧ e.unit = 0 ∧ e.index < 0x1200000)
  | 7 => decide (signer = 0)
  | _ => false

/-- A slot holds a record when its magic stands. -/
def slotUsed (s : State) (i : Nat) : Bool := decide (natOfBytes (flashBytes s (slotBase i) 4) = 0x50525859)

/-- A slot's record, with the conditions of R457 that concern it alone. -/
def slotRecord (s : State) (i : Nat) : RepairRecord :=
  let h := flashBytes s (slotBase i) 64
  let n := at_ h 0x14 2
  let n := if n ≤ 128 then n else 0
  let body := flashBytes s (slotBase i) (64 + 16 * n)
  let sig := flashBytes s (slotBase i + 64 + 16 * n) sigBytes
  let es := (List.range n).map (fun k => parseRepairEntry ((body.drop (64 + 16 * k)).take 16))
  let key := if at_ h 6 1 = 0 then s.sec.rootKey else identityKey
  { signer := at_ h 6 1, seq := at_ h 0x10 4, entries := es, bytes := body ++ sig,
    sound := decide (at_ h 4 2 = 1 ∧ at_ h 6 1 ≤ 1 ∧ at_ h 8 8 = Config.serial.toNat ∧ 1 ≤ n) && at_ h 7 1 == 0 &&
      (h.drop 0x16).all (fun b => decide (b = 0)) && es.all (repairEntryOk (at_ h 6 1)) && Config.sigVerify key body sig }

/-- The records in slot order, each sound one whose rec_seq exceeds that of every earlier slot: is at least `least`. -/
def soundRecords (s : State) : List Nat → Nat → List RepairRecord
  | [], _ => []
  | i :: rest, least =>
    if slotUsed s i then
      let r := slotRecord s i
      let more := soundRecords s rest (if least ≤ r.seq then r.seq + 1 else least)
      if r.sound && decide (least ≤ r.seq) then r :: more else more
    else soundRecords s rest least

/-- Sequence numbers that kind 7 entries revoke. -/
def revoked (rs : List RepairRecord) : List Nat :=
  rs.flatMap (fun r => (r.entries.filter (fun e => decide (e.kind = 7))).map (·.index))

def acceptedRecords (s : State) : List RepairRecord :=
  let rs := soundRecords s (List.range 512) 0
  rs.filter (fun r => !(revoked rs).contains r.seq)

def usedSlots (s : State) : Nat := ((List.range 512).filter (slotUsed s)).length

/-- A lane entry counts only for the engine that is fitted (R457). -/
def entryApplies (engines : List Nat) (e : RepairEntry) : Bool :=
  decide (e.kind ≠ 7) && (decide (e.kind ≠ 5) || decide (engines.getD (e.unit / 4) 0 = e.aux))

/-- Entries of the records, duplicates counted once. -/
def combined (engines : List Nat) (rs : List RepairRecord) : List RepairEntry :=
  ((rs.flatMap (·.entries)).filter (entryApplies engines)).eraseDups

/-- The combined entries exceed some spare capacity (Table 17-8). -/
def overSpare (es : List RepairEntry) : Bool :=
  es.any (fun e =>
    let same := (es.filter (fun f => decide (f.kind = e.kind ∧ f.die = e.die) &&
      (decide (e.kind = 4) || decide (f.unit = e.unit)))).length
    match e.kind with
    | 3 => decide (1344 < same)
    | 4 => decide (4 < same)
    | 6 => decide (4096 < same)
    | _ => decide (1 < same))

/-! Hold pages retired (R278). -/

/-- Number of a 4 KiB page by its die and its place in the die's portion. -/
def holdPageAddr (d page : Nat) : Nat := holdBase + d * 0x1200000000 + page * 4096

def retiredPages (s : State) (d : Nat) : List Nat := if d = 0 then s.hold.retired0 else s.hold.retired1
def queuedPages (s : State) (d : Nat) : List Nat := if d = 0 then s.hold.queued0 else s.hold.queued1
def setRetired (s : State) (d : Nat) (l : List Nat) : State :=
  { s with hold := if d = 0 then { s.hold with retired0 := l } else { s.hold with retired1 := l } }
def setQueued (s : State) (d : Nat) (l : List Nat) : State :=
  { s with hold := if d = 0 then { s.hold with queued0 := l } else { s.hold with queued1 := l } }

/-- ERR_RETIRE and HOLD_STATUS follow the lists. -/
def showRetired (s : State) : State :=
  let s := fput (fput s F.errRetireRetired0 s.hold.retired0.length) F.errRetireRetired1 s.hold.retired1.length
  let s := fput (fput s F.errRetireQueued0 s.hold.queued0.length) F.errRetireQueued1 s.hold.queued1.length
  fput (fput s (F.holdStatusRemapUsed 0) s.hold.retired0.length) (F.holdStatusRemapUsed 1) s.hold.retired1.length

/-- A page sent to the retirement pool, once. -/
def retirePage (s : State) (d page : Nat) : State :=
  if (retiredPages s d).contains page then s
  else showRetired (setQueued (setRetired s d (retiredPages s d ++ [page])) d ((queuedPages s d).filter (fun q => decide (q ≠ page))))

/-- The physical Tugs of a die that no applied entry leaves out, in ascending order; the first 64 are its logical Tugs 0 to 63
and the rest are spares (R456). -/
def workingTugs (s : State) (d : Nat) : List Nat :=
  (List.range 68).filter (fun p => !s.sec.repairs.any (fun e => decide (e.kind = 4 ∧ e.die = d ∧ e.unit = p)))

/-- The entries of a kind that apply to a unit of a die. -/
def unitRepairs (s : State) (kind d u : Nat) : Nat :=
  (s.sec.repairs.filter (fun e => decide (e.kind = kind ∧ e.die = d ∧ e.unit = u))).length

/-- A die presents the counts of Table 01-1: 64 Tugs, 8 Cranes with a row and a column to spare, and 64 Berths with their 1,344
spare rows (R21, R273). The GDDR7 devices have been trained in stage 0x1. -/
def countsMet (s : State) (d : Nat) : Bool :=
  decide (64 ≤ (workingTugs s d).length) &&
  (List.range 8).all (fun u => decide (unitRepairs s 1 d u ≤ 1 ∧ unitRepairs s 2 d u ≤ 1)) &&
  (List.range 64).all (fun u => decide (unitRepairs s 3 d u ≤ 1344))

/-- The entry joins those applied, once. -/
def noteRepair (s : State) (e : RepairEntry) : State :=
  if s.sec.repairs.contains e then s else setSec s { s.sec with repairs := s.sec.repairs ++ [e] }

/-- One entry applied (Table 17-8); a Berth row or a Tug left out shows in `repairs` alone. -/
def applyEntry (s : State) (e : RepairEntry) : State :=
  let s := noteRepair s e
  match e.kind with
  | 1 =>
    let c := 8 * e.die + e.unit
    fput (fput (fput s (F.craneRepairRow c) e.index) (F.craneRepairRowEn c) 1) (F.craneStateRepaired c) 1
  | 2 =>
    let c := 8 * e.die + e.unit
    fput (fput (fput s (F.craneRepairCol c) e.index) (F.craneRepairColEn c) 1) (F.craneStateRepaired c) 1
  | 5 => fputBool (fput s (F.quayPortStateLaneOut e.unit) e.index) (F.quayPortStateSpareIn e.unit) (decide (e.index ≠ 8))
  | 6 => retirePage s e.die e.index
  | _ => s

/-- Bytes of a repair entry. -/
def repairEntryBytes (e : RepairEntry) : List Byte :=
  bytesOfNat 1 e.kind ++ bytesOfNat 1 e.die ++ bytesOfNat 2 e.unit ++ bytesOfNat 4 e.index ++ bytesOfNat 8 e.aux

/-- Highest rec_seq of the area. -/
def topSeq (s : State) : Nat :=
  (List.range 512).foldl (fun m i => if slotUsed s i then (if m < (slotRecord s i).seq then (slotRecord s i).seq else m) else m) 0

/-- A record of the module's own, signed by its identity with fresh randomness. -/
def selfRecord (s : State) (es : List RepairEntry) : List Byte :=
  let h := bytesOfNat 4 0x50525859 ++ bytesOfNat 2 1 ++ bytesOfNat 1 1 ++ [0#8] ++ bytesOfNat 8 Config.serial.toNat ++
    bytesOfNat 4 (topSeq s + 1) ++ bytesOfNat 2 es.length
  let body := h ++ List.replicate (64 - h.length) 0#8 ++ es.flatMap repairEntryBytes
  body ++ Config.sigSign identitySecret (freeAt s 0) body

/-- Firmware's record of new faults (R458): written to the next slot, or not kept when the area is full. A record applied
in start-up extends M2 (R450). -/
def writeOneRepair (measured : Bool) (s : State) (es : List RepairEntry) : State :=
  if 512 ≤ usedSlots s then fput s F.secRepairFull 1
  else
    let r := selfRecord s es
    let t := tookFree (fcount (putFlash s (slotBase (usedSlots s)) r) F.secRepairSelfSigned 1) 1
    if measured then extendM t 2 (digest r) else t

/-- New faults recorded, at most 128 entries to a record (R455). -/
def writeRepair (s : State) (es : List RepairEntry) (measured : Bool) : State :=
  ((List.range ((es.length + 127) / 128)).map (fun i => (es.drop (128 * i)).take 128)).foldl (writeOneRepair measured) s

/-- Faults found in operation are written between jobs. -/
def writeFound (s : State) : State :=
  if betweenJobs s then writeRepair (setSec s { s.sec with found := [] }) s.sec.found false else s

/-- A lane left out during operation: its repair entry names the engine fitted (Table 17-8). -/
def foundLane (s : State) (p lane : Nat) : State :=
  let e : RepairEntry := ⟨5, p / 16, p, lane, (Tab.get 0 s.sec.engineSerial (p / 4)).toNat⟩
  writeFound (setSec s { s.sec with found := s.sec.found ++ [e] })

/-- The serials of the engines fitted. -/
def readSerials (s : State) (l : List Nat) : State :=
  setSec s { s.sec with engineSerial := Tab.build 0 8 (fun e => BitVec.ofNat 64 (l.getD e 0)) }

/-- The lane that accepted records leave out of a port of an engine with a serial; lane 8, the spare, when none does (R303,
R457). -/
def recordedLane (s : State) (p serial : Nat) : Nat :=
  match ((acceptedRecords s).flatMap (·.entries)).find? (fun e => decide (e.kind = 5 ∧ e.unit = p ∧ e.aux = serial)) with
  | some e => e.index
  | none => 8

/-- An engine fitted in service: its serial read and the lanes of its ports set. -/
def fitEngine (s : State) (e : Nat) (serial : Word) : State :=
  let s := setSec s { s.sec with engineSerial := Tab.set 0 s.sec.engineSerial e serial }
  (List.range 4).foldl (fun s i =>
    let p := 4 * e + i
    let l := recordedLane s p serial.toNat
    fputBool (fput s (F.quayPortStateLaneOut p) l) (F.quayPortStateSpareIn p) (decide (l ≠ 8))) s

/-! The stages of Table 17-4. -/

/-- Stage 0x1: every GDDR7 device trained. -/
def bootHold (s : State) (o : BootObs) : State :=
  let s := fput (fput s (F.holdStatusDevOk 0) o.gddr0) (F.holdStatusDevOk 1) o.gddr1
  if o.gddr0 = 18 ∧ o.gddr1 = 18 then setBootStage s 2 else failBoot s 3

/-- Stage 0x2: repair records verified and combined; no subset is applied when a spare capacity is exceeded. -/
def bootRepairs (s : State) (o : BootObs) : State :=
  let rs := acceptedRecords s
  let es := combined o.engines rs
  let s := readSerials (fput s F.secRepairRejected (usedSlots s - rs.length)) o.engines
  if overSpare es then failBoot s 4
  else
    let s := rs.foldl (fun s r => extendM s 2 (digest r.bytes)) s
    setBootStage (es.foldl applyEntry (fput s F.secRepairApplied rs.length)) 3

/-- Stage 0x3: the self-test's new faults written and applied, and the counts checked. -/
def bootSelfTest (s : State) (o : BootObs) : State :=
  let s := writeRepair s o.faults true
  let s := o.faults.foldl applyEntry s
  if countsMet s 0 && countsMet s 1 then setBootStage s 4 else failBoot s 5

/-- Stage 0x4. -/
def bootIdentity (s : State) : State :=
  let s := setSec s { s.sec with identKey := identityKey }
  if identityOk s then setBootStage s 5 else failBoot s 6

/-- A firmware thread starts where the runtime says; the first of a core owns it and the others are READY (R70). -/
def startFirmware (s : State) (t n : Nat) : State :=
  setThread s t { st := if t % 4 = 0 then .run else .ready, fw := true, pc := freeAt s n &&& ~~~3#64 }

/-- The 8 firmware threads: those of logical Tug 0 of each die (R66). -/
def firmwareThreads : List Nat := [0, 1, 2, 3, 256, 257, 258, 259]

/-- Every firmware thread started; where each begins is the runtime's. DESIGN CHOICE, assumption 57. -/
def startRuntime (s : State) : State :=
  tookFree (firmwareThreads.foldl (fun t n => startFirmware t n (n % 4 + n / 256 * 4)) s) 8

/-- Stage 0x5: the runtime verified, measured and started on logical Tug 0 of each die. -/
def bootRuntime (s : State) : State :=
  match s.sec.running with
  | none => failBoot s 1
  | some b =>
    if runtimeOk (flashBundle s b.bank) then
      let s := fput (extendM s 1 b.rtDigest) F.secArbSvn b.svn
      setBootStage (startRuntime s) 6
    else failBoot s 1

/-! The hall record (R460). -/

/-- A group's staged registers checked by firmware and, on a pass, armed for the first hold boundary that R60 allows; the
answer is 0 or the failure code. -/
def firmwareCommit (s : State) (groups : BitVec 5) : State × Nat :=
  let t := finishCheck (startCheck s .fw groups)
  if stageState t = 2 then
    (armStage (fput t F.tideCommitAtCommitNs ((s.tide.now + 16384 + 16383) / 16384 * 16384)) .fw, 0)
  else (t, fget t F.tideStageStatusFailCode)

/-- Firmware's shadow write of a whole register. -/
def stageReg (s : State) (x v : Nat) : State := writeShadow s x v (2 ^ 64 - 1)

/-- The registers of a hall record staged. -/
def stageHall (s : State) (r : List Byte) : State :=
  let s := stageReg (stageReg (stageReg s 0x600308 (at_ r 8 8)) 0x600300 (at_ r 0x10 8)) 0x100010 (at_ r 0x18 8)
  (List.range 32).foldl (fun s n => stageReg s (0x600200 + 8 * n) (at_ r (0x20 + 8 * n) 8)) s

/-- A hall record's header. -/
def hallForm (r : List Byte) : Bool := decide (r.length = 288 ∧ at_ r 0 4 = 0x4C485859 ∧ at_ r 4 2 = 1 ∧ at_ r 6 2 = 0)

/-- The routing and clock steering groups of a record committed, and M3 extended (R450); the answer as `firmwareCommit`. -/
def commitHall (s : State) (r : List Byte) : State × Nat :=
  let (t, c) := firmwareCommit (stageHall s r) 9#5
  if c = 0 then (extendM t 3 (digest r), 0) else (t, c)

/-- Offset of the configuration area. -/
def configArea : Nat := 0x7000000

/-- Stage 0x6, then 0x7: the power stage log copied (R426) and the stored hall record committed. -/
def bootReady (s : State) : State :=
  let s := fput (fput s F.pwrFaultLastCause (s.sec.faultLog.headD 0)) F.pwrFaultLastCount s.sec.faultLog.length
  let s := setBootStage (writeBytes s launchArea (List.replicate 0x10000 0#8)) 7
  let r := flashBytes s configArea 288
  let s := writeStatus s
  if hallForm r then (commitHall s r).1 else s

/-- A stage completes or fails (R443). -/
def runBoot (s : State) (o : BootObs) : State :=
  match bootStageOf s with
  | 0 => bootRom s
  | 1 => bootHold s o
  | 2 => bootRepairs s o
  | 3 => bootSelfTest s o
  | 4 => bootIdentity s
  | 5 => bootRuntime s
  | _ => bootReady s

/-- The phase that a stage's work needs (Tables 17-3 and 17-4). -/
def stagePhase (st : Nat) : Nat := if st = 0 then 1 else if st ≤ 5 then 4 else 8

def execBootStage (o : BootObs) (s : State) : Out :=
  whenever (s.tide.running && !s.sec.halted && decide (bootStageOf s < 7) && decide (stagePhase (bootStageOf s) ≤ s.sec.phase) &&
      decide (pwrState s < 4))
    (runBoot s o) s

/-- Firmware blows fuses up to the running svn, after the first launch commit of an advancing bundle (R449). -/
def execFuseAdvance (s : State) : Out :=
  match s.sec.running with
  | none => turnedAway s
  | some b =>
    whenever (s.sec.advancePending && b.advance && decide (fuseCount s < b.svn))
      (setSec s { s.sec with blown := b.svn - Config.fusedCount, advancePending := false }) s

end Sys2Proof.Machine
end

