-- ==== Sys2Proof/Machine/Hold.lean ====
section
/-! DEFINITION. Upkeep of the Hold by firmware: the patrol scrub and the retirement of pages (R278, R279, R374, R458). -/

namespace Sys2Proof.Machine

/-- Firmware runs: the runtime has started and the module is powered (R443). -/
def firmwareUp (s : State) : Bool := decide (6 ≤ bootStageOf s) && !s.sec.halted && decide (pwrState s < 4)

/-- Lines of 128 bytes in a die's portion of the Hold. -/
def holdLines : Nat := 0x24000000

/-- Line numbers that exist in a die's portion. -/
def inPortion (l : List Nat) : List Nat := l.filter (fun x => decide (x < holdLines))

/-- The page of a line of the portion. -/
def pageOfLine (l : Nat) : Nat := l / 32

def correctedPages (s : State) (d : Nat) : List Nat := if d = 0 then s.hold.corrected0 else s.hold.corrected1
def setCorrected (s : State) (d : Nat) (l : List Nat) : State :=
  { s with hold := if d = 0 then { s.hold with corrected0 := l } else { s.hold with corrected1 := l } }

/-- A page reported two corrected errors within 24 h: both in this pass, or one in this and one in the pass before when a
pass takes no more than 24 h. -/
def twiceCorrected (s : State) (d : Nat) (now : List Nat) (p : Nat) : Bool :=
  decide (2 ≤ now.count p) ||
    (now.contains p && (correctedPages s d).contains p && decide (fget s (F.holdScrubPeriodH d) ≤ 24))

/-- Pages added to a die's queue, once, unless retired already. -/
def queuePages (s : State) (d : Nat) : List Nat → State
  | [] => showRetired s
  | p :: rest =>
    queuePages (if (queuedPages s d).contains p || (retiredPages s d).contains p then s
      else setQueued s d (queuedPages s d ++ [p])) d rest

/-- A pass over a die's portion that corrected errors in some lines and could not in others, lines numbered within it. -/
def scrub (s : State) (d : Nat) (cor unc : List Nat) : State :=
  let pages := cor.map pageOfLine
  let worn := unc.map pageOfLine ++ pages.filter (twiceCorrected s d pages)
  let s := correctedN (fcount (fcount (fcount s (F.holdScrubPasses d) 1) (F.errMemHoldCorr d) cor.length)
    (F.errMemHoldUnc d) unc.length) cor.length
  let s := setPoisonLines s (unc.map (fun l => lineOf (holdBase + d * 0x1200000000) + l)) true
  setCorrected (queuePages s d worn) d pages

def execPatrolScrub (die : Die) (cor unc : List Nat) (s : State) : Out :=
  whenever (firmwareUp s) (scrub s die.val (inPortion cor) (inPortion unc)) s

/-! Berth rows that wear out (R458). -/

/-- The repair entry of the Berth row at an address (Table 17-8). -/
def rowEntry (a : Nat) : RepairEntry := ⟨3, a / 0x20000000, a % 0x20000000 / 0x800000, a % 0x800000 / 128, 0⟩

/-- The row is a new fault: its entry is recorded between jobs and takes effect at the next start-up. -/
def wornRow (s : State) (a : Nat) : State :=
  if s.sec.rowsWorn.contains (lineOf a) || s.sec.repairs.contains (rowEntry a) then s
  else writeFound (setSec s { s.sec with rowsWorn := s.sec.rowsWorn ++ [lineOf a], found := s.sec.found ++ [rowEntry a] })

/-- 24 h in Tide ns. -/
def dayNs : Nat := 86400000000000

/-- The row has returned a corrected word: a second one within 24 h is a fault. -/
def correctedRow (s : State) (a : Nat) : State :=
  if s.sec.rowsCorrected.any (fun x => decide (x.1 = lineOf a ∧ s.tide.now ≤ x.2 + dayNs)) then wornRow s a
  else setSec s { s.sec with
    rowsCorrected := (lineOf a, s.tide.now) :: s.sec.rowsCorrected.filter (fun x => decide (x.1 ≠ lineOf a)) }

/-- ERR_WHSE and ERR_WHSE_UNC of a port (Table 14-10). -/
def whseCorr (p : Nat) : Field :=
  if p = 0 then F.errWhseCorr0 else if p = 1 then F.errWhseCorr1 else if p = 2 then F.errWhseCorr2 else F.errWhseCorr3
def whseUnc (p : Nat) : Field :=
  if p = 0 then F.errWhseUncUnc0 else if p = 1 then F.errWhseUncUnc1 else if p = 2 then F.errWhseUncUnc2 else F.errWhseUncUnc3

/-- An error that a read meets (R273, R279, R374): counted, and what cannot be corrected or transferred poisons the line. A page of
the Hold that reports an error that cannot be corrected, or a second corrected one since the pass before, is queued. -/
def meetError (s : State) (e : MemErr) : State :=
  let a := e.addr.toNat
  let d := homeDie s a
  let page := (a - (holdBase + d * 0x1200000000)) / 4096
  let poison := fun (t : State) => setPoisonLines t [lineOf a] true
  match windowOf a, e.kind with
  | .berth, .corrected => correctedRow (corrected (fcount s (F.errMemBerthCorr d) 1)) a
  | .berth, .uncorrectable => poison (wornRow (fcount s (F.errMemBerthUnc d) 1) a)
  | .hold, .corrected =>
    let t := corrected (fcount s (F.errMemHoldCorr d) 1)
    if (correctedPages s d).contains page then queuePages t d [page] else setCorrected t d (correctedPages s d ++ [page])
  | .hold, .replayed n => correctedN (fcount s (F.errMemHoldCorr d) (n.val + 1)) (n.val + 1)
  | .hold, .uncorrectable => queuePages (poison (fcount s (F.errMemHoldUnc d) 1)) d [page]
  | .hold, .replaysFailed => poison (fcount (correctedN (fcount s (F.errMemHoldCorr d) 4) 4) (F.errMemHoldUnc d) 1)
  | .whse, .corrected => corrected (fcount s (whseCorr (whsePortOf s a)) 1)
  | .whse, .uncorrectable => poison (fcount s (whseUnc (whsePortOf s a)) 1)
  | _, _ => s

/-- The errors that a read meets where memory is populated. -/
def meetErrors (s : State) (errs : List MemErr) : State :=
  (errs.filter (fun e => populated s e.addr.toNat)).foldl meetError s

/-- First page of a die's portion in the device address space. -/
def firstPage (d : Nat) : Nat := holdPageAddr d 0 / 4096

/-- The page lies in the die's portion and outside the retirement pool. -/
def mayRetire (d page : Nat) : Bool := decide (firstPage d ≤ page ∧ page < firstPage d + 0x11F0000)

/-- The spare page that entry k of a die's remap table sends its page to: the pool is the last 256 MiB of the die's portion. -/
def sparePage (d k : Nat) : Nat := holdPageAddr d (0x1200000 - 0x10000 + k)

/-- A page goes to a spare page of the pool and reads as that page does from then on; the entry is also written as a repair
record. The pool's pages are used in order, and a later access to the spare page at its own address is not shown as one to the
retired page (DESIGN CHOICE, assumption 84). -/
def remapPage (s : State) (d p : Nat) : State :=
  let s := writeBytes (retirePage s d p) (holdPageAddr d p) (readBytes s (sparePage d (retiredPages s d).length) 4096)
  writeRepair s [⟨6, d, 0, p, 0⟩] false

/-- The page may be retired now: between jobs, not retired yet, and with an entry of the table free. -/
def canRemap (s : State) (d page : Nat) : Bool :=
  mayRetire d page && betweenJobs s && decide ((retiredPages s d).length < 4096) &&
    !(retiredPages s d).contains (page - firstPage d)

/-- HOLD_REMAP written with go. -/
def writeRemap (s : State) (d page : Nat) : State :=
  let t := fput (fput s (F.holdRemapPage d) page) (F.holdRemapGo d) 1
  if canRemap s d page then remapPage t d (page - firstPage d) else t

def execHoldRemap (die : Die) (page : BitVec 36) (s : State) : Out := .next (writeRemap s die.val page.toNat)

end Sys2Proof.Machine
end

