-- ==== Sys2Proof/Machine/TugAlu.lean ====
section
/-! DEFINITION. The integer instructions (Tables 03-6 and 03-7, R79) and illegal instructions (R102). -/

namespace Sys2Proof.Machine

/-! Illegal instructions. -/

def tugFaultFields (d : Nat) : List Field :=
  [F.tugFaultPc d, F.tugFaultTug d, F.tugFaultThread d, F.tugFaultCause d, F.tugFaultValid d]

/-- TUG_FAULT captures the thread, its program counter and the cause, if it is not already valid (R102). -/
def captureIllegal (s : State) (t cause : Nat) : State :=
  let d := dieOfThread t
  if flag s (F.tugFaultValid d) then s
  else
    fput (fput (fput (fput (fput s (F.tugFaultPc d) (thread s t).pc.toNat) (F.tugFaultTug d) (tugOf t % 64))
      (F.tugFaultThread d) (t % 4)) (F.tugFaultCause d) cause) (F.tugFaultValid d) 1

/-- An illegal instruction parks its thread; a firmware thread's is also an error event with source 0x32 (Table 14-2). -/
def illegal (s : State) (t cause : Nat) : State :=
  let s' := park (captureIllegal s t cause) t
  if (thread s t).fw then fatal s' 0x32 (dieOfThread t) (tugOf t % 64) else s'

def causeCode : IllCause → Nat
  | .reserved => 1
  | .zeroWord => 2
  | .fetchDenied => 3

/-- Firmware's fetch from an address that is not populated counts as an access outside the windows (R270). -/
def countFetch (s : State) (t : Nat) : State :=
  let a := (thread s t).pc.toNat
  if (thread s t).fw && !decide (windowOf a = .control) && !populatedRange s a 4 then countNowin s else s

/-- The fetched word is illegal, or the fetch was not permitted (R76, R100, R102). -/
def execIll (t : Tid) (cause : IllCause) (s : State) : Out :=
  fetching (.ill t cause) t (fun s => .next (illegal (countFetch s t.val) t.val (causeCode cause))) s

/-! Integer operations of three registers. -/

/-- rd takes a function of ra and rb. -/
def alu2 (t : Tid) (rd ra rb : RegIx) (f : Word → Word → Word) (s : State) : Out :=
  issueWith t.val [ra.val, rb.val] [] (fun s => retire (setG s t.val rd.val (f (g s t.val ra.val) (g s t.val rb.val))) t.val) s

/-- rd takes a function of ra. -/
def alu1 (t : Tid) (rd ra : RegIx) (f : Word → Word) (s : State) : Out :=
  issueWith t.val [ra.val] [] (fun s => retire (setG s t.val rd.val (f (g s t.val ra.val))) t.val) s

def ofFlag (b : Bool) : Word := if b then 1 else 0

/-- Quotient rounded toward zero; all ones for a zero divisor, and −2⁶³ / −1 wraps (R79). -/
def divSigned (a b : Word) : Word := if b = 0 then BitVec.allOnes 64 else a.sdiv b
/-- Remainder; the dividend for a zero divisor (R79). -/
def remSigned (a b : Word) : Word := if b = 0 then a else a.srem b

def execAdd (t : Tid) (rd ra rb : RegIx) (s : State) : Out :=
  fetching (.add t rd ra rb) t (alu2 t rd ra rb (fun a b => a + b)) s
def execSub (t : Tid) (rd ra rb : RegIx) (s : State) : Out :=
  fetching (.sub t rd ra rb) t (alu2 t rd ra rb (fun a b => a - b)) s
def execAnd (t : Tid) (rd ra rb : RegIx) (s : State) : Out :=
  fetching (.and t rd ra rb) t (alu2 t rd ra rb (fun a b => a &&& b)) s
def execOr (t : Tid) (rd ra rb : RegIx) (s : State) : Out :=
  fetching (.or t rd ra rb) t (alu2 t rd ra rb (fun a b => a ||| b)) s
def execXor (t : Tid) (rd ra rb : RegIx) (s : State) : Out :=
  fetching (.xor t rd ra rb) t (alu2 t rd ra rb (fun a b => a ^^^ b)) s
def execSll (t : Tid) (rd ra rb : RegIx) (s : State) : Out :=
  fetching (.sll t rd ra rb) t (alu2 t rd ra rb (fun a b => a <<< (b.toNat % 64))) s
def execSrl (t : Tid) (rd ra rb : RegIx) (s : State) : Out :=
  fetching (.srl t rd ra rb) t (alu2 t rd ra rb (fun a b => a >>> (b.toNat % 64))) s
def execSra (t : Tid) (rd ra rb : RegIx) (s : State) : Out :=
  fetching (.sra t rd ra rb) t (alu2 t rd ra rb (fun a b => a.sshiftRight (b.toNat % 64))) s
def execSlt (t : Tid) (rd ra rb : RegIx) (s : State) : Out :=
  fetching (.slt t rd ra rb) t (alu2 t rd ra rb (fun a b => ofFlag (a.slt b))) s
def execSltu (t : Tid) (rd ra rb : RegIx) (s : State) : Out :=
  fetching (.sltu t rd ra rb) t (alu2 t rd ra rb (fun a b => ofFlag (a.ult b))) s
def execMin (t : Tid) (rd ra rb : RegIx) (s : State) : Out :=
  fetching (.min t rd ra rb) t (alu2 t rd ra rb (fun a b => if a.slt b then a else b)) s
def execMax (t : Tid) (rd ra rb : RegIx) (s : State) : Out :=
  fetching (.max t rd ra rb) t (alu2 t rd ra rb (fun a b => if a.slt b then b else a)) s
def execMinu (t : Tid) (rd ra rb : RegIx) (s : State) : Out :=
  fetching (.minu t rd ra rb) t (alu2 t rd ra rb (fun a b => if a.ult b then a else b)) s
def execMaxu (t : Tid) (rd ra rb : RegIx) (s : State) : Out :=
  fetching (.maxu t rd ra rb) t (alu2 t rd ra rb (fun a b => if a.ult b then b else a)) s
def execMul (t : Tid) (rd ra rb : RegIx) (s : State) : Out :=
  fetching (.mul t rd ra rb) t (alu2 t rd ra rb (fun a b => a * b)) s
def execMulh (t : Tid) (rd ra rb : RegIx) (s : State) : Out :=
  fetching (.mulh t rd ra rb) t (alu2 t rd ra rb (fun a b => (a.signExtend 128 * b.signExtend 128).extractLsb' 64 64)) s
def execMulhu (t : Tid) (rd ra rb : RegIx) (s : State) : Out :=
  fetching (.mulhu t rd ra rb) t (alu2 t rd ra rb (fun a b => (a.zeroExtend 128 * b.zeroExtend 128).extractLsb' 64 64)) s
def execDiv (t : Tid) (rd ra rb : RegIx) (s : State) : Out :=
  fetching (.div t rd ra rb) t (alu2 t rd ra rb (fun a b => divSigned a b)) s
def execDivu (t : Tid) (rd ra rb : RegIx) (s : State) : Out :=
  fetching (.divu t rd ra rb) t (alu2 t rd ra rb (fun a b => if b = 0 then BitVec.allOnes 64 else a / b)) s
def execRem (t : Tid) (rd ra rb : RegIx) (s : State) : Out :=
  fetching (.rem t rd ra rb) t (alu2 t rd ra rb (fun a b => remSigned a b)) s
def execRemu (t : Tid) (rd ra rb : RegIx) (s : State) : Out :=
  fetching (.remu t rd ra rb) t (alu2 t rd ra rb (fun a b => if b = 0 then a else a % b)) s
def execAddw (t : Tid) (rd ra rb : RegIx) (s : State) : Out :=
  fetching (.addw t rd ra rb) t (alu2 t rd ra rb (fun a b => ((a + b).setWidth 32).signExtend 64)) s
def execSubw (t : Tid) (rd ra rb : RegIx) (s : State) : Out :=
  fetching (.subw t rd ra rb) t (alu2 t rd ra rb (fun a b => ((a - b).setWidth 32).signExtend 64)) s

/-! Bit counts. -/

/-- Leading zeros, 0 to 64. -/
def leadingZeros (a : Word) : Nat := if a = 0 then 64 else 63 - Nat.log2 a.toNat
/-- Trailing zeros, 0 to 64: the leading zeros of the lowest set bit, counted from below. -/
def trailingZeros (a : Word) : Nat := if a = 0 then 64 else Nat.log2 (a &&& (0 - a)).toNat
/-- One bits. -/
def oneBits (a : Word) : Nat := ((List.range 64).filter (fun i => a.getLsbD i)).length

def execClz (t : Tid) (rd ra : RegIx) (s : State) : Out :=
  fetching (.clz t rd ra) t (alu1 t rd ra (fun a => BitVec.ofNat 64 (leadingZeros a))) s
def execCtz (t : Tid) (rd ra : RegIx) (s : State) : Out :=
  fetching (.ctz t rd ra) t (alu1 t rd ra (fun a => BitVec.ofNat 64 (trailingZeros a))) s
def execPopc (t : Tid) (rd ra : RegIx) (s : State) : Out :=
  fetching (.popc t rd ra) t (alu1 t rd ra (fun a => BitVec.ofNat 64 (oneBits a))) s

/-! Immediate operations (Table 03-6). -/

def execAddi (t : Tid) (rd ra : RegIx) (imm : BitVec 16) (s : State) : Out :=
  fetching (.addi t rd ra imm) t (alu1 t rd ra (fun a => a + sext16 imm)) s
def execAndi (t : Tid) (rd ra : RegIx) (imm : BitVec 16) (s : State) : Out :=
  fetching (.andi t rd ra imm) t (alu1 t rd ra (fun a => a &&& zext16 imm)) s
def execOri (t : Tid) (rd ra : RegIx) (imm : BitVec 16) (s : State) : Out :=
  fetching (.ori t rd ra imm) t (alu1 t rd ra (fun a => a ||| zext16 imm)) s
def execXori (t : Tid) (rd ra : RegIx) (imm : BitVec 16) (s : State) : Out :=
  fetching (.xori t rd ra imm) t (alu1 t rd ra (fun a => a ^^^ zext16 imm)) s
def execSlti (t : Tid) (rd ra : RegIx) (imm : BitVec 16) (s : State) : Out :=
  fetching (.slti t rd ra imm) t (alu1 t rd ra (fun a => ofFlag (a.slt (sext16 imm)))) s
def execLui (t : Tid) (rd : RegIx) (imm : BitVec 16) (s : State) : Out :=
  fetching (.lui t rd imm) t (issueWith t.val [] [] (fun s => retire (setG s t.val rd.val ((imm ++ 0#16).signExtend 64)) t.val)) s
def execLsh16 (t : Tid) (rd ra : RegIx) (imm : BitVec 16) (s : State) : Out :=
  fetching (.lsh16 t rd ra imm) t (alu1 t rd ra (fun a => (a <<< 16) ||| zext16 imm)) s

/-- The shift kind of shi: bits [7:6] of the immediate. -/
def shiKind (imm : BitVec 16) : Nat := imm.toNat / 64 % 4
/-- shi is illegal with kind 3 or with any of bits [15:8] set (Table 03-6). -/
def shiIllegal (imm : BitVec 16) : Bool := decide (shiKind imm = 3) || decide (256 ≤ imm.toNat)

def shiOp (imm : BitVec 16) (a : Word) : Word :=
  if shiKind imm = 0 then a <<< (imm.toNat % 64)
  else if shiKind imm = 1 then a >>> (imm.toNat % 64)
  else a.sshiftRight (imm.toNat % 64)

def execShi (t : Tid) (rd ra : RegIx) (imm : BitVec 16) (s : State) : Out :=
  fetching (.shi t rd ra imm) t (fun s =>
    if shiIllegal imm then whenever (mayIssue s t.val) (illegal s t.val 1) s else alu1 t rd ra (shiOp imm) s) s

/-! Branches and jumps (R76, Table 03-6). -/

/-- Target of a branch: its address plus four times the offset. -/
def branchTarget (pc : Word) (imm : BitVec 16) : Word := pc + (sext16 imm <<< 2)
def jumpTarget (pc : Word) (imm : BitVec 26) : Word := pc + ((imm.signExtend 64) <<< 2)

/-- A branch taken where the comparison holds. -/
def branchIf (t : Tid) (ra rb : RegIx) (imm : BitVec 16) (c : Word → Word → Bool) (s : State) : Out :=
  issueWith t.val [ra.val, rb.val] [] (fun s =>
    retireTo s t.val (if c (g s t.val ra.val) (g s t.val rb.val) then branchTarget (thread s t.val).pc imm
      else (thread s t.val).pc + 4)) s

def execBeq (t : Tid) (ra rb : RegIx) (imm : BitVec 16) (s : State) : Out :=
  fetching (.beq t ra rb imm) t (branchIf t ra rb imm (fun a b => decide (a = b))) s
def execBne (t : Tid) (ra rb : RegIx) (imm : BitVec 16) (s : State) : Out :=
  fetching (.bne t ra rb imm) t (branchIf t ra rb imm (fun a b => decide (a ≠ b))) s
def execBlt (t : Tid) (ra rb : RegIx) (imm : BitVec 16) (s : State) : Out :=
  fetching (.blt t ra rb imm) t (branchIf t ra rb imm (fun a b => a.slt b)) s
def execBge (t : Tid) (ra rb : RegIx) (imm : BitVec 16) (s : State) : Out :=
  fetching (.bge t ra rb imm) t (branchIf t ra rb imm (fun a b => !a.slt b)) s
def execBltu (t : Tid) (ra rb : RegIx) (imm : BitVec 16) (s : State) : Out :=
  fetching (.bltu t ra rb imm) t (branchIf t ra rb imm (fun a b => a.ult b)) s
def execBgeu (t : Tid) (ra rb : RegIx) (imm : BitVec 16) (s : State) : Out :=
  fetching (.bgeu t ra rb imm) t (branchIf t ra rb imm (fun a b => !a.ult b)) s

def execJ (t : Tid) (imm : BitVec 26) (s : State) : Out :=
  fetching (.j t imm) t (issueWith t.val [] [] (fun s => retireTo s t.val (jumpTarget (thread s t.val).pc imm))) s

/-- jal writes its link address to g31. -/
def execJal (t : Tid) (imm : BitVec 26) (s : State) : Out :=
  fetching (.jal t imm) t (fun s =>
    issueWith t.val [] [] (fun s =>
      retireTo (setG s t.val 31 ((thread s t.val).pc + 4)) t.val (jumpTarget (thread s t.val).pc imm)) s) s

/-- jalr reads ra before it writes rd, and clears bits [1:0] of the target. -/
def execJalr (t : Tid) (rd ra : RegIx) (imm : BitVec 16) (s : State) : Out :=
  fetching (.jalr t rd ra imm) t (fun s =>
    issueWith t.val [ra.val] [] (fun s =>
      retireTo (setG s t.val rd.val ((thread s t.val).pc + 4)) t.val ((g s t.val ra.val + sext16 imm) &&& ~~~3#64)) s) s

end Sys2Proof.Machine
end

