-- ==== Sys2Proof/Machine/TugFp.lean ====
section
/-! DEFINITION. Scalar floating point (Table 03-9, R81, R82): every result rounds to nearest even. -/

namespace Sys2Proof.Machine

/-- The value of a register as a scalar of a size: binary64, or binary32 in bits [31:0]. -/
def fpRead (sz : FSize) (w : Word) : Num :=
  match sz with
  | .d => dec64 w
  | .s => dec32 (w.setWidth 32)

/-- The register bits of a scalar result; a binary32 leaves bits [63:32] zero. -/
def fpBits (sz : FSize) (x : Num) : Word :=
  match sz with
  | .d => enc64 x
  | .s => (enc32 x).setWidth 64

def fpFmt : FSize → Fmt
  | .d => f64
  | .s => f32

/-- rd and FSTAT take a result and its flags. -/
def fpFinish (s : State) (t rd : Nat) (bits : Word) (fl : BitVec 4) : State := retire (orFstat (setG s t rd bits) t fl) t

/-- An arithmetic operation of ra and rb. -/
def fp2 (t : Tid) (sz : FSize) (rd ra rb : RegIx) (f : Fmt → Num → Num → Num × BitVec 4) (s : State) : Out :=
  issueWith t.val [ra.val, rb.val] [] (fun s =>
    let r := f (fpFmt sz) (fpRead sz (g s t.val ra.val)) (fpRead sz (g s t.val rb.val))
    fpFinish s t.val rd.val (fpBits sz r.1) r.2) s

def execFadd (t : Tid) (sz : FSize) (rd ra rb : RegIx) (s : State) : Out :=
  fetching (.fadd t sz rd ra rb) t (fp2 t sz rd ra rb tugAdd) s
def execFsub (t : Tid) (sz : FSize) (rd ra rb : RegIx) (s : State) : Out :=
  fetching (.fsub t sz rd ra rb) t (fp2 t sz rd ra rb tugSub) s
def execFmul (t : Tid) (sz : FSize) (rd ra rb : RegIx) (s : State) : Out :=
  fetching (.fmul t sz rd ra rb) t (fp2 t sz rd ra rb tugMul) s
def execFdiv (t : Tid) (sz : FSize) (rd ra rb : RegIx) (s : State) : Out :=
  fetching (.fdiv t sz rd ra rb) t (fp2 t sz rd ra rb tugDiv) s
def execFmin (t : Tid) (sz : FSize) (rd ra rb : RegIx) (s : State) : Out :=
  fetching (.fmin t sz rd ra rb) t (fp2 t sz rd ra rb (fun _ a b => (nmin a b, 0))) s
def execFmax (t : Tid) (sz : FSize) (rd ra rb : RegIx) (s : State) : Out :=
  fetching (.fmax t sz rd ra rb) t (fp2 t sz rd ra rb (fun _ a b => (nmax a b, 0))) s

def execFsqrt (t : Tid) (sz : FSize) (rd ra : RegIx) (s : State) : Out :=
  fetching (.fsqrt t sz rd ra) t (fun s =>
    issueWith t.val [ra.val] [] (fun s =>
      let r := tugSqrt (fpFmt sz) (fpRead sz (g s t.val ra.val))
      fpFinish s t.val rd.val (fpBits sz r.1) r.2) s) s

/-- rd + ra × rb with one rounding; rd is a source too. -/
def execFmadd (t : Tid) (sz : FSize) (rd ra rb : RegIx) (s : State) : Out :=
  fetching (.fmadd t sz rd ra rb) t (fun s =>
    issueWith t.val [rd.val, ra.val, rb.val] [] (fun s =>
      let r := tugFma (fpFmt sz) (fpRead sz (g s t.val rd.val)) (fpRead sz (g s t.val ra.val)) (fpRead sz (g s t.val rb.val))
      fpFinish s t.val rd.val (fpBits sz r.1) r.2) s) s

/-- A conversion of ra. -/
def fpConvert (t : Tid) (rd ra : RegIx) (f : Word → Word × BitVec 4) (s : State) : Out :=
  issueWith t.val [ra.val] [] (fun s => fpFinish s t.val rd.val (f (g s t.val ra.val)).1 (f (g s t.val ra.val)).2) s

def execFcvtSD (t : Tid) (rd ra : RegIx) (s : State) : Out :=
  fetching (.fcvtSD t rd ra) t (fpConvert t rd ra (fun w => let r := tugRound f32 (dec64 w); ((enc32 r.1).setWidth 64, r.2))) s
def execFcvtDS (t : Tid) (rd ra : RegIx) (s : State) : Out :=
  fetching (.fcvtDS t rd ra) t (fpConvert t rd ra (fun w => let r := tugRound f64 (dec32 (w.setWidth 32)); (enc64 r.1, r.2))) s
def execFcvtLD (t : Tid) (rd ra : RegIx) (s : State) : Out :=
  fetching (.fcvtLD t rd ra) t (fpConvert t rd ra (fun w => let r := toSigned 64 (dec64 w); (BitVec.ofInt 64 r.1, r.2))) s
def execFcvtDL (t : Tid) (rd ra : RegIx) (s : State) : Out :=
  fetching (.fcvtDL t rd ra) t (fpConvert t rd ra (fun w => let r := tugRound f64 (numOfInt w.toInt); (enc64 r.1, r.2))) s
def execFcvtBfS (t : Tid) (rd ra : RegIx) (s : State) : Out :=
  fetching (.fcvtBfS t rd ra) t (fpConvert t rd ra (fun w => let r := tugRound bf16 (dec32 (w.setWidth 32)); ((encBf r.1).setWidth 64, r.2))) s

/-- A binary64 comparison. -/
def fpCompare (t : Tid) (rd ra rb : RegIx) (f : Num → Num → Bool × BitVec 4) (s : State) : Out :=
  issueWith t.val [ra.val, rb.val] [] (fun s =>
    let r := f (dec64 (g s t.val ra.val)) (dec64 (g s t.val rb.val))
    fpFinish s t.val rd.val (ofFlag r.1) r.2) s

def execFeqD (t : Tid) (rd ra rb : RegIx) (s : State) : Out :=
  fetching (.feqD t rd ra rb) t (fpCompare t rd ra rb (fun a b => (neq a b, 0))) s
def execFltD (t : Tid) (rd ra rb : RegIx) (s : State) : Out :=
  fetching (.fltD t rd ra rb) t (fpCompare t rd ra rb (tugLess false)) s
def execFleD (t : Tid) (rd ra rb : RegIx) (s : State) : Out :=
  fetching (.fleD t rd ra rb) t (fpCompare t rd ra rb (tugLess true)) s

end Sys2Proof.Machine
end

