-- ==== Sys2Proof/Machine/TugSimd.lean ====
section
/-! DEFINITION. The SIMD instructions (Table 03-10, R83 to R86). -/

namespace Sys2Proof.Machine

/-- Element i of the second operand: of vb, or the low bits of a g register in every element (R84). -/
def secondElem (s : State) (o : VOp) (w i : Nat) : Nat :=
  if o.sc then (g s o.t.val o.vb.val).toNat % 2 ^ w else elem w (v s o.t.val o.vb.val) i

/-- The registers a SIMD operation reads: the g sources and the v sources beside va. -/
def secondG (o : VOp) : List Nat := if o.sc then [o.vb.val] else []
def secondV (o : VOp) : List Nat := if o.sc then [o.va.val] else [o.va.val, o.vb.val]

def vet (o : VOp) : Nat := o.et.toNat

/-- vd and FSTAT take the elements' results and the union of their flags. -/
def simdFinish (s : State) (o : VOp) (x : VWord) (fl : BitVec 4) : State :=
  retire (orFstat (setV s o.t.val o.vd.val x) o.t.val fl) o.t.val

def unionFlags (rs : List (Nat × BitVec 4)) : BitVec 4 := rs.foldl (fun a r => a ||| r.2) 0

/-- An operation element by element at a width. -/
def simdMap (s : State) (o : VOp) (w : Nat) (f : Nat → Nat × BitVec 4) : State :=
  let rs := (List.range (256 / w)).map f
  simdFinish s o (fromElems w (rs.map (·.1))) (unionFlags rs)

/-- A SIMD instruction that is illegal for some types, with its sources. -/
def simd (o : VOp) (legal : Bool) (gs vs : List Nat) (f : State → State) (s : State) : Out :=
  if legal then issueWith o.t.val gs vs f s else whenever (mayIssue s o.t.val) (illegal s o.t.val 1) s

/-- The element types of the table; 7 is illegal (R83). -/
def anyType (o : VOp) : Bool := decide (vet o ≠ 7)
def floatType (o : VOp) : Bool := decide (4 ≤ vet o ∧ vet o ≤ 6)

def fpElem (et e : Nat) : Num := decode (elemFmt et) e
def fpElemBits (et : Nat) (r : Num × BitVec 4) : Nat × BitVec 4 := (encode (elemFmt et) r.1, r.2)

/-- An operation with an integer form on signed elements and a floating form. -/
def simdArith (o : VOp) (fi : Int → Int → Int) (ff : Fmt → Num → Num → Num × BitVec 4) (s : State) : Out :=
  simd o (anyType o) (secondG o) (secondV o) (fun s =>
    let w := elemBits (vet o)
    simdMap s o w (fun i =>
      let a := elem w (v s o.t.val o.va.val) i
      let b := secondElem s o w i
      if elemFloat (vet o) then fpElemBits (vet o) (ff (elemFmt (vet o)) (fpElem (vet o) a) (fpElem (vet o) b))
      else (toElem w (fi (signedElem w a) (signedElem w b)), 0))) s

def execVadd (o : VOp) (s : State) : Out := fetching (.vadd o) o.t (simdArith o (fun a b => a + b) tugAdd) s
def execVsub (o : VOp) (s : State) : Out := fetching (.vsub o) o.t (simdArith o (fun a b => a - b) tugSub) s
def execVmul (o : VOp) (s : State) : Out := fetching (.vmul o) o.t (simdArith o (fun a b => a * b) tugMul) s
def execVmin (o : VOp) (s : State) : Out :=
  fetching (.vmin o) o.t (simdArith o (fun a b => if a < b then a else b) (fun _ a b => (nmin a b, 0))) s
def execVmax (o : VOp) (s : State) : Out :=
  fetching (.vmax o) o.t (simdArith o (fun a b => if a < b then b else a) (fun _ a b => (nmax a b, 0))) s

/-- vd + va × vb with one rounding; floating types only. -/
def execVfma (o : VOp) (s : State) : Out :=
  fetching (.vfma o) o.t (fun s =>
    simd o (floatType o) (secondG o) (o.vd.val :: secondV o) (fun s =>
      let w := elemBits (vet o)
      simdMap s o w (fun i =>
        fpElemBits (vet o) (tugFma (elemFmt (vet o)) (fpElem (vet o) (elem w (v s o.t.val o.vd.val) i))
          (fpElem (vet o) (elem w (v s o.t.val o.va.val) i)) (fpElem (vet o) (secondElem s o w i))))) s) s

def execVdiv (o : VOp) (s : State) : Out :=
  fetching (.vdiv o) o.t (fun s =>
    simd o (floatType o) (secondG o) (secondV o) (fun s =>
      let w := elemBits (vet o)
      simdMap s o w (fun i =>
        fpElemBits (vet o) (tugDiv (elemFmt (vet o)) (fpElem (vet o) (elem w (v s o.t.val o.va.val) i))
          (fpElem (vet o) (secondElem s o w i))))) s) s

def execVsqrt (o : VOp) (s : State) : Out :=
  fetching (.vsqrt o) o.t (fun s =>
    simd o (floatType o) [] [o.va.val] (fun s =>
      let w := elemBits (vet o)
      simdMap s o w (fun i =>
        fpElemBits (vet o) (tugSqrt (elemFmt (vet o)) (fpElem (vet o) (elem w (v s o.t.val o.va.val) i))))) s) s

/-- A bitwise operation or shift of elements at the type's width. -/
def simdBits (o : VOp) (f : Nat → Nat → Nat → Nat) (s : State) : Out :=
  simd o (anyType o) (secondG o) (secondV o) (fun s =>
    let w := elemBits (vet o)
    simdMap s o w (fun i => (f w (elem w (v s o.t.val o.va.val) i) (secondElem s o w i), 0))) s

def execVand (o : VOp) (s : State) : Out := fetching (.vand o) o.t (simdBits o (fun _ a b => a &&& b)) s
def execVor (o : VOp) (s : State) : Out := fetching (.vor o) o.t (simdBits o (fun _ a b => a ||| b)) s
def execVxor (o : VOp) (s : State) : Out := fetching (.vxor o) o.t (simdBits o (fun _ a b => a ^^^ b)) s
def execVshl (o : VOp) (s : State) : Out := fetching (.vshl o) o.t (simdBits o (fun w a b => a * 2 ^ (b % w) % 2 ^ w)) s
def execVshr (o : VOp) (s : State) : Out := fetching (.vshr o) o.t (simdBits o (fun w a b => a / 2 ^ (b % w))) s
def execVsra (o : VOp) (s : State) : Out :=
  fetching (.vsra o) o.t (simdBits o (fun w a b => toElem w (signedElem w a / ((2 ^ (b % w) : Nat) : Int)))) s

/-- A comparison: all ones if true, else zero. -/
def simdCompare (o : VOp) (fi : Int → Int → Bool) (ff : Num → Num → Bool × BitVec 4) (s : State) : Out :=
  simd o (anyType o) (secondG o) (secondV o) (fun s =>
    let w := elemBits (vet o)
    simdMap s o w (fun i =>
      let a := elem w (v s o.t.val o.va.val) i
      let b := secondElem s o w i
      let r := if elemFloat (vet o) then ff (fpElem (vet o) a) (fpElem (vet o) b)
        else (fi (signedElem w a) (signedElem w b), 0)
      (if r.1 then 2 ^ w - 1 else 0, r.2))) s

def execVceq (o : VOp) (s : State) : Out :=
  fetching (.vceq o) o.t (simdCompare o (fun a b => decide (a = b)) (fun a b => (neq a b, 0))) s
def execVclt (o : VOp) (s : State) : Out :=
  fetching (.vclt o) o.t (simdCompare o (fun a b => decide (a < b)) (tugLess false)) s
def execVcle (o : VOp) (s : State) : Out :=
  fetching (.vcle o) o.t (simdCompare o (fun a b => decide (a ≤ b)) (tugLess true)) s

/-- va where vd's element has bit 0 set, else vb. -/
def execVsel (o : VOp) (s : State) : Out :=
  fetching (.vsel o) o.t (fun s =>
    simd o (anyType o) (secondG o) (o.vd.val :: secondV o) (fun s =>
      let w := elemBits (vet o)
      simdMap s o w (fun i =>
        (if elem w (v s o.t.val o.vd.val) i % 2 = 1 then elem w (v s o.t.val o.va.val) i else secondElem s o w i, 0))) s) s

/-! Reductions (R85): level by level, elements 2k and 2k + 1. -/

/-- One level of the tree. -/
def treeLevel (f : Nat → Nat → Nat × BitVec 4) : List (Nat × BitVec 4) → List (Nat × BitVec 4)
  | a :: b :: rest => ((f a.1 b.1).1, a.2 ||| b.2 ||| (f a.1 b.1).2) :: treeLevel f rest
  | l => l

/-- n levels of the tree; 32 elements take five. -/
def tree (f : Nat → Nat → Nat × BitVec 4) : Nat → List (Nat × BitVec 4) → List (Nat × BitVec 4)
  | 0, l => l
  | n + 1, l => tree f n (treeLevel f l)

/-- A reduction into element 0; `rest` gives the other elements. -/
def simdReduce (o : VOp) (fi : Int → Int → Int) (ff : Fmt → Num → Num → Num × BitVec 4) (rest : VWord → Nat → Nat)
    (s : State) : Out :=
  simd o (anyType o) [] [o.va.val] (fun s =>
    let w := elemBits (vet o)
    let f : Nat → Nat → Nat × BitVec 4 := fun a b =>
      if elemFloat (vet o) then fpElemBits (vet o) (ff (elemFmt (vet o)) (fpElem (vet o) a) (fpElem (vet o) b))
      else (toElem w (fi (signedElem w a) (signedElem w b)), 0)
    let r := tree f 5 ((List.range (256 / w)).map (fun i => (elem w (v s o.t.val o.va.val) i, (0 : BitVec 4))))
    let x := r.headD (0, 0)
    let a := v s o.t.val o.va.val
    simdFinish s o (fromElems w ((List.range (256 / w)).map (fun i => if i = 0 then x.1 else rest a i))) x.2) s

/-- The other elements are zero (Table 03-10). -/
def execVredadd (o : VOp) (s : State) : Out :=
  fetching (.vredadd o) o.t (simdReduce o (fun a b => a + b) tugAdd (fun _ _ => 0)) s
/-- What the other elements hold the table does not say: free functions of va. DESIGN CHOICE, assumption 76. -/
def execVredmax (o : VOp) (s : State) : Out :=
  fetching (.vredmax o) o.t (fun s =>
    simdReduce o (fun a b => if a < b then b else a) (fun _ a b => (nmax a b, 0))
      (fun a i => (Config.vredmaxRest (vet o) a i).toNat % 2 ^ elemBits (vet o)) s) s

/-! Conversions. -/

/-- One element converted between types. An integer that the narrower type cannot hold has no stated result: a free function of
the element, so that the result depends on the values read alone (R105). DESIGN CHOICE, assumption 20. -/
def convertElem (src dst e : Nat) : Nat × BitVec 4 :=
  let w := elemBits dst
  if elemFloat src then
    if elemFloat dst then fpElemBits dst (tugRound (elemFmt dst) (fpElem src e))
    else (toElem w (toSigned w (fpElem src e)).1, (toSigned w (fpElem src e)).2)
  else
    let i := signedElem (elemBits src) e
    if elemFloat dst then fpElemBits dst (tugRound (elemFmt dst) (numOfInt i))
    else if -((2 ^ (w - 1) : Nat) : Int) ≤ i ∧ i < ((2 ^ (w - 1) : Nat) : Int) then (toElem w i, 0)
    else ((Config.vcvtNarrow src dst e).toNat % 2 ^ w, 0)

/-- The source type stands in the low three bits of the vb field. A destination element without a source element has no
stated result: a free function of va. DESIGN CHOICE, assumption 20. -/
def execVcvt (o : VOp) (s : State) : Out :=
  fetching (.vcvt o) o.t (fun s =>
    let src := o.vb.val % 8
    simd o (anyType o && decide (src ≠ 7)) [] [o.va.val] (fun s =>
      let w := elemBits (vet o)
      let a := v s o.t.val o.va.val
      simdMap s o w (fun i =>
        if i < elemCount src then convertElem src (vet o) (elem (elemBits src) a i)
        else ((Config.vcvtBeyond src (vet o) a i).toNat % 2 ^ w, 0))) s) s

/-- A pack of eight binary32 elements divided by the block factor of g[vb][7:0] (R86). -/
def simdPack (o : VOp) (gr : Bool) (mode : State → Word → Nat → Rnd) (s : State) : Out :=
  simd o (anyType o) [o.vb.val] [o.va.val] (fun s =>
    let gb := g s o.t.val o.vb.val
    let e8 := gb.toNat % 256
    if e8 = 0 then simdFinish s o 0 0
    else if e8 = 255 then simdFinish s o 0 flagInvalid
    else
      let rs := (List.range 8).map (fun i =>
        let r := packElement gr (mode s gb i)
          (nscale (decode f32 (elem 32 (v s o.t.val o.va.val) i)) (127 - (e8 : Int)))
        (r.1.toNat, r.2))
      simdFinish s o (fromElems 8 (rs.map (·.1))) (unionFlags rs)) s

def execVpack8e (o : VOp) (s : State) : Out := fetching (.vpack8e o) o.t (simdPack o false (fun _ _ _ => .rne)) s
def execVpack8g (o : VOp) (s : State) : Out := fetching (.vpack8g o) o.t (simdPack o true (fun _ _ _ => .rne)) s
/-- The draw of element i: job seed, SKEY, purpose 0x01, index g[vb][63:8] + i (R84, R161). -/
def execVpack8gs (o : VOp) (s : State) : Out :=
  fetching (.vpack8gs o) o.t (fun s =>
    simdPack o true (fun s gb i =>
      .stoch (drawLow16 (draw s.job.seed (thread s o.t.val).skey 1 (gb.toNat / 256 + i)))) s) s

/-- An unpack of eight codes; a zero scale gives a zero block and 0xFF zeros with invalid set (R142, R145). -/
def simdUnpack (o : VOp) (gr : Bool) (s : State) : Out :=
  simd o (anyType o) [o.vb.val] [o.va.val] (fun s =>
    let e8 := (g s o.t.val o.vb.val).toNat % 256
    if e8 = 0 then simdFinish s o 0 0
    else if e8 = 255 then simdFinish s o 0 flagInvalid
    else
      let rs := (List.range 8).map (fun i =>
        let r := tugRound f32 (nscale (dec8 gr (BitVec.ofNat 8 (elem 8 (v s o.t.val o.va.val) i))) ((e8 : Int) - 127))
        (encode f32 r.1, r.2))
      simdFinish s o (fromElems 32 (rs.map (·.1))) (unionFlags rs)) s

def execVunpack8e (o : VOp) (s : State) : Out := fetching (.vunpack8e o) o.t (simdUnpack o false) s
def execVunpack8g (o : VOp) (s : State) : Out := fetching (.vunpack8g o) o.t (simdUnpack o true) s

/-! Moves. -/

def execVperm (o : VOp) (s : State) : Out :=
  fetching (.vperm o) o.t (fun s =>
    simd o (anyType o) (secondG o) (secondV o) (fun s =>
      simdMap s o 8 (fun j => (elem 8 (v s o.t.val o.va.val) (secondElem s o 8 j % 32), 0))) s) s

def execVbcast (o : VOp) (s : State) : Out :=
  fetching (.vbcast o) o.t (fun s =>
    simd o (anyType o) [o.va.val] [] (fun s =>
      let w := elemBits (vet o)
      simdMap s o w (fun _ => ((g s o.t.val o.va.val).toNat % 2 ^ w, 0))) s) s

/-- g[vd] takes an element of va, sign-extended; an index above the last element gives zero. -/
def execVext (o : VOp) (s : State) : Out :=
  fetching (.vext o) o.t (fun s =>
    simd o (anyType o) [o.vb.val] [o.va.val] (fun s =>
      let w := elemBits (vet o)
      let i := (g s o.t.val o.vb.val).toNat % 32
      let x : Word := if i < elemCount (vet o) then BitVec.ofInt 64 (signedElem w (elem w (v s o.t.val o.va.val) i)) else 0
      retire (setG s o.t.val o.vd.val x) o.t.val) s) s

end Sys2Proof.Machine
end

