-- ==== Sys2Proof/Machine/TugMem.lean ====
section
/-! DEFINITION. Tug loads, stores and atomics up to the moment they issue: alignment, regions, the data cache and the
request slots (R77, R78, R80, R87 to R91, R99, R100, R270, R282, R283). They are performed in Machine/TugDone.lean. -/

namespace Sys2Proof.Machine

/-- Bytes of an access. -/
def accBytes : AccKind → Nat
  | .load b _ => b
  | .store b => b
  | .amo _ sz _ => if sz = .w then 4 else 8
  | .vload => 32
  | .vstore => 32
  | .prefetch _ => 128

def isAtomic : AccKind → Bool
  | .amo _ _ _ => true
  | _ => false

def isStoreLike : AccKind → Bool
  | .store _ => true
  | .vstore => true
  | .amo _ _ _ => true
  | _ => false

/-- What a job access needs of a region (R99). -/
def needOf : AccKind → Need
  | .load _ _ => .read
  | .vload => .read
  | .store _ => .write
  | .vstore => .write
  | .prefetch _ => .read
  | .amo _ _ _ => .both

/-- The violation kind of an access outside the permitted regions (Table 03-15). -/
def violKind : AccKind → Nat
  | .load _ _ => 0
  | .store _ => 1
  | .amo _ _ _ => 2
  | .vload => 3
  | .vstore => 3
  | .prefetch _ => 0

/-- What becomes of an access: performed, a violation with its kind, or outside the populated windows at firmware
privilege (R270). -/
inductive Verdict where
  | perform
  | violation (kind : Nat)
  | noWindow
  deriving DecidableEq, Repr

/-- A job's control-space access can act on some bit it touches; a SIMD access touches four registers. -/
def ctlTouches (s : State) (kind : AccKind) (a : Nat) : Bool :=
  match kind with
  | .load b _ => jobMayRead s (a - ctlBase) b
  | .store b => jobMayWrite s (a - ctlBase) b
  | .vload => (List.range 4).any (fun i => jobMayRead s (a - ctlBase + 8 * i) 8)
  | .vstore => (List.range 4).any (fun i => jobMayWrite s (a - ctlBase + 8 * i) 8)
  | .amo _ _ _ => false
  | .prefetch _ => false

/-- Control space is populated for 64 MiB (Table 10-1). -/
def ctlPopulated (a n : Nat) : Bool := decide (ctlBase ≤ a ∧ a + n ≤ ctlBase + 0x4000000)

/-- Alignment first, then the control-space rules or the region check (R78, R80, R99, R270). -/
def verdict (s : State) (t : Nat) (kind : AccKind) (a : Nat) : Verdict :=
  let n := accBytes kind
  if a % n ≠ 0 then .violation 7
  else if windowOf a = .control then
    if isAtomic kind then .violation 2
    else if (thread s t).fw then (if ctlPopulated a n then .perform else .noWindow)
    else if ctlTouches s kind a then .perform else .violation (violKind kind)
  else if (thread s t).fw then (if populatedRange s a n then .perform else .noWindow)
  else if populatedRange s a n && regionOk s (dieOfThread t) (needOf kind) a n then .perform
  else .violation (violKind kind)

/-! Admission (R283). -/

/-- The admission target of an address: a Berth, a Harbour Cache bank, or control space. -/
def target (s : State) (a : Nat) : Nat :=
  match windowOf a with
  | .berth => a / 0x800000
  | .control => 1000
  | _ => 200 + hcBank s a

/-- A slot is free for an access: fewer than 48 taken, and fewer than 36 for its target. -/
def admits (s : State) (t a : Nat) : Bool :=
  let sl := (core s (tugOf t)).slots
  decide (sl.length < 48) && decide ((sl.filter (fun p => decide (target s p.2.addr = target s a))).length < 36)

/-- The lowest slot number not taken. -/
def freeSlot (sl : List (Nat × Access)) : Nat :=
  ((List.range 48).find? (fun k => !(sl.map (·.1)).contains k)).getD 0

/-- Lines of the data cache that an access's bytes lie in are dropped. -/
def dropLine (c : Core) (l : Nat) : Core := { c with dcache := c.dcache.filter (fun p => decide (p.1 ≠ l)) }

/-- A line with n bytes at an offset replaced. -/
def patchLine (x : BitVec 1024) (off n : Nat) (val : Nat) : BitVec 1024 :=
  let mask := BitVec.ofNat 1024 ((2 ^ (8 * n) - 1) * 2 ^ (8 * off))
  (x &&& ~~~mask) ||| (BitVec.ofNat 1024 (val * 2 ^ (8 * off)) &&& mask)

/-- A store is written through: the core's own copy of the line takes it; an atomic drops the copy (R80, R89). -/
def writeThrough (c : Core) (a : Access) : Core :=
  match a.kind with
  | .store b => { c with dcache := c.dcache.map (fun p =>
      if p.1 = lineOf a.addr then (p.1, patchLine p.2 (a.addr % 128) b a.data.toNat) else p) }
  | .vstore => { c with dcache := c.dcache.map (fun p =>
      if p.1 = lineOf a.addr then (p.1, patchLine p.2 (a.addr % 128) 32 a.data.toNat) else p) }
  | .amo _ _ _ => dropLine c (lineOf a.addr)
  | _ => c

/-- A register whose load is now outstanding. -/
def markPending (th : Thread) (a : Access) : Thread :=
  match a.kind with
  | .vload => { th with pendV := if th.pendV.contains a.rd then th.pendV else th.pendV ++ [a.rd] }
  | .load _ _ => if a.rd = 0 then th else { th with pendG := if th.pendG.contains a.rd then th.pendG else th.pendG ++ [a.rd] }
  | .amo _ _ _ => if a.rd = 0 then th else { th with pendG := if th.pendG.contains a.rd then th.pendG else th.pendG ++ [a.rd] }
  | _ => th

def isAcquire : AccKind → Bool
  | .amo _ _ aq => aq
  | _ => false

/-- An atomic with aq holds back the accesses after it. -/
def noteAcquire (th : Thread) (a : Access) : Thread := if isAcquire a.kind then { th with acq := true } else th

/-- The access takes a slot and its instruction has issued; an earlier load of the same register is overtaken. -/
def takeSlot (s : State) (a : Access) : State :=
  let s := if isLoadLike a.kind then overtake s (isSimd a.kind) a.t a.rd else s
  let c := writeThrough (core s (tugOf a.t)) a
  let s := setCore s (tugOf a.t) { c with slots := c.slots ++ [(freeSlot c.slots, a)] }
  retire (setThread s a.t (noteAcquire (markPending (thread s a.t) a) a)) a.t

/-- The access issues, or holds its thread in place until a slot frees. -/
def holdAccess (s : State) (a : Access) : State :=
  if admits s a.t a.addr then takeSlot s a else setThread s a.t { thread s a.t with held := some a }

/-- The value a load of b bytes leaves in a register. -/
def loadValueOf (b : Nat) (signed : Bool) (x : Nat) : Word :=
  if signed then (BitVec.ofInt 64 (signedElem (8 * b) x)) else BitVec.ofNat 64 x

/-- The destination of a load-like access takes a value of its bytes. -/
def writeDest (s : State) (a : Access) (x : Nat) : State :=
  match a.kind with
  | .load b sg => setG s a.t a.rd (loadValueOf b sg x)
  | .amo _ sz _ => setG s a.t a.rd (loadValueOf (if sz = .w then 4 else 8) true x)
  | .vload => setV s a.t a.rd (BitVec.ofNat 256 x)
  | _ => s

/-- The cached line that a load may be served from (R89). -/
def cachedLine (s : State) (a : Access) : Option (BitVec 1024) :=
  match a.kind with
  | .load _ _ => ((core s (tugOf a.t)).dcache.find? (fun p => decide (p.1 = lineOf a.addr))).map (·.2)
  | .vload => ((core s (tugOf a.t)).dcache.find? (fun p => decide (p.1 = lineOf a.addr))).map (·.2)
  | _ => none

/-- An access that is performed: served by the data cache, unless the line has been evicted meanwhile (a free choice), or
sent to its coherence point. -/
def dispatchAccess (s : State) (a : Access) : State :=
  match cachedLine s a with
  | some x =>
    if freeChoice s 0 then
      let s := countLatency (tookFree s 1) 0 (tugOf a.t) 1
      retire (writeDest s a (lineBytes x (a.addr % 128) (accBytes a.kind))) a.t
    else
      let s := tookFree s 1
      holdAccess (setCore s (tugOf a.t) (dropLine (core s (tugOf a.t)) (lineOf a.addr))) a
  | none => holdAccess s a

/-- The acquire fence that follows an atomic with aq is not complete: later accesses of its thread wait for the atomic and for
every load that was outstanding with it (Tables 03-8, 03-13). -/
def acquirePending (s : State) (t : Nat) : Bool := (thread s t).acq

/-- Earlier stores and atomics of the thread, and its command words, have been performed (fence.rel, R92, R93). -/
def storesDone (s : State) (t : Nat) : Bool := (outstanding s t).all (fun a => !isStoreLike a.kind)

/-- Command words of the thread that have not reached their Crane. -/
def wordsArrived (s : State) (t : Nat) : Bool :=
  (List.range 16).all (fun c =>
    decide (fget s (F.tugCqBindThread (c / 8) (c % 8)) ≠ t) || (crane s c).flight.isEmpty)

/-- An instruction that accesses memory: what it does once its sources are ready. -/
def access (s : State) (a : Access) : State :=
  match verdict s a.t a.kind a.addr with
  | .perform => dispatchAccess (countIssue s a.t) a
  | .violation k => retire (writeDest (violation (countEvent s 1 (tugOf a.t) 1 1 (a.t % 4)) a.t k a.addr) a 0) a.t
  | .noWindow => retire (writeDest (countNowin (countIssue s a.t)) a 0) a.t

/-- The effective address ra + imm16. -/
def effAddr (s : State) (t ra : Nat) (imm : BitVec 16) : Nat := (g s t ra + sext16 imm).toNat

/-- A memory instruction issues when its sources are ready and no acquiring atomic of the thread is outstanding. -/
def memIssue (t : Nat) (gs vs : List Nat) (wait : State → Bool) (f : State → State) (s : State) : Out :=
  if canIssue s t gs vs then .next (if acquirePending s t || wait s then s else f s) else .next (stall s t gs vs)

def loadInstr (t : Tid) (rd ra : RegIx) (imm : BitVec 16) (bytes : Nat) (signed : Bool) (s : State) : Out :=
  memIssue t.val [ra.val] [] (fun _ => false)
    (fun s => access s ⟨t.val, .load bytes signed, effAddr s t.val ra.val imm, rd.val, 0, 0⟩) s

def storeInstr (t : Tid) (rs ra : RegIx) (imm : BitVec 16) (bytes : Nat) (s : State) : Out :=
  memIssue t.val [rs.val, ra.val] [] (fun _ => false)
    (fun s => access s ⟨t.val, .store bytes, effAddr s t.val ra.val imm, 0,
      BitVec.ofNat 256 ((g s t.val rs.val).toNat % 2 ^ (8 * bytes)), 0⟩) s

def execLd (t : Tid) (rd ra : RegIx) (imm : BitVec 16) (s : State) : Out :=
  fetching (.ld t rd ra imm) t (loadInstr t rd ra imm 8 true) s
def execLw (t : Tid) (rd ra : RegIx) (imm : BitVec 16) (s : State) : Out :=
  fetching (.lw t rd ra imm) t (loadInstr t rd ra imm 4 true) s
def execLwu (t : Tid) (rd ra : RegIx) (imm : BitVec 16) (s : State) : Out :=
  fetching (.lwu t rd ra imm) t (loadInstr t rd ra imm 4 false) s
def execLh (t : Tid) (rd ra : RegIx) (imm : BitVec 16) (s : State) : Out :=
  fetching (.lh t rd ra imm) t (loadInstr t rd ra imm 2 true) s
def execLhu (t : Tid) (rd ra : RegIx) (imm : BitVec 16) (s : State) : Out :=
  fetching (.lhu t rd ra imm) t (loadInstr t rd ra imm 2 false) s
def execLb (t : Tid) (rd ra : RegIx) (imm : BitVec 16) (s : State) : Out :=
  fetching (.lb t rd ra imm) t (loadInstr t rd ra imm 1 true) s
def execLbu (t : Tid) (rd ra : RegIx) (imm : BitVec 16) (s : State) : Out :=
  fetching (.lbu t rd ra imm) t (loadInstr t rd ra imm 1 false) s
def execSd (t : Tid) (rs ra : RegIx) (imm : BitVec 16) (s : State) : Out :=
  fetching (.sd t rs ra imm) t (storeInstr t rs ra imm 8) s
def execSw (t : Tid) (rs ra : RegIx) (imm : BitVec 16) (s : State) : Out :=
  fetching (.sw t rs ra imm) t (storeInstr t rs ra imm 4) s
def execSh (t : Tid) (rs ra : RegIx) (imm : BitVec 16) (s : State) : Out :=
  fetching (.sh t rs ra imm) t (storeInstr t rs ra imm 2) s
def execSb (t : Tid) (rs ra : RegIx) (imm : BitVec 16) (s : State) : Out :=
  fetching (.sb t rs ra imm) t (storeInstr t rs ra imm 1) s

def execVld (t : Tid) (vd ra : RegIx) (imm : BitVec 16) (s : State) : Out :=
  fetching (.vld t vd ra imm) t (fun s =>
    memIssue t.val [ra.val] [] (fun _ => false)
      (fun s => access s ⟨t.val, .vload, effAddr s t.val ra.val imm, vd.val, 0, 0⟩) s) s

def execVst (t : Tid) (vs ra : RegIx) (imm : BitVec 16) (s : State) : Out :=
  fetching (.vst t vs ra imm) t (fun s =>
    memIssue t.val [ra.val] [vs.val] (fun _ => false)
      (fun s => access s ⟨t.val, .vstore, effAddr s t.val ra.val imm, 0, v s t.val vs.val, 0⟩) s) s

/-- An atomic at address ra with operand rb; rl waits as a release fence does, and cas reads rd too (Table 03-8). -/
def amoInstr (t : Tid) (rd ra rb : RegIx) (op : AmoOp) (sz : AmoSize) (aq rl : Bool) (s : State) : Out :=
  memIssue t.val (if op = .cas then [rd.val, ra.val, rb.val] else [ra.val, rb.val]) []
    (fun s => rl && !(storesDone s t.val && wordsArrived s t.val))
    (fun s => access s ⟨t.val, .amo op sz aq, (g s t.val ra.val).toNat, rd.val,
      (g s t.val rb.val).setWidth 256, g s t.val rd.val⟩) s

def execAmoswap (t : Tid) (rd ra rb : RegIx) (sz : AmoSize) (aq rl : Bool) (s : State) : Out :=
  fetching (.amoswap t rd ra rb sz aq rl) t (amoInstr t rd ra rb .swap sz aq rl) s
def execAmoadd (t : Tid) (rd ra rb : RegIx) (sz : AmoSize) (aq rl : Bool) (s : State) : Out :=
  fetching (.amoadd t rd ra rb sz aq rl) t (amoInstr t rd ra rb .add sz aq rl) s
def execAmoand (t : Tid) (rd ra rb : RegIx) (sz : AmoSize) (aq rl : Bool) (s : State) : Out :=
  fetching (.amoand t rd ra rb sz aq rl) t (amoInstr t rd ra rb .and sz aq rl) s
def execAmoor (t : Tid) (rd ra rb : RegIx) (sz : AmoSize) (aq rl : Bool) (s : State) : Out :=
  fetching (.amoor t rd ra rb sz aq rl) t (amoInstr t rd ra rb .or sz aq rl) s
def execAmomax (t : Tid) (rd ra rb : RegIx) (sz : AmoSize) (aq rl : Bool) (s : State) : Out :=
  fetching (.amomax t rd ra rb sz aq rl) t (amoInstr t rd ra rb .max sz aq rl) s
def execAmomin (t : Tid) (rd ra rb : RegIx) (sz : AmoSize) (aq rl : Bool) (s : State) : Out :=
  fetching (.amomin t rd ra rb sz aq rl) t (amoInstr t rd ra rb .min sz aq rl) s
def execAmomaxu (t : Tid) (rd ra rb : RegIx) (sz : AmoSize) (aq rl : Bool) (s : State) : Out :=
  fetching (.amomaxu t rd ra rb sz aq rl) t (amoInstr t rd ra rb .maxu sz aq rl) s
def execAmominu (t : Tid) (rd ra rb : RegIx) (sz : AmoSize) (aq rl : Bool) (s : State) : Out :=
  fetching (.amominu t rd ra rb sz aq rl) t (amoInstr t rd ra rb .minu sz aq rl) s
def execAmocas (t : Tid) (rd ra rb : RegIx) (sz : AmoSize) (aq rl : Bool) (s : State) : Out :=
  fetching (.amocas t rd ra rb sz aq rl) t (amoInstr t rd ra rb .cas sz aq rl) s

/-- A slot for its target frees and the held access of a thread issues. -/
def execRequestSlotFree (t : Tid) (s : State) : Out :=
  match (thread s t.val).held with
  | none => turnedAway s
  | some a => whenever (admits s t.val a.addr) (takeSlot (setThread s t.val { thread s t.val with held := none }) a) s

/-! Instruction fetch (R68). -/

/-- The 128 bytes of a line as memory holds them. -/
def memLine (s : State) (l : Nat) : BitVec 1024 := BitVec.ofNat 1024 (readNat s (l * 128) 128)

/-- A line enters the instruction cache: 128 sets of 4 ways, the least recently used leaving. -/
def fillICache (c : Core) (l : Nat) (x : BitVec 1024) : Core :=
  let others := c.icache.filter (fun p => decide (p.1 ≠ l))
  let sameSet := others.filter (fun p => decide (p.1 % 128 = l % 128))
  let keep := sameSet.take 3
  { c with icache := (l, x) :: others.filter (fun p => decide (p.1 % 128 ≠ l % 128) || keep.contains p) }

/-- A fetch miss of a RUN thread fills its line through the home cache; poison read by a fetch is consumed outside containment
(R381). Each thread of a Tug has at most one fetch outstanding, so the eight fetch slots of R282 always suffice. -/
def execFetchMissFill (t : Tid) (errs : List MemErr) (s : State) : Out :=
  let a := (thread s t.val).pc.toNat
  let l := lineOf a
  let k := tugOf t.val
  let s1 := hcAccess (countEvent (meetErrors s errs) 1 k 4 1 (t.val % 4)) (l * 128) false true
  let s2 := setCore s1 k (fillICache (core s1 k) l (memLine s1 l))
  whenever (mayIssue s t.val && decide (fetchWord s t.val = .miss))
    (consumeRange s2 (l * 128) 128 2 false (dieOfThread t.val) (k % 64)) s

end Sys2Proof.Machine
end

