-- ==== Sys2Proof/Machine/Clock.lean ====
section
/-! DEFINITION. What passes while no command waits: one Tide ns (assumption 4). -/

namespace Sys2Proof.Machine

/-- Events of Table 15-2 that commands of the model count one by one. -/
def countedByCommand (cls ev : Nat) : Bool :=
  match cls with
  | 0 => decide (3 ≤ ev ∧ ev ≤ 6)
  | 1 => decide (1 ≤ ev ∧ ev ≤ 7) || decide (ev = 9 ∨ ev = 10)
  | 2 => decide (3 ≤ ev ∧ ev ≤ 5)
  | 3 => decide (1 ≤ ev ∧ ev ≤ 5)
  | 5 => decide (1 ≤ ev ∧ ev ≤ 3) || decide (ev = 6 ∨ ev = 7)
  | 6 => decide (ev = 2 ∨ ev = 3)
  | 7 => decide (ev ≠ 2)
  | _ => false

/-- The cycles of a class's clock that pass in this Tide ns (R6, Table 15-1). -/
def ccOf (s : State) : Nat := if freeChoice s 0 then 4 else 3
def tcOf (s : State) : Nat := if freeChoice s 1 then 3 else 2
def cyclesOf (s : State) (cls : Nat) : Nat :=
  match cls with
  | 0 => ccOf s
  | 1 => tcOf s
  | 2 => ccOf s
  | _ => 1

/-- The access that no request slot has admitted yet, of the RUN thread of a Tug core that the mask selects (R283). -/
def heldIn (s : State) (k mask : Nat) : Option Access :=
  (List.range 4).findSome? (fun i =>
    let th := thread s (4 * k + i)
    if th.st = .run ∧ (mask = 0 ∨ mask / 2 ^ i % 2 = 1) then th.held else none)

/-- Slots of a Tug core taken by the threads that the mask selects. -/
def slotsOf (s : State) (k mask : Nat) : Nat :=
  ((core s k).slots.filter (fun p => decide (mask = 0 ∨ mask / 2 ^ (p.2.t % 4) % 2 = 1))).length

/-- The value per cycle of a level event that the state tells: an occupancy, a hold in progress, and the stalls of R283. -/
def levelOf (s : State) (cls unit ev mask : Nat) : Option Nat :=
  match cls, ev with
  | 0, 8 => some (crane s unit).fgq.length
  | 1, 8 => some (slotsOf s unit mask)
  | 1, 0x11 => some (if (heldIn s unit mask).isSome ∧ (core s unit).slots.length = 48 then 1 else 0)
  | 1, 0x12 => some (if (heldIn s unit mask).isSome ∧ (core s unit).slots.length ≠ 48 then 1 else 0)
  | 2, 7 => some (bargeSt s unit).queue.length
  | 2, 0x16 => some (if (bargeSt s unit).cur.isNone ∧ (bargeSt s unit).queue = [] then 1 else 0)
  | 3, 6 => some (port s unit).reorder.length
  | 3, 7 => some (port s unit).replay.length
  | 3, 0x10 => some (if inService s unit then 0 else 1)
  | 7, 2 => some (if inHold s then 1 else 0)
  | _, _ => none

/-- What one Tide ns adds to counter n: an event whose level the state tells, in each cycle exactly; an event that lasts
cycles of an engine, which the model does not time, a free amount of at most 255 in each of four cycles (assumption 7). -/
def tickAmount (s : State) (n : Nat) : Nat :=
  let cls := fget s (F.perfSelCls n)
  let ev := fget s (F.perfSelEvent n)
  if !(flag s (F.perfSelEn n) && !selBad s n) then 0
  else if countedByCommand cls ev then 0
  else match levelOf s cls (fget s (F.perfSelUnit n)) ev (fget s (F.perfSelTmask n)) with
    | some v => cyclesOf s cls * increment s n v
    | none => (freeAt s (2 + n)).toNat % 1021

/-- All programmable counters over one Tide ns; each rising ovf flag is an event (R406). -/
def tickCounters (s : State) : PerfSt :=
  if s.perf.run then
    let r := (List.range 8).foldl (fun (q : PerfSt × Nat) n =>
      let (p', rose) := addCounter s q.1 n (tickAmount s n)
      (p', if rose then q.2 + 1 else q.2)) (s.perf, 0)
    if r.2 = 0 then r.1
    else
      let p := countIn s 2 r.1 7 0 5 r.2 0
      if flag s F.perfCtlFreezeOnOvf then { p with run := false } else p
  else s.perf

/-- A thread whose tidewait was reached 3 Tide ns ago leaves WAIT now at the latest (R44, R96). -/
def wakeThread (s : State) (t : Nat) : State :=
  match (thread s t).waitOn with
  | some (.tide at_) => if at_.toNat + 3 ≤ s.tide.now then makeReady s t else s
  | _ => s

def wakeLate (s : State) : State := (s.threads.map (·.1)).foldl wakeThread s

/-- One Tide ns with no command: the Tide counter and the client's time of day advance by one (R30, R33), 3 or 4 cycles of the 3.6 GHz clock and 2 or 3 of
the 2.4 GHz clock pass (R6, R402). Before the Tide runs (R441) nothing passes. -/
def tick (s : State) : State :=
  if s.tide.running then
    let p := tickCounters s
    wakeLate { s with
      tide := { s.tide with now := (s.tide.now + 1) % 2 ^ 64, tai := s.tide.tai + 1 }
      perf := { p with cc := p.cc + ccOf s, tc := p.tc + tcOf s }
      free := s.free + 10 }
  else s

end Sys2Proof.Machine
end

