-- ==== Sys2Proof/Machine/CraneMem.lean ====
section
/-! DEFINITION. What a Crane command says and the bytes it touches: the command word, the descriptors' fields, the checks of
R118, the operand tiles, and reads and writes of Berths with their undefined values (R111 to R119, R170, R381). -/

namespace Sys2Proof.Machine

/-! The command word (Table 04-3). -/

def cwOp (w : Word) : Nat := w.toNat % 256
def cwPmode (w : Word) : Nat := w.toNat / 256 % 8
def cwBank (w : Word) : Nat := w.toNat / 2048 % 2
def cwAcc (w : Word) : Bool := w.getLsbD 12
def cwTa (w : Word) : Bool := w.getLsbD 13
def cwTb (w : Word) : Bool := w.getLsbD 14
def cwSync (w : Word) : Bool := w.getLsbD 15
def cwImm (w : Word) : Nat := w.toNat / 65536 % 65536
/-- Die-local byte offset of the descriptor. -/
def cwDesc (w : Word) : Nat := w.toNat / 2 ^ 32 % 2 ^ 23 * 64
def cwTag (w : Word) : Nat := w.toNat / 2 ^ 56 % 64

/-- An opcode of Table 04-4. -/
def opKnown (op : Nat) : Bool := [1, 2, 3, 4, 5, 8, 9, 0x10, 0x11, 0x12, 0x3F].contains op
/-- Opcodes that use the array. -/
def opArray (op : Nat) : Bool := decide (op = 1 ∨ op = 2 ∨ op = 0x10 ∨ op = 0x11)
/-- DRAIN, TOPK, SPILL, ZERO and LOADACC (R129). -/
def opMover (op : Nat) : Bool := decide (op = 3 ∨ op = 4 ∨ op = 5 ∨ op = 8 ∨ op = 9)
/-- A complex mode (R110). -/
def cwComplex (w : Word) : Bool := decide (cwOp w = 1 ∨ cwOp w = 2) && decide (cwPmode w = 4 ∨ cwPmode w = 5)

/-- An MMA in a complex mode forms its sum in both banks. A GATHER adds its table rows to the bank it names in every mode
(DESIGN CHOICE, assumption 77). -/
def twoBanks (w : Word) : Bool := cwComplex w && decide (cwOp w = 1)

/-- The command addresses a bank; ROOTNS and CHOL work in bank 1. -/
def usesBank (w : Word) (b : Nat) : Bool :=
  if twoBanks w then true
  else if cwOp w = 0x10 ∨ cwOp w = 0x11 then decide (b = 1)
  else (decide (cwOp w = 1 ∨ cwOp w = 2) || opMover (cwOp w)) && decide (cwBank w = b)

/-- imm16 holds a value that the opcode defines (Table 04-4, R231, R234). -/
def immOk (op imm : Nat) : Bool :=
  if op = 2 ∨ op = 9 then decide (1 ≤ imm ∧ imm ≤ 128)
  else if op = 0x12 then decide (imm ≤ 1)
  else if op = 0x10 then decide (imm < 8 ∧ imm % 4 ≠ 3)
  else if op = 0x11 then decide (imm < 64 ∧ imm / 16 ≠ 3)
  else decide (imm = 0)

/-- The checks on the command word, in the order of causes 1, 2, 6, 3; 0 for none (R118). Table 04-3 says that an opcode
outside the array ignores pmode, which must then be zero, and names no cause: a nonzero one is taken as cause 1 (DESIGN
CHOICE, assumption 77). -/
def wordCause (bg : Bool) (w : Word) : Nat :=
  let op := cwOp w
  let pm := cwPmode w
  if !opKnown op || w.getLsbD 55 || w.getLsbD 62 || w.getLsbD 63 then 1
  else if opArray op && decide (pm = 0 ∨ pm = 6 ∨ pm = 7) then 1
  else if !opArray op && decide (pm ≠ 0) then 1
  else if !bg && decide (op = 0x10 ∨ op = 0x11) then 2
  else if cwComplex w && decide (cwBank w = 1) then 6
  else if !immOk op (cwImm w) then 3
  else 0

/-- Bytes of the descriptor that a command reads; ZERO and MARK read none, and the manual gives LOADACC none. -/
def descLen (op : Nat) : Nat :=
  if op = 8 ∨ op = 9 then 128 else if op = 4 ∨ op = 5 ∨ op = 0x3F then 0 else 64

/-! Reads and writes (R119, R130, R381). -/

/-- The byte was last written by a command whose retirement this one is not ordered after (R119): one that `unordered` lists,
or one that issued later. -/
def unorderedByte (s : State) (k : CraneCmd) (a : Nat) : Bool :=
  let w := Tab.get 0 s.writer a
  decide (w ≠ 0 ∧ w ≠ k.uid) && (k.unordered.contains w || decide (k.uid < w))

/-- A byte as the command reads it: undefined, a free value, where the writer is unordered. -/
def craneByte (s : State) (k : CraneCmd) (a : Nat) : Byte :=
  if unorderedByte s k a then (freeAt s a).setWidth 8 else memByte s a

def craneBytes (s : State) (k : CraneCmd) (a n : Nat) : List Byte := (List.range n).map (fun i => craneByte s k (a + i))
def craneNat (s : State) (k : CraneCmd) (a n : Nat) : Nat := natOfBytes (craneBytes s k a n)

/-- The free values that one command's reads and writes may stand for are spent: two for each device address. -/
def spendFree (s : State) : State := tookFree s (2 ^ 49)

/-- Bytes that a command writes; where they overlap the writes of an unordered command they are undefined (R119). -/
def craneWrite (s : State) (k : CraneCmd) (poison : Bool) (a : Nat) (bs : List Byte) : State :=
  let vs := (List.range bs.length).map (fun i =>
    if unorderedByte s k (a + i) then (freeAt s (2 ^ 48 + a + i)).setWidth 8 else bs.getD i 0)
  if poison then writePoison s k.uid a vs else writeFrom s k.uid a vs

/-- Writes performed one after another. -/
def craneWrites (s : State) (k : CraneCmd) (poison : Bool) : List (Nat × List Byte) → State
  | [] => s
  | w :: rest => craneWrites (craneWrite s k poison w.1 w.2) k poison rest

/-- A range of bytes a command touches: device address, length, and whether it writes. -/
structure Foot where
  addr : Nat
  len : Nat
  wr : Bool
  deriving DecidableEq, Repr

/-- Some byte that the command reads is poisoned. -/
def readsPoison (s : State) (fp : List Foot) : Bool := fp.any (fun f => !f.wr && poisonedRange s f.addr f.len)

/-- The poisoned lines that a command reads. -/
def poisonedLines (s : State) (fp : List Foot) : List Nat :=
  fp.flatMap (fun f => if f.wr then [] else (touchedLines f.addr f.len).filter (fun l => poisoned s (l * 128)))

/-- Each poisoned line read is one consumption event of the Crane (R381). -/
def consumeLines (s : State) (c : Nat) : List Nat → State
  | [] => s
  | l :: rest => consumeLines (consumePoison s (l * 128) 0 true (dieOfCrane c) (c % 8)) c rest

/-- The consumption of what a command has read, which stood in memory as in `old` when it began. -/
def consumeFoot (s old : State) (c : Nat) (fp : List Foot) : State := consumeLines s c (poisonedLines old fp)

/-! Places in the die's Berths. -/

def dieBytes : Nat := 0x20000000
def berthBytes : Nat := 0x800000

/-- A die-local range as a device range of Crane c. -/
def footAt (c off len : Nat) (wr : Bool) : Foot := ⟨berthAddr (dieOfCrane c) off, len, wr⟩

/-- The offset's Berth is near Crane c: 8c to 8c + 7 of its die (R111). -/
def nearBerth (c off : Nat) : Bool := decide (8 * (c % 8) ≤ off / berthBytes ∧ off / berthBytes ≤ 8 * (c % 8) + 7)

/-- A tile of lines of L bytes lies in a near Berth pair. -/
def pairOk (c off l : Nat) : Bool :=
  decide (8 * (c % 8) ≤ off / berthBytes ∧ off / berthBytes ≤ 8 * (c % 8) + 6 ∧ off % berthBytes + 64 * l ≤ berthBytes)

/-- The bytes of a tile in its pair. -/
def pairFoot (c off l : Nat) : List Foot := [footAt c off (64 * l) false, footAt c (off + berthBytes) (64 * l) false]

/-- A scale tile lies in one near Berth. -/
def nearOk (c off n : Nat) : Bool := nearBerth c off && decide (off % berthBytes + n ≤ berthBytes)

/-- A partial buffer is 128-byte aligned in Berth 8c (R170). -/
def partialOk (c off : Nat) : Bool := decide (off % 128 = 0 ∧ off / berthBytes = 8 * (c % 8))

/-- A partial buffer of n bytes per Berth ends within its Berths. -/
def partialIn (off n : Nat) : Bool := decide (off % berthBytes + n ≤ berthBytes)

/-- The bytes of a partial buffer in the eight near Berths. -/
def partialFoot (c off : Nat) (wr : Bool) : List Foot :=
  (List.range 8).map (fun b => footAt c (off + b * berthBytes) 16384 wr)

/-- Where element (i, j) of a partial buffer lies. -/
def partialAddr (c off i j : Nat) : Nat :=
  berthAddr (dieOfCrane c) (off + j / 16 * berthBytes + 128 * i + 8 * (j % 16))

/-- Every byte of [a, a + n) lies in an enabled region that grants the access: a region is made of whole 4 KiB pages
(Table 03-18), so each page touched is looked up once. -/
def bytesPermitted (s : State) (d : Nat) (need : Need) (a n : Nat) : Bool :=
  decide (n = 0) || (List.range ((a + n - 1) / 4096 + 1 - a / 4096)).all (fun i => regionOk s d need ((a / 4096 + i) * 4096) 1)

/-- A foreground command's bytes lie in the job's enabled regions, each byte in some region (cause 5). -/
def regionsOk (s : State) (c : Nat) (bg : Bool) (fp : List Foot) : Bool :=
  bg || fp.all (fun f => bytesPermitted s (dieOfCrane c) (if f.wr then .write else .read) f.addr f.len)

/-- The cause of a footprint that is inside the die's Berths, or none. -/
def regionCause (s : State) (c : Nat) (bg : Bool) (fp : List Foot) : Nat := if regionsOk s c bg fp then 0 else 5

/-- Offsets with a bit of [31:29] set (R117). -/
def offsBad (offs : List Nat) : Bool := offs.any (fun o => decide (dieBytes ≤ o))

/-- Bytes of a list at offsets [a, b) are not all zero. -/
def nonzeroIn (d : List Byte) (a b : Nat) : Bool := decide (at_ d a (b - a) ≠ 0)

/-! The MMA and GATHER descriptor (Table 04-5). -/

def mA (d : List Byte) : Nat := at_ d 0 4
def mB (d : List Byte) : Nat := at_ d 4 4
def mAx (d : List Byte) : Nat := at_ d 8 4
def mBx (d : List Byte) : Nat := at_ d 0xC 4
def mAs (d : List Byte) : Nat := at_ d 0x10 4
def mBs (d : List Byte) : Nat := at_ d 0x14 4
def mAstr (d : List Byte) : Nat := at_ d 0x18 4
def mBstr (d : List Byte) : Nat := at_ d 0x1C 4
def mSstr (d : List Byte) : Nat := at_ d 0x20 4
def mSpill (d : List Byte) : Nat := at_ d 0x24 4
def mKspill (d : List Byte) : Nat := at_ d 0x2A 2
def mAfmt (d : List Byte) : Nat := at_ d 0x2C 1 % 16
def mBfmt (d : List Byte) : Nat := at_ d 0x2C 1 / 16
def mAblk (d : List Byte) : Nat := blkSize (at_ d 0x2D 1)
def mBblk (d : List Byte) : Nat := blkSize (at_ d 0x2D 1 / 4)
def mM (d : List Byte) : Nat := at_ d 0x2E 1 + 1
def mN (d : List Byte) : Nat := at_ d 0x2F 1 + 1
def mIdx (d : List Byte) : Nat := at_ d 0x30 4
def mIdxCount (d : List Byte) : Nat := at_ d 0x34 4

/-- Steps of an MMA or GATHER. -/
def mSteps (w : Word) (d : List Byte) : Nat := if cwOp w = 2 then mIdxCount d else at_ d 0x28 2

/-- Segments (R168). -/
def segments (w : Word) (d : List Byte) : Nat := (mSteps w d + mKspill d - 1) / mKspill d

/-- The array modes of Table 04-1. -/
inductive Mode where
  | block8
  | bf
  | pass2
  | pass3
  | complex4
  | gauss
  deriving DecidableEq, Repr

def modeOf (w : Word) (d : List Byte) : Option Mode :=
  let a := mAfmt d
  let b := mBfmt d
  if cwPmode w = 1 ∧ a ≤ 1 ∧ b ≤ 1 then some .block8
  else if a ≠ 2 ∨ b ≠ 2 then none
  else if cwPmode w = 1 then some .bf
  else if cwPmode w = 2 then some .pass2
  else if cwPmode w = 3 then some .pass3
  else if cwPmode w = 4 then some .complex4
  else if cwPmode w = 5 then some .gauss
  else none

/-- A has a second tile: a pair, or a complex operand. -/
def hasAx : Mode → Bool
  | .block8 => false
  | .bf => false
  | _ => true
def hasBx : Mode → Bool
  | .pass3 => true
  | .complex4 => true
  | .gauss => true
  | _ => false

/-- Bytes of a line of a tile. -/
def lineLen (m : Mode) : Nat := if m = .block8 then 128 else 256

/-- Fields that both commands check alike (R117, R118, R170). -/
def arrayFieldsBad (c : Nat) (w : Word) (d : List Byte) (m : Mode) : Bool :=
  nonzeroIn d 0x38 0x40 || decide (16 ≤ at_ d 0x2D 1) ||
  offsBad [mA d, mB d, mAx d, mBx d, mAs d, mBs d, mSpill d, mIdx d] ||
  decide (at_ d 0x28 2 = 0) || decide (mKspill d = 0 ∨ 4096 < mKspill d) || decide (128 < mM d ∨ 128 < mN d) ||
  decide (mA d % 256 ≠ 0) || (!hasAx m && decide (mAx d ≠ 0)) || (!hasBx m && decide (mBx d ≠ 0)) ||
  (decide (m ≠ .block8) && decide (mAs d ≠ 0 ∨ mBs d ≠ 0)) ||
  (decide (1 < segments w d) && !partialOk c (mSpill d))

/-- Operand tiles along k. -/
def kTiles (w : Word) (d : List Byte) : List Nat := List.range ((mSteps w d + 127) / 128)

/-- The operand tiles that an MMA reads: first byte, whether it is read along its lines (Table 04-2), and how many of its
lines or columns are (R114). -/
def operandTiles (w : Word) (d : List Byte) (m : Mode) : List (Nat × Bool × Nat) :=
  (kTiles w d).flatMap (fun t =>
    let n := if mSteps w d < 128 * t + 128 then mSteps w d - 128 * t else 128
    [(mA d + t * mAstr d, cwTa w, n), (mB d + t * mBstr d, !cwTb w, n)] ++
      (if hasAx m then [(mAx d + t * mAstr d, cwTa w, n)] else []) ++ (if hasBx m then [(mBx d + t * mBstr d, !cwTb w, n)] else []))

/-- First bytes of every operand tile. -/
def tileOffs (w : Word) (d : List Byte) (m : Mode) : List Nat := (operandTiles w d m).map (·.1)

/-- n bytes from byte a of a line of l bytes, going round at its end. -/
def lineSpan (c off l a n : Nat) : List Foot :=
  if a + n ≤ l then [footAt c (off + a) n false] else [footAt c (off + a) (l - a) false, footAt c off (a + n - l) false]

/-- Where line r of a tile begins (R111). -/
def lineOff (off l r : Nat) : Nat := off + r / 64 * berthBytes + r % 64 * l

/-- What is read of an operand tile: its first n lines whole, or its first n columns, which stand together in each line from
the place of column 0 (R111, R112, R114). -/
def tileFoot (c off : Nat) (m : Mode) (lines : Bool) (n : Nat) : List Foot :=
  if 128 ≤ n then pairFoot c off (lineLen m)
  else if lines then (List.range n).map (fun r => footAt c (lineOff off (lineLen m) r) (lineLen m) false)
  else (List.range 128).flatMap (fun r =>
    if m = .block8 then lineSpan c (lineOff off 128 r) 128 ((256 - 2 * r) % 128) n
    else lineSpan c (lineOff off 256 r) 256 (2 * ((128 - r) % 128)) (2 * n))

/-- Every scale tile: offset and bytes (R113). -/
def scaleTiles (w : Word) (d : List Byte) (m : Mode) : List (Nat × Nat) :=
  if m = .block8 then
    (kTiles w d).flatMap (fun t =>
      [(mAs d + t * mSstr d, 128 * (128 / mAblk d)), (mBs d + t * mSstr d, 128 * (128 / mBblk d))])
  else []

/-- The partial buffers of a spilling command: the second one for the complex modes (R170). -/
def partials (w : Word) (d : List Byte) : List Nat :=
  if segments w d ≤ 1 then [] else if twoBanks w then [mSpill d, mSpill d + 16384] else [mSpill d]

/-- Old partials are read unless the first spill initialises them and is the only one. -/
def partialsRead (w : Word) (d : List Byte) : Bool := cwAcc w || decide (2 < segments w d)

def partialsFoot (c : Nat) (w : Word) (d : List Byte) : List Foot :=
  (partials w d).flatMap (fun o => (if partialsRead w d then partialFoot c o false else []) ++ partialFoot c o true)

/-- What an MMA reads of its operands: the lines or columns of its steps, and whole scale tiles (R113). -/
def mmaReads (c : Nat) (w : Word) (d : List Byte) (m : Mode) : List Foot :=
  (operandTiles w d m).flatMap (fun p => tileFoot c p.1 m p.2.1 p.2.2) ++
  (scaleTiles w d m).map (fun p => footAt c p.1 p.2 false)

/-- What an MMA touches beyond its descriptor. -/
def mmaFoot (c : Nat) (w : Word) (d : List Byte) (m : Mode) : List Foot := mmaReads c w d m ++ partialsFoot c w d

/-- The partial buffers lie within the Berths, the second one right after the first (R170). -/
def partialsIn (w : Word) (d : List Byte) : Bool := partialIn (mSpill d) (16384 * (partials w d).length)

/-- The tiles and buffers lie where they must (cause 4). R114 puts every tile along k in the same Berth pair; where a stride
carries one into another near pair the spec names no outcome, and the tile is read there (DESIGN CHOICE, assumption 77). -/
def mmaPlaces (c : Nat) (w : Word) (d : List Byte) (m : Mode) : Bool :=
  (tileOffs w d m).all (fun o => pairOk c o (lineLen m)) && (scaleTiles w d m).all (fun p => nearOk c p.1 p.2) &&
  partialsIn w d

/-- The descriptor checks of an MMA. -/
def mmaCause (s : State) (c : Nat) (bg : Bool) (w : Word) (d : List Byte) : Nat :=
  match modeOf w d with
  | none => 3
  | some m =>
    if arrayFieldsBad c w d m || decide (mB d % 256 ≠ 0) || decide (mIdx d ≠ 0) ||
        (scaleTiles w d m).any (fun p => decide (p.1 % 64 ≠ 0)) then 3
    else if !mmaPlaces c w d m then 4
    else regionCause s c bg (footAt c (cwDesc w) 64 false :: mmaFoot c w d m)

/-- Entry (step, i) of a GATHER's index list. -/
def gatherRow (s : State) (k : CraneCmd) (c : Nat) (d : List Byte) (step i : Nat) : Nat :=
  craneNat s k (berthAddr (dieOfCrane c) (mIdx d + 2 * (128 * step + i))) 2

/-- The tile of the gathered table that holds a row: successive A tiles of 128 lines (DEDUCED, assumption 12). -/
def gatherTile (d : List Byte) (row : Nat) : Nat := mA d + row / 128 * mAstr d

/-- The table tiles that a GATHER reads. -/
def gatherTiles (s : State) (k : CraneCmd) (c : Nat) (d : List Byte) : List Nat :=
  (List.range (mIdxCount d)).flatMap (fun step =>
    (List.range (cwImm k.word)).map (fun i => gatherTile d (gatherRow s k c d step i)))

/-- What a GATHER reads: each step's row numbers, and the line of each row that it names. -/
def gatherReads (s : State) (k : CraneCmd) (c : Nat) (d : List Byte) : List Foot :=
  (List.range (mIdxCount d)).flatMap (fun step =>
    footAt c (mIdx d + 256 * step) (2 * cwImm k.word) false ::
      (List.range (cwImm k.word)).map (fun i =>
        let row := gatherRow s k c d step i
        footAt c (lineOff (gatherTile d row) 256 (row % 128)) 256 false))

def gatherFoot (s : State) (k : CraneCmd) (c : Nat) (d : List Byte) : List Foot :=
  gatherReads s k c d ++ partialsFoot c k.word d

/-- The descriptor checks of a GATHER. Its table rows are bfloat16 lines (R116), so both format codes are 2, with any pmode of
Table 04-1 that takes them. An idx_count other than k_len is taken as inconsistent (DESIGN CHOICE, assumption 77). -/
def gatherCause (s : State) (c : Nat) (bg : Bool) (k : CraneCmd) (d : List Byte) : Nat :=
  let w := k.word
  match modeOf w d with
  | none => 3
  | some m =>
    if decide (m = .block8) || arrayFieldsBad c w d m || decide (mIdxCount d = 0) || decide (mIdxCount d ≠ at_ d 0x28 2) then 3
    else if decide (dieBytes < mIdx d + 256 * mIdxCount d) || (gatherTiles s k c d).any (fun o => !pairOk c o 256) ||
        !partialsIn w d then 4
    else regionCause s c bg (footAt c (cwDesc w) 64 false :: gatherFoot s k c d)

/-! SPILL (R173). -/

def spInit (d : List Byte) : Bool := decide (at_ d 8 1 % 2 = 1)

def spillFoot (c : Nat) (d : List Byte) : List Foot :=
  (if spInit d then [] else partialFoot c (at_ d 0 4) false) ++ partialFoot c (at_ d 0 4) true ++
    [footAt c (at_ d 4 4) 32 true]

def spillCause (s : State) (c : Nat) (bg : Bool) (w : Word) (d : List Byte) : Nat :=
  if nonzeroIn d 9 64 || decide (2 ≤ at_ d 8 1) || offsBad [at_ d 0 4, at_ d 4 4] || decide (at_ d 4 4 % 32 ≠ 0) ||
      !partialOk c (at_ d 0 4) then 3
  else if !partialIn (at_ d 0 4) 16384 then 4
  else regionCause s c bg (footAt c (cwDesc w) 64 false :: spillFoot c d)

/-! DRAIN and TOPK (R174, R175). -/

def dOut (d : List Byte) : Nat := at_ d 0 4
def dPitch (d : List Byte) : Nat := at_ d 4 4
def dOutX (d : List Byte) : Nat := at_ d 8 4
def dOs (d : List Byte) : Nat := at_ d 0xC 4
def dOsPitch (d : List Byte) : Nat := at_ d 0x10 4
def dNsr (d : List Byte) : Nat := at_ d 0x14 4
def dPartial (d : List Byte) : Nat := at_ d 0x18 4
def dBias (d : List Byte) : Nat := at_ d 0x1C 4
def dAux (d : List Byte) : Nat := at_ d 0x20 4
def dAuxPitch (d : List Byte) : Nat := at_ d 0x24 4
def dElemBase (d : List Byte) : Nat := at_ d 0x48 8
def dElemPitch (d : List Byte) : Nat := at_ d 0x50 4
def dM (d : List Byte) : Nat := at_ d 0x54 1 + 1
def dN (d : List Byte) : Nat := at_ d 0x55 1 + 1
def dCtl (d : List Byte) : Nat := at_ d 0x56 2
def dFmt (d : List Byte) : Nat := dCtl d % 8
def dBlk (d : List Byte) : Nat := blkSize (dCtl d / 8)
def dBiasMode (d : List Byte) : Nat := dCtl d / 32 % 4
def dBit (d : List Byte) (n : Nat) : Bool := (dCtl d).testBit n
def dActSlot (d : List Byte) : Nat := dCtl d / 512 % 4

/-- Bytes of one output row. -/
def dWidth (w : Word) (d : List Byte) : Nat :=
  if cwOp w = 9 then cwImm w * (if dFmt d = 2 then 2 else 4)
  else if dFmt d ≤ 1 then (dN d + dBlk d - 1) / dBlk d * dBlk d
  else dN d * (if dFmt d = 3 then 4 else 2)

/-- The physical bank of the table that act_gen names (R182). -/
def resolveAct (s : State) (c slot gen : Nat) : Option Nat :=
  let cur := fget s (actGenField c slot)
  if gen = cur then some (ebbBank (crane s c) slot)
  else if fget s (F.craneActGenFloodValid c) / 2 ^ slot % 2 = 1 ∧ gen = (cur + 255) % 256 then
    some (floodBank (crane s c) slot)
  else none

/-- Clip bounds that R175 rejects. -/
def clipBad (d : List Byte) : Bool :=
  isNan (f32At d 0x2C) || isNan (f32At d 0x30) || nlt (f32At d 0x30) (f32At d 0x2C)

def drainFieldsBad (s : State) (c : Nat) (w : Word) (d : List Byte) : Bool :=
  let topk := decide (cwOp w = 9)
  nonzeroIn d 0x59 0x80 || decide (2 ^ 14 ≤ dCtl d) || decide (2 ^ 56 ≤ dElemBase d) ||
  offsBad [dOut d, dOutX d, dOs d, dNsr d, dPartial d, dBias d, dAux d] || decide (128 < dM d ∨ 128 < dN d) ||
  !(if topk then decide (dFmt d = 2 ∨ dFmt d = 3)
    else decide (dFmt d = 0 ∨ dFmt d = 1 ∨ dFmt d = 2 ∨ dFmt d = 3 ∨ dFmt d = 5)) ||
  decide (dBiasMode d = 3) || (dBit d 7 && clipBad d) || (topk && dBit d 13) ||
  (dBit d 8 && (resolveAct s c (dActSlot d) (at_ d 0x58 1)).isNone) ||
  (decide (dFmt d ≠ 5) && decide (dOutX d ≠ 0)) || (decide (1 < dFmt d) && decide (dOs d ≠ 0)) ||
  decide (dOut d % 64 ≠ 0) || decide (dPitch d % 64 ≠ 0) || decide (dNsr d % 32 ≠ 0) ||
  (decide (dBiasMode d ≠ 0) && decide (dBias d % 64 ≠ 0)) ||
  ((topk || dBit d 13) && decide (dAux d % 64 ≠ 0)) || (topk && decide (dAuxPitch d % 64 ≠ 0)) ||
  (dBit d 11 && !partialOk c (dPartial d))

/-- Die-local ranges that a DRAIN or TOPK reads and writes beyond its partial buffer. -/
def drainRanges (w : Word) (d : List Byte) : List (Nat × Nat × Bool) :=
  let topk := decide (cwOp w = 9)
  (if dBiasMode d = 0 then [] else [(dBias d, 512, false)]) ++
  (List.range (dM d)).flatMap (fun i =>
    [(dOut d + i * dPitch d, dWidth w d, true)] ++
    (if dFmt d = 5 then [(dOutX d + i * dPitch d, dWidth w d, true)] else []) ++
    (if dFmt d ≤ 1 then [(dOs d + i * dOsPitch d, dWidth w d / dBlk d, true)] else []) ++
    (if topk then [(dAux d + i * dAuxPitch d, 4 * cwImm w, true)] else [])) ++
  (if dBit d 13 && !topk then [(dAux d, 4 * dM d, true)] else []) ++ [(dNsr d, 32, true)]

def drainFoot (c : Nat) (w : Word) (d : List Byte) : List Foot :=
  (drainRanges w d).map (fun r => footAt c r.1 r.2.1 r.2.2) ++ (if dBit d 11 then partialFoot c (dPartial d) false else [])

def drainCause (s : State) (c : Nat) (bg : Bool) (w : Word) (d : List Byte) : Nat :=
  if drainFieldsBad s c w d then 3
  else if decide (dieBytes < cwDesc w + 128) || (drainRanges w d).any (fun r => decide (dieBytes < r.1 + r.2.1)) ||
      (dBit d 11 && !partialIn (dPartial d) 16384) then 4
  else regionCause s c bg (footAt c (cwDesc w) 128 false :: drainFoot c w d)

/-! PIVOT (R235, R236). -/

def pvLanes (d : List Byte) : Nat := at_ d 0x14 1 + 1

def pivotFoot (c : Nat) (d : List Byte) : List Foot :=
  footAt c (at_ d 0 4) (4 * pvLanes d) false ::
    (if at_ d 4 4 = 0 then [] else [footAt c (at_ d 4 4) (4 * pvLanes d) false]) ++
    [footAt c (at_ d 8 4) (4 * pvLanes d) true, footAt c (at_ d 0xC 4) 32 true]

def pivotCause (s : State) (c : Nat) (bg : Bool) (w : Word) (d : List Byte) : Nat :=
  if nonzeroIn d 0x15 64 || decide (128 < pvLanes d) || offsBad [at_ d 0 4, at_ d 4 4, at_ d 8 4, at_ d 0xC 4] ||
      decide (at_ d 0 4 % 64 ≠ 0 ∨ at_ d 8 4 % 64 ≠ 0 ∨ at_ d 0xC 4 % 32 ≠ 0) then 3
  else if decide (dieBytes < at_ d 0 4 + 4 * pvLanes d ∨ dieBytes < at_ d 4 4 + 4 * pvLanes d ∨
      dieBytes < at_ d 8 4 + 4 * pvLanes d ∨ dieBytes < at_ d 0xC 4 + 32) then 4
  else regionCause s c bg (footAt c (cwDesc w) 64 false :: pivotFoot c d)

/-! ROOTNS and CHOL (R231 to R236, Tables 08-4 and 08-5). -/

/-- Facets of a batch. -/
def svCount (d : List Byte) : Nat := at_ d 4 1 + 1
/-- Device address of facet entry e. -/
def svEntry (c : Nat) (d : List Byte) (e : Nat) : Nat := berthAddr (dieOfCrane c) (at_ d 0 4 + 64 * e)
/-- Blocks of a facet of size n. -/
def nbOf (n : Nat) : Nat := (n + 127) / 128
/-- Packed tiles of a facet. -/
def triTiles (nb : Nat) : Nat := nb * (nb + 1) / 2
/-- Place of tile (I, J), I ≤ J, in packed order (R232). -/
def packedTile (nb i j : Nat) : Nat := i * nb - i * (i - 1) / 2 + (j - i)

/-- The areas an entry names: b, x, m, s1, s2 and r where it is given. -/
def svAreas (e : List Byte) : List Nat :=
  [at_ e 8 4, at_ e 0xC 4, at_ e 0x10 4, at_ e 0x14 4, at_ e 0x18 4] ++ (if at_ e 0x1C 4 = 0 then [] else [at_ e 0x1C 4])

/-- Bytes that an area takes in each Berth of its pair. -/
def areaBytes (e : List Byte) : Nat := 32768 * triTiles (nbOf (at_ e 0 2))

/-- Two areas share bytes of some Berth: the pair of o is its Berth and the next. -/
def areasMeet (o1 n1 o2 n2 : Nat) : Bool :=
  let b1 := o1 / berthBytes
  let b2 := o2 / berthBytes
  decide (b1 ≤ b2 + 1 ∧ b2 ≤ b1 + 1) &&
    decide (o1 % berthBytes < o2 % berthBytes + n2 ∧ o2 % berthBytes < o1 % berthBytes + n1)

/-- No two areas of a list share bytes. -/
def areasApart : List (Nat × Nat) → Bool
  | [] => true
  | a :: rest => rest.all (fun b => !areasMeet a.1 a.2 b.1 b.2) && areasApart rest

/-- Whether a command is the start or first phase for its entries: init for ROOTNS, Factor of block 0 for CHOL. -/
def svFirst (w : Word) : Bool := if cwOp w = 0x10 then decide (cwImm w / 4 = 1) else decide (cwImm w = 0)

def svEntryBad (w : Word) (e : List Byte) : Bool :=
  decide (at_ e 0 2 = 0 ∨ 1024 < at_ e 0 2) || offsBad (svAreas e) || nonzeroIn e 0x30 64 ||
  (svFirst w && decide (at_ e 2 1 ≠ 0 ∧ at_ e 2 1 ≠ 0xFF)) ||
  (decide (at_ e 4 1 = 1) && decide (at_ e 0x1C 4 = 0)) || (decide (at_ e 4 1 = 0) && decide (at_ e 0x1C 4 ≠ 0)) || (svAreas e).any (fun o => decide (o % 16384 ≠ 0))

def svAreaOk (c : Nat) (e : List Byte) (o : Nat) : Bool :=
  decide (8 * (c % 8) ≤ o / berthBytes ∧ o / berthBytes ≤ 8 * (c % 8) + 6 ∧ o % berthBytes + areaBytes e ≤ berthBytes)

def solveCause (w : Word) (c : Nat) (d : List Byte) (entries : List (List Byte)) : Nat :=
  if decide (64 < svCount d) || decide (at_ d 0 4 % 64 ≠ 0) || offsBad [at_ d 0 4] || nonzeroIn d 6 8 || nonzeroIn d 0x10 64 ||
      (decide (cwOp w = 0x11) && (decide (at_ d 5 1 ≠ 0) || decide (at_ d 0xC 4 ≠ 0))) ||
      entries.any (svEntryBad w) ||
      entries.any (fun e => (svAreas e).any (fun o => !svAreaOk c e o)) ||
      !areasApart (entries.flatMap (fun e => (svAreas e).map (fun o => (o, areaBytes e)))) then 3
  else if dieBytes < at_ d 0 4 + 64 * svCount d then 4
  else 0

/-- The facet entries as a command reads them. -/
def svEntries (s : State) (k : CraneCmd) (c : Nat) (d : List Byte) : List (List Byte) :=
  (List.range (svCount d)).map (fun e => craneBytes s k (svEntry c d e) 64)

end Sys2Proof.Machine
end

