-- ==== Sys2Proof/Machine/Crane.lean ====
section
/-! DEFINITION. A Crane's queues, issue, checks, rejection, the drain interlock and retirement (R94, R95, R118 to R122,
R128 to R130, R136). -/

namespace Sys2Proof.Machine

/-! Commands of a queue. -/

def cmds (x : Crane) : Queue → List CraneCmd
  | .fg => x.fgCmds
  | .bg => x.bgCmds

def isBg : Queue → Bool
  | .fg => false
  | .bg => true

def putCmds (x : Crane) (q : Queue) (ks : List CraneCmd) : Crane :=
  match q with
  | .fg => { x with fgCmds := ks }
  | .bg => { x with bgCmds := ks }

/-- A command replaced, found by its identity. -/
def replaceCmd (k : CraneCmd) (ks : List CraneCmd) : List CraneCmd := ks.map (fun y => if y.uid = k.uid then k else y)

def setCmd (s : State) (c : Nat) (q : Queue) (k : CraneCmd) : State :=
  setCrane s c (putCmds (crane s c) q (replaceCmd k (cmds (crane s c) q)))

/-- The command has finished acting: done or ended with an error. -/
def ended (k : CraneCmd) : Bool := decide (k.phase = .done) || decide (k.phase = .error)

/-- It has issued and not begun its first step (R120). -/
def waitsToBegin (k : CraneCmd) : Bool := !k.begun && !ended k

/-- Commands of both queues that issued before k. -/
def earlierCmds (x : Crane) (k : CraneCmd) : List CraneCmd := (x.fgCmds ++ x.bgCmds).filter (fun y => decide (y.uid < k.uid))

/-- Every earlier command of the queue has passed its checks (R118). -/
def earlierChecked (x : Crane) (q : Queue) (k : CraneCmd) : Bool :=
  (cmds x q).all (fun y => decide (k.uid ≤ y.uid) || decide (y.phase ≠ .issued))

/-- Every earlier command that addresses a bank of k has ended, and for array steps every earlier array command (R120,
R129). -/
def clearAhead (x : Crane) (k : CraneCmd) : Bool :=
  (earlierCmds x k).all (fun y => ended y ||
    (!(usesBank y.word 0 && usesBank k.word 0) && !(usesBank y.word 1 && usesBank k.word 1) &&
      !(opArray (cwOp y.word) && opArray (cwOp k.word))))

/-- The first command of a queue with an opcode that is ready to act. -/
def readyCmd (s : State) (c : Nat) (q : Queue) (op : Nat) : Option CraneCmd :=
  let x := crane s c
  match (cmds x q).find? (fun k => decide (cwOp k.word = op) &&
      (match k.phase with | .checked => true | .segment _ gap => !gap | _ => false)) with
  | none => none
  | some k => if earlierChecked x q k && clearAhead x k then some k else none

/-- The in-flight count of a bank. -/
def bankOf (x : Crane) (b : Nat) : Bank := if b = 0 then x.bank0 else x.bank1
def putBank (x : Crane) (b : Nat) (v : Bank) : Crane := if b = 0 then { x with bank0 := v } else { x with bank1 := v }
def setBank (s : State) (c b : Nat) (v : Bank) : State := setCrane s c (putBank (crane s c) b v)

/-- As `readyCmd`, for a command that moves a bank: its in-flight count must be zero (R129). -/
def readyMover (s : State) (c : Nat) (q : Queue) (op : Nat) : Option CraneCmd :=
  match readyCmd s c q op with
  | none => none
  | some k => if (bankOf (crane s c) (cwBank k.word)).inflight = 0 then some k else none

/-! The queues. -/

/-- The oldest word in flight reaches the Crane's queue (R95). -/
def execCommandWordArrival (c : CraneIx) (s : State) : Out :=
  let x := crane s c.val
  match x.flight with
  | [] => turnedAway s
  | w :: rest => .next (setCrane s c.val { x with flight := rest, fgq := x.fgq ++ [w] })

/-- CRANE_STATE.bg_free follows the background queue. -/
def setBgFree (s : State) (c : Nat) : State := fput s (F.craneStateBgFree c) (64 - (crane s c).bgq.length)

/-- One word of a background list, at a die-local Berth offset, enters the background queue. -/
def appendBg (s : State) (c off : Nat) : State :=
  let x := crane s c
  let word := BitVec.ofNat 64 (readNat s (berthAddr (dieOfCrane c) off) 8)
  let s := setCrane s c { x with bgq := x.bgq ++ [(x.bgSeq, word)], bgSeq := x.bgSeq + 1 }
  setBgFree (sampleCrane (countEvent s 0 c 4 1 0) c true) c

/-- Words of the first list fetched while the queue has space; an exhausted list is dropped. -/
def fetchWords (s : State) (c : Nat) : Nat → State
  | 0 => s
  | n + 1 =>
    let x := crane s c
    match x.lists with
    | [] => s
    | (off, left) :: rest =>
      if left = 0 then fetchWords (setCrane s c { x with lists := rest }) c n
      else if 64 ≤ x.bgq.length then s
      else fetchWords (setCrane (appendBg s c off) c
        { crane (appendBg s c off) c with lists := (off + 8, left - 1) :: rest }) c n

/-- The lists of background commands fetched as far as the queue has space (R122). -/
def fetchLists (s : State) (c : Nat) : State := fetchWords s c (128 + (crane s c).lists.length)

def execBgListFetch (c : CraneIx) (s : State) : Out :=
  whenever (!(crane s c.val).lists.isEmpty && decide ((crane s c.val).bgq.length < 64)) (fetchLists s c.val) s

/-! Issue. -/

/-- Commands of a queue that have retired and that no completed cwait covers, with their sequence numbers. -/
def retiredOf (x : Crane) : Queue → List (Nat × BitVec 32)
  | .fg => x.fgDone
  | .bg => x.bgDone

/-- Identities of a queue's commands whose retirement nobody has observed (R119). -/
def unobserved (x : Crane) (q : Queue) : List Nat := (retiredOf x q).map (·.1) ++ (cmds x q).map (·.uid)

/-- Identities of the commands that a command issued now on Crane c is not ordered after: all but those that a cwait has
covered, and, with sync, those of its own queue (R119). -/
def notOrdered (s : State) (c : Nat) (q : Queue) (sync : Bool) : List Nat :=
  (List.range 16).flatMap (fun n => [Queue.fg, Queue.bg].flatMap (fun p =>
    if sync && decide (n = c ∧ p = q) then [] else unobserved (crane s n) p))

/-- The entries after the one with a sequence number, where it is there. -/
def pastSeq (seq : BitVec 32) (l : List (Nat × BitVec 32)) : List (Nat × BitVec 32) :=
  if l.any (fun p => decide (p.2 = seq)) then (l.dropWhile (fun p => decide (p.2 ≠ seq))).drop 1 else l

/-- A cwait on a sequence number of Crane c's foreground queue has completed: later commands are ordered after that command
and every one that retired before it (R119, R130). -/
def noteWaited (s : State) (c : Nat) (seq : BitVec 32) : State :=
  setCrane s c { crane s c with fgDone := pastSeq seq (crane s c).fgDone }

/-- Bank 1 is reserved for background commands (R121). -/
def bankReserved (x : Crane) : Bool := x.bgLast.isSome || x.bgPast

/-- The word may issue now: sync, bank 1, and the four places before the first step (R115, R120, R121). -/
def mayIssueWord (x : Crane) (q : Queue) (w : Word) : Bool :=
  (!cwSync w || (cmds x q).isEmpty) &&
  (match q with
   | .fg => !(bankReserved x && (usesBank w 1 || cwComplex w))
   | .bg => x.bgLast.isSome) &&
  decide (((x.fgCmds ++ x.bgCmds).filter waitsToBegin).length < 4)

/-- Every command of the foreground queue issued after one that was rejected ends with an error (R118). -/
def stopAfter (x : Crane) (uid : Nat) : Crane :=
  { x with fgCmds := x.fgCmds.map (fun y => if uid < y.uid then { y with phase := .error } else y) }

def craneRejectFields (c : Nat) : List Field :=
  [F.craneRejectSeq c, F.craneRejectOpcode c, F.craneRejectCause c, F.craneRejectBg c, F.craneRejectValid c]

/-- The first rejection is captured. Where several commands are rejected, the first is taken to be the first in time: a
command rejected at issue is captured before an earlier one that its descriptor rejects afterwards (DESIGN CHOICE, assumption
77). -/
def captureReject (s : State) (c : Nat) (bg : Bool) (k : CraneCmd) (cause : Nat) : State :=
  if flag s (F.craneRejectValid c) then s
  else
    fput (fputBool (fput (fput (fput s (F.craneRejectSeq c) k.seq.toNat) (F.craneRejectOpcode c) (cwOp k.word))
      (F.craneRejectCause c) cause) (F.craneRejectBg c) bg) (F.craneRejectValid c) 1

/-- A command rejected: it ends with an error and no effect; a foreground rejection stops the queue (R118). -/
def rejectCmd (s : State) (c : Nat) (q : Queue) (k : CraneCmd) (cause : Nat) : State :=
  let s := countEvent (captureReject s c (isBg q) k cause) 0 c 6 1 0
  let s := setCmd s c q { k with phase := .error }
  match q with
  | .bg => s
  | .fg => fput (setCrane s c (stopAfter (crane s c) k.uid)) (F.craneStateFgStopped c) 1

/-- The command issued from the head of a queue; ZERO and MARK have no descriptor to wait for. -/
def issueCmd (s : State) (c : Nat) (q : Queue) (seq : BitVec 32) (w : Word) : State :=
  let k : CraneCmd := { uid := s.uid, seq := seq, word := w, unordered := notOrdered s c q (cwSync w) }
  let x := crane s c
  let stopped := flag s (F.craneStateFgStopped c) && !isBg q
  let k := if stopped then { k with phase := .error } else if descLen (cwOp w) = 0 then { k with phase := .checked } else k
  let s := setCrane { s with uid := s.uid + 1 } c (putCmds x q (cmds x q ++ [k]))
  if !stopped && decide (wordCause (isBg q) w ≠ 0) then rejectCmd s c q k (wordCause (isBg q) w) else s

/-- The issue stage takes the next word of a queue (R120). -/
def execCraneCommandIssue (c : CraneIx) (q : Queue) (s : State) : Out :=
  let x := crane s c.val
  match q with
  | .fg =>
    match x.fgq with
    | [] => turnedAway s
    | (seq, w) :: rest =>
      whenever (flag s (F.craneStateFgStopped c.val) || mayIssueWord x .fg w)
        (issueCmd (setCrane s c.val { x with fgq := rest }) c.val .fg seq w) s
  | .bg =>
    match x.bgq with
    | [] => turnedAway s
    | (seq, w) :: rest =>
      whenever (mayIssueWord x .bg w)
        (issueCmd (setBgFree (setCrane s c.val { x with bgq := rest }) c.val) c.val .bg seq w) s

/-- The cause that a command's descriptor gives; the manual gives LOADACC none to check. -/
def descCause (s : State) (c : Nat) (q : Queue) (k : CraneCmd) (d : List Byte) : Nat :=
  match cwOp k.word with
  | 1 => mmaCause s c (isBg q) k.word d
  | 2 => gatherCause s c (isBg q) k d
  | 3 => spillCause s c (isBg q) k.word d
  | 8 => drainCause s c (isBg q) k.word d
  | 9 => drainCause s c (isBg q) k.word d
  | 0x12 => pivotCause s c (isBg q) k.word d
  | 0x10 => solveCause k.word c d (svEntries s k c d)
  | 0x11 => solveCause k.word c d (svEntries s k c d)
  | _ => 0

/-- The table slot and bank that a DRAIN or TOPK resolves as its descriptor arrives (R182). -/
def resolvedBank (s : State) (c : Nat) (k : CraneCmd) (d : List Byte) : Option (Nat × Nat) :=
  if (cwOp k.word = 8 ∨ cwOp k.word = 9) ∧ dBit d 8 = true then
    (resolveAct s c (dActSlot d) (at_ d 0x58 1)).map (fun b => (dActSlot d, b))
  else none

/-- The next command of a queue that waits for its descriptor. -/
def awaiting (x : Crane) (q : Queue) : Option CraneCmd := (cmds x q).find? (fun k => decide (k.phase = .issued))

/-- A descriptor arrives, with the errors that its read and the command's operand reads meet (assumption 84). One that would begin outside the die's Berths cannot: the offset has 29 bits. -/
def execCraneDescriptorArrival (c : CraneIx) (q : Queue) (errs : List MemErr) (s : State) : Out :=
  match awaiting (crane s c.val) q with
  | none => turnedAway s
  | some k =>
    let s := meetErrors s errs
    let n := descLen (cwOp k.word)
    let a := berthAddr (dieOfCrane c.val) (cwDesc k.word)
    let d := craneBytes s k a n
    let t := consumeFoot (spendFree s) s c.val [⟨a, n, false⟩]
    let cause := descCause s c.val q k d
    .next (if cause ≠ 0 then rejectCmd t c.val q { k with desc := d } cause
      else setCmd t c.val q { k with desc := d, phase := .checked, actBank := resolvedBank s c.val k d })

/-! The drain interlock and retirement. -/

/-- A command's steps in flight have been accumulated in the banks it addresses. -/
def drainSteps (x : Crane) (k : CraneCmd) : Crane :=
  let n := k.steps - k.accumulated
  let x := if usesBank k.word 0 then putBank x 0 { x.bank0 with inflight := x.bank0.inflight - n } else x
  if usesBank k.word 1 then putBank x 1 { x.bank1 with inflight := x.bank1.inflight - n } else x

/-- Every step in flight for a bank has been accumulated: a complex MMA's in both banks. -/
def settleBank (x : Crane) (b : Nat) : Crane :=
  let f := fun (k : CraneCmd) => if usesBank k.word b then { k with accumulated := k.steps } else k
  let x := ((x.fgCmds ++ x.bgCmds).filter (fun k => usesBank k.word b)).foldl drainSteps x
  putBank { x with fgCmds := x.fgCmds.map f, bgCmds := x.bgCmds.map f } b { bankOf x b with inflight := 0 }

/-- A command that moves the bank waits only for its in-flight count. -/
def moverWaits (x : Crane) (b : Nat) : Bool :=
  [Queue.fg, Queue.bg].any (fun q => (cmds x q).any (fun k =>
    opMover (cwOp k.word) && decide (cwBank k.word = b) && decide (k.phase = .checked) && earlierChecked x q k && clearAhead x k))

/-- The count of a bank reaches zero, and a waiting DRAIN, TOPK, SPILL, ZERO or LOADACC may begin (R129). -/
def execDrainInterlockRelease (c : CraneIx) (bank : Bool) (s : State) : Out :=
  let b := if bank then 1 else 0
  whenever (moverWaits (crane s c.val) b && decide ((bankOf (crane s c.val) b).inflight ≠ 0))
    (setCrane s c.val (settleBank (crane s c.val) b)) s

/-- A command leaves its queue and joins those that have retired. -/
def leaveQueue (x : Crane) (q : Queue) (k : CraneCmd) (rest : List CraneCmd) : Crane :=
  let x := putCmds x q rest
  match q with
  | .fg => { x with fgDone := x.fgDone ++ [(k.uid, k.seq)] }
  | .bg => { x with bgDone := x.bgDone ++ [(k.uid, k.seq)] }

/-- The tagged command of sampling completes as it retires (R413). -/
def completeTag (s : State) (c : Nat) (q : Queue) (k : CraneCmd) : State :=
  match Tab.get none s.perf.craneTag c with
  | some t =>
    if t.idx = k.seq.toNat ∧ t.low = isBg q ∧ t.doneAt = none then
      let t' := { t with doneAt := some s.tide.now, rejected := decide (k.phase = .error), spilled := k.spilled, steps := k.steps }
      { s with perf := { s.perf with craneTag := Tab.set none s.perf.craneTag c (some t') } }
    else s
  | none => s

/-- Bank 1 is released once the last slot of the entry has passed and its background commands have retired (R121).
CRANE_STATE.bg_entry, "active and bank 1 is reserved" (Table 04-8), stays 1 until then (DESIGN CHOICE, assumption 77). -/
def execBank1Release (c : CraneIx) (s : State) : Out :=
  let x := crane s c.val
  whenever (x.bgPast && !x.bgLast.isSome && x.bgCmds.isEmpty)
    (fput (setCrane s c.val { x with bgPast := false }) (F.craneStateBgEntry c.val) 0) s

end Sys2Proof.Machine
end

