-- ==== Sys2Proof/Machine/CraneOps.lean ====
section
/-! DEFINITION. What the Crane commands of the foreground do: MMA and GATHER with their segments and spills, SPILL, ZERO,
LOADACC, DRAIN, TOPK, PIVOT and MARK (R109 to R114, R152 to R154, R167 to R173, R176 to R180, R186, R235, R381). -/

namespace Sys2Proof.Machine

/-! Operands (R111 to R114). -/

/-- Where stored element (r, c) of a tile lies. -/
def tileAddr (cr : Nat) (wide : Bool) (off r c : Nat) : Nat :=
  berthAddr (dieOfCrane cr) (off + r / 64 * berthBytes +
    (if wide then r % 64 * 256 + 2 * ((c + 128 - r) % 128) else r % 64 * 128 + (c + 256 - 2 * r) % 128))

/-- Stored element (r, c) of a bfloat16 tile. -/
def bfElem (s : State) (k : CraneCmd) (cr off r c : Nat) : Num := decode bf16 (craneNat s k (tileAddr cr true off r c) 2)

/-- The scale byte of stored element (r, c), for blocks of b (R113). -/
def scaleByte (s : State) (k : CraneCmd) (cr soff b r c : Nat) : Byte :=
  craneByte s k (berthAddr (dieOfCrane cr) (soff + r * (128 / b) + c / b))

/-- The place in its tile that lane x takes in step kk: Table 04-2 with `across` for the orientations that read columns. -/
def tilePlace (across : Bool) (kk x : Nat) : Nat × Nat := if across then (x, kk % 128) else (kk % 128, x)

/-- Operand A of step kk in row i, from the part 0 (hi, real) or 1 (lo, imaginary). -/
def aOperand (s : State) (k : CraneCmd) (cr : Nat) (d : List Byte) (m : Mode) (part kk i : Nat) : Num :=
  if mM d ≤ i then nzero
  else
    let p := tilePlace (!cwTa k.word) kk i
    let off := (if part = 0 then mA d else mAx d) + kk / 128 * mAstr d
    if m = .block8 then
      scaled8 (decide (mAfmt d = 1)) (scaleByte s k cr (mAs d + kk / 128 * mSstr d) (mAblk d) p.1 p.2)
        (craneByte s k (tileAddr cr false off p.1 p.2))
    else bfElem s k cr off p.1 p.2

/-- Operand B of step kk in column j. -/
def bOperand (s : State) (k : CraneCmd) (cr : Nat) (d : List Byte) (m : Mode) (part kk j : Nat) : Num :=
  if mN d ≤ j then nzero
  else
    let p := tilePlace (cwTb k.word) kk j
    let off := (if part = 0 then mB d else mBx d) + kk / 128 * mBstr d
    if m = .block8 then
      scaled8 (decide (mBfmt d = 1)) (scaleByte s k cr (mBs d + kk / 128 * mSstr d) (mBblk d) p.1 p.2)
        (craneByte s k (tileAddr cr false off p.1 p.2))
    else bfElem s k cr off p.1 p.2

/-- A valid operand element of steps [lo, hi) lies in a block whose scale is reserved (R145). -/
def readsReserved (s : State) (k : CraneCmd) (cr : Nat) (d : List Byte) (m : Mode) (lo hi : Nat) : Bool :=
  decide (m = .block8) && (List.range (hi - lo)).any (fun n =>
    let kk := lo + n
    (List.range (mM d)).any (fun i =>
      let p := tilePlace (!cwTa k.word) kk i
      decide (scaleByte s k cr (mAs d + kk / 128 * mSstr d) (mAblk d) p.1 p.2 = 0xFF)) ||
    (List.range (mN d)).any (fun j =>
      let p := tilePlace (cwTb k.word) kk j
      decide (scaleByte s k cr (mBs d + kk / 128 * mSstr d) (mBblk d) p.1 p.2 = 0xFF)))

/-! Terms and sums (R109, R110, R152 to R154, R168). -/

/-- The terms that one step adds to a bank, in order. -/
def stepTerms (m : Mode) (bank : Nat) (a0 a1 b0 b1 : Num) : List Num :=
  match m with
  | .block8 => [nmul a0 b0]
  | .bf => [nmul a0 b0]
  | .pass2 => if isFinite a0 && isFinite b0 then [nmul a0 b0, nmul a1 b0] else [nmul a0 b0, nzero]
  | .pass3 =>
    if isFinite a0 && isFinite b0 then [nmul a0 b0, nmul a0 b1, nmul a1 b0] else [nmul a0 b0, nzero, nzero]
  | .complex4 =>
    if bank = 0 then [nmul a0 b0, nneg (nmul a1 b1)] else [nmul a0 b1, nmul a1 b0]
  | .gauss =>
    let s1 := rtoBf (nadd a0 a1)
    if bank = 0 then [nmul b0 s1, nneg (nmul a1 (rtoBf (nadd b0 b1)))]
    else [nmul b0 s1, nmul a0 (rtoBf (nsub b1 b0))]

/-- One addition into a bank element, with its saturation bit (R154). -/
def bankAdd (a : Num × Bool) (t : Num) : Num × Bool :=
  let x := nadd a.1 t
  (rto32 x, a.2 || exceeds f32 x)

/-- The terms of step kk at element (i, j) of a bank. -/
def mmaTerms (s : State) (k : CraneCmd) (cr : Nat) (d : List Byte) (m : Mode) (bank i j kk : Nat) : List Num :=
  stepTerms m bank (aOperand s k cr d m 0 kk i) (if hasAx m then aOperand s k cr d m 1 kk i else nzero)
    (bOperand s k cr d m 0 kk j) (if hasBx m then bOperand s k cr d m 1 kk j else nzero)

/-- The term of a GATHER's step at element (i, j): the gathered row's value, none above the rows per step (R116). -/
def gatherTerms (s : State) (k : CraneCmd) (cr : Nat) (d : List Byte) (i j kk : Nat) : List Num :=
  if cwImm k.word ≤ i then []
  else if mM d ≤ i ∨ mN d ≤ j then [nzero]
  else
    let row := gatherRow s k cr d kk i
    [bfElem s k cr (gatherTile d row) (row % 128) j]

/-- An element after steps [lo, hi). -/
def runSteps (terms : Nat → List Num) (lo hi : Nat) (a : Num × Bool) : Num × Bool :=
  (List.range (hi - lo)).foldl (fun a n => (terms (lo + n)).foldl bankAdd a) a

/-- A bank after steps [lo, hi) of a command; the first step of a command with acc clear replaces what it held. -/
def bankAfter (b : Bank) (fresh : Bool) (terms : Nat → Nat → Nat → List Num) (lo hi : Nat) (rsv poison : Bool) : Bank :=
  let start := fun i => if fresh then (nzero, false) else (dec32 (Tab.get 0 b.vals i), Tab.get false b.sat i)
  let out := fun i => runSteps (terms (i / 128) (i % 128)) lo hi (start i)
  { b with
    vals := Tab.build 0 16384 (fun i => enc32 (out i).1)
    sat := Tab.build false 16384 (fun i => (out i).2)
    rsv := rsv || (!fresh && b.rsv)
    poison := poison || (!fresh && b.poison) }

/-- Steps entered before the next segment of a command. -/
def stepsBefore (k : CraneCmd) : Nat :=
  match k.phase with
  | .segment n _ => n
  | _ => 0

/-- The reading of an array command's operands consumes poison once, as its first segment begins. -/
def operandFoot (s : State) (k : CraneCmd) (c : Nat) : List Foot :=
  if cwOp k.word = 2 then gatherReads s k c k.desc
  else
    match modeOf k.word k.desc with
    | none => []
    | some m => mmaReads c k.word k.desc m

def arrayTerms (s : State) (k : CraneCmd) (c : Nat) (m : Mode) (bank i j kk : Nat) : List Num :=
  if cwOp k.word = 2 then gatherTerms s k c k.desc i j kk else mmaTerms s k c k.desc m bank i j kk

/-- A bank of an array command after its next segment. -/
def segmentBank (s : State) (k : CraneCmd) (c : Nat) (m : Mode) (lo hi bank : Nat) : Bank :=
  bankAfter (bankOf (crane s c) bank) (decide (lo = 0) && !cwAcc k.word) (arrayTerms s k c m bank) lo hi
    (decide (cwOp k.word = 1) && readsReserved s k c k.desc m lo hi) (decide (lo = 0) && readsPoison s (operandFoot s k c))

/-- The in-flight count rises with the steps that enter (R128). -/
def addFlight (b : Bank) (n : Nat) : Bank := { b with inflight := b.inflight + n }

/-- The steps of one segment enter; a command with a further segment waits for its automatic spill (R168, R171). -/
def runSegment (s : State) (c : Nat) (q : Queue) (k : CraneCmd) : State :=
  let lo := stepsBefore k
  let total := mSteps k.word k.desc
  let hi := if lo + mKspill k.desc < total then lo + mKspill k.desc else total
  let m := (modeOf k.word k.desc).getD .bf
  let x := crane s c
  let x := if usesBank k.word 0 then putBank x 0 (addFlight (segmentBank s k c m lo hi 0) (hi - lo)) else x
  let x := if usesBank k.word 1 then putBank x 1 (addFlight (segmentBank s k c m lo hi 1) (hi - lo)) else x
  let t := setCmd (setCrane s c x) c q
    { k with begun := true, steps := hi, phase := if hi < total then .segment hi true else .done }
  if lo = 0 then consumeFoot (spendFree t) s c (operandFoot s k c) else spendFree t

def execMma (c : CraneIx) (q : Queue) (s : State) : Out :=
  match readyCmd s c.val q 1 with
  | none => turnedAway s
  | some k => .next (runSegment s c.val q k)

def execGather (c : CraneIx) (q : Queue) (s : State) : Out :=
  match readyCmd s c.val q 2 with
  | none => turnedAway s
  | some k => .next (runSegment s c.val q k)

/-! Spills (R170 to R173). -/

/-- Element (i, j) of a partial buffer. -/
def partialElem (s : State) (k : CraneCmd) (c off i j : Nat) : Num :=
  decode f64 (craneNat s k (partialAddr c off i j) 8)

/-- A partial buffer's bytes, as eight writes of one Berth each. -/
def partialWrites (c off : Nat) (p : Nat → Nat → Num) : List (Nat × List Byte) :=
  (List.range 8).map (fun b => (berthAddr (dieOfCrane c) (off + b * berthBytes),
    (List.range 2048).flatMap (fun n => bytesOfNat 8 (encode f64 (p (n / 16) (16 * b + n % 16))))))

/-- A bank's element as a number. -/
def bankElem (b : Bank) (i j : Nat) : Num := dec32 (Tab.get 0 b.vals (128 * i + j))

/-- The partial after an automatic spill: initialised by the first spill of a command with acc clear, else added to. -/
def spilledElem (s : State) (k : CraneCmd) (c off : Nat) (b : Bank) (first : Bool) (i j : Nat) : Num :=
  if first then bankElem b i j else add64 (partialElem s k c off i j) (bankElem b i j)

/-- One bank spilled: its partial written and the bank zeroed; its saturation bits stay with the command's sum. -/
def spillBank (s : State) (k : CraneCmd) (c b off : Nat) (first : Bool) : State :=
  let bk := bankOf (crane s c) b
  let reads := if first then [] else partialFoot c off false
  let poison := bk.poison || readsPoison s reads
  let t := craneWrites s k poison (partialWrites c off (spilledElem s k c off bk first))
  let t := setBank t c b { bk with vals := [], poison := poison, inflight := bk.inflight - (k.steps - k.accumulated) }
  consumeFoot t s c reads

/-- The command whose segment has ended and waits for its spill. -/
def spillingCmd (s : State) (c : Nat) (q : Queue) : Option CraneCmd :=
  (cmds (crane s c) q).find? (fun k => match k.phase with | .segment _ gap => gap | _ => false)

def execAutomaticSpill (c : CraneIx) (q : Queue) (s : State) : Out :=
  match spillingCmd s c.val q with
  | none => turnedAway s
  | some k =>
    let first := decide (k.steps = mKspill k.desc) && !cwAcc k.word
    let o := mSpill k.desc
    let t := if twoBanks k.word then spillBank (spillBank s k c.val 0 o first) k c.val 1 (o + 16384) first
      else spillBank s k c.val (cwBank k.word) o first
    .next (setCmd (spendFree t) c.val q { k with phase := .segment k.steps false, spilled := true, accumulated := k.steps })

/-- The record of a SPILL: every element of the bank counted as it is converted to binary64. -/
def spillNsr (p exact : Nat → Nat → Num) (b : Bank) : Nsr :=
  (List.range 16384).foldl (fun n idx =>
    countElem n f64 ⟨exact (idx / 128) (idx % 128), Tab.get false b.sat idx, idx, .odd⟩ (exact (idx / 128) (idx % 128))
      (p (idx / 128) (idx % 128))) {}

/-- The exact value that a SPILL narrows into element (i, j) of the partial. -/
def spillExact (s : State) (k : CraneCmd) (c : Nat) (b : Bank) (i j : Nat) : Num :=
  if spInit k.desc then bankElem b i j else nadd (partialElem s k c (at_ k.desc 0 4) i j) (bankElem b i j)

/-- A mover has finished with its bank. -/
def finishMover (s : State) (c : Nat) (q : Queue) (k : CraneCmd) (b : Bank) : State :=
  setCmd (setBank s c (cwBank k.word) b) c q { k with begun := true, phase := .done }

def execSpill (c : CraneIx) (q : Queue) (s : State) : Out :=
  match readyMover s c.val q 3 with
  | none => turnedAway s
  | some k =>
    let d := k.desc
    let b := bankOf (crane s c.val) (cwBank k.word)
    let fp := spillFoot c.val d
    let poison := b.poison || readsPoison s fp
    let exact := spillExact s k c.val b
    let p := fun i j => rto64 (exact i j)
    let t := craneWrites s k poison (partialWrites c.val (at_ d 0 4) p)
    let t := craneWrite t k false (berthAddr (dieOfCrane c.val) (at_ d 4 4))
      (nsrBytes (spillNsr p exact b) 6 b.rsv false (isBg q) poison k.seq.toNat)
    .next (finishMover (consumeFoot (spendFree t) s c.val fp) c.val q k { b with vals := [], poison := false })

/-! ZERO and LOADACC. -/

def execZero (c : CraneIx) (q : Queue) (s : State) : Out :=
  match readyMover s c.val q 4 with
  | none => turnedAway s
  | some k => .next (finishMover s c.val q k {})

/-- The manual gives LOADACC no descriptor and no place for its tile: the values it loads, and whether they are poisoned,
are free (assumption 13). -/
def execLoadacc (c : CraneIx) (q : Queue) (s : State) : Out :=
  match readyMover s c.val q 5 with
  | none => turnedAway s
  | some k =>
    let b : Bank := { vals := Tab.build 0 16384 (fun i => (freeAt s i).setWidth 32), poison := freeChoice s 16384 }
    .next (finishMover (tookFree s 16385) c.val q k b)

/-! DRAIN and TOPK (R169, R176 to R180, R186). -/

/-- The value of an element before the stages, and its saturation bit (R169). -/
def drainSource (s : State) (k : CraneCmd) (c : Nat) (b : Bank) (i j : Nat) : Num × Bool :=
  let x := bankElem b i j
  let sat := Tab.get false b.sat (128 * i + j)
  if dBit k.desc 11 then
    let f := add64 (partialElem s k c (dPartial k.desc) i j) x
    (rto32 f, sat || exceeds f32 f)
  else (x, sat)

/-- A bias value. -/
def biasAt (s : State) (k : CraneCmd) (c n : Nat) : Num :=
  decode f32 (craneNat s k (berthAddr (dieOfCrane c) (dBias k.desc + 4 * n)) 4)

/-- min(max(y, lo), hi); a NaN stays NaN. -/
def clip (lo hi y : Num) : Num := if isNan y then y else nmin (nmax y lo) hi

/-- The element index that a draw of element (i, j) uses (Table 06-6). -/
def drawIdx (d : List Byte) (i j : Nat) : Nat := dElemBase d + i * dElemPitch d + j

/-- The word n of the table a command resolved. -/
def tableWord (x : Crane) (k : CraneCmd) (n : Nat) : BitVec 32 :=
  match k.actBank with
  | some (slot, bank) => actWord x slot bank n
  | none => actIdentity n

/-- Stages 2 to 6 of Table 06-4. -/
def drainStages (s : State) (k : CraneCmd) (c i j : Nat) (y : Num) : Num :=
  let d := k.desc
  let key := BitVec.ofNat 64 (at_ d 0x40 8)
  let y := mul64 y (f32At d 0x28)
  let y := if dBiasMode d = 0 then y else add64 y (biasAt s k c (if dBiasMode d = 1 then j else i))
  let y := if dBit d 7 then clip (f32At d 0x2C) (f32At d 0x30) y else y
  let y := if dBit d 8 then act (tableWord (crane s c) k) y else y
  if dBit d 12 then
    if dropped (draw s.job.seed key 3 (drawIdx d i j)) (BitVec.ofNat 32 (at_ d 0x38 4)) then nzero
    else mul64 y (f32At d 0x34)
  else y

/-- Row i after stage 6, with the saturation bits. -/
def drainRow (s : State) (k : CraneCmd) (c : Nat) (b : Bank) (i : Nat) : List (Num × Bool) :=
  (List.range (dN k.desc)).map (fun j =>
    let x := drainSource s k c b i j
    (drainStages s k c i j x.1, x.2))

/-- Row i as elements to convert: into YF8G stochastically, else to nearest even (Table 06-5). -/
def drainElems (s : State) (k : CraneCmd) (i : Nat) (row : List (Num × Bool)) : List CElem :=
  let d := k.desc
  (List.range row.length).map (fun j =>
    let y := row.getD j (nzero, false)
    ⟨y.1, y.2, i * dN d + j,
      if dFmt d = 1 then .stoch (drawLow16 (draw s.job.seed (BitVec.ofNat 64 (at_ d 0x40 8)) 1 (drawIdx d i j))) else .rne⟩)

/-- The writes of one row of a DRAIN, as die-local offsets, and the counts. -/
def drainRowOut (d : List Byte) (i : Nat) (xs : List CElem) (n : Nsr) : List (Nat × List Byte) × Nsr :=
  let at1 := dOut d + i * dPitch d
  if dFmt d ≤ 1 then
    let (es, cs, n') := convBlocks (decide (dFmt d = 1)) (dBlk d) (chunks (dBlk d) 128 xs) n
    ([(at1, cs), (dOs d + i * dOsPitch d, es)], n')
  else if dFmt d = 5 then
    let (hs, ls, n') := convPairs xs n
    ([(at1, hs), (dOutX d + i * dPitch d, ls)], n')
  else if dFmt d = 2 then
    let (bs, n') := convScalars bf16 2 xs n
    ([(at1, bs)], n')
  else
    let (bs, n') := convScalars f32 4 xs n
    ([(at1, bs)], n')

/-- The row sum of R180. -/
def rowSum (row : List (Num × Bool)) : Num := rne32 (row.foldl (fun a y => add64 a y.1) nzero)

/-- All rows of a DRAIN. -/
def drainRows (s : State) (k : CraneCmd) (c : Nat) (b : Bank) : List Nat → Nsr → List (Nat × List Byte) × Nsr
  | [], n => ([], n)
  | i :: rest, n =>
    let row := drainRow s k c b i
    let (ws, n1) := drainRowOut k.desc i (drainElems s k i row) n
    let sums := if dBit k.desc 13 then [(dAux k.desc + 4 * i, bytesOfNat 4 (encode f32 (rowSum row)))] else []
    let (more, n2) := drainRows s k c b rest n1
    (ws ++ sums ++ more, n2)

/-- Column a ranks above column b, of two whose values are given; equal values fall to the lower column (R186). -/
def ranksAbove (ya yb : Num) : Bool := if isNan yb then !isNan ya else nlt yb ya

def rankInsert (ys : Nat → Num) (j : Nat) : List Nat → List Nat
  | [] => [j]
  | x :: rest => if ranksAbove (ys j) (ys x) then j :: x :: rest else x :: rankInsert ys j rest

/-- The columns of a row in rank order. -/
def rankOrder (ys : Nat → Num) (n : Nat) : List Nat := (List.range n).foldl (fun l j => rankInsert ys j l) []

/-- One row of a TOPK: values and positions, and the counts. -/
def topkRowOut (w : Word) (d : List Byte) (i : Nat) (row : List (Num × Bool)) (n : Nsr) : List (Nat × List Byte) × Nsr :=
  let k := cwImm w
  let ys := fun j => (row.getD j (nzero, false)).1
  let order := (rankOrder ys row.length).take k
  let xs := (List.range order.length).map (fun r =>
    let y := row.getD (order.getD r 0) (nzero, false)
    (⟨y.1, y.2, i * k + r, .rne⟩ : CElem))
  let width := if dFmt d = 2 then 2 else 4
  let (bs, n') := convScalars (if dFmt d = 2 then bf16 else f32) width xs n
  let pos := order.flatMap (fun j => bytesOfNat 4 ((at_ d 0x3C 4 + j) % 2 ^ 32))
  ([(dOut d + i * dPitch d, bs ++ List.replicate (width * (k - order.length)) 0),
    (dAux d + i * dAuxPitch d, pos ++ List.replicate (4 * (k - order.length)) 0xFF)], n')

def topkRows (s : State) (k : CraneCmd) (c : Nat) (b : Bank) : List Nat → Nsr → List (Nat × List Byte) × Nsr
  | [], n => ([], n)
  | i :: rest, n =>
    let (ws, n1) := topkRowOut k.word k.desc i (drainRow s k c b i) n
    let (more, n2) := topkRows s k c b rest n1
    (ws ++ more, n2)

/-- Outputs, then the record, then the bank is zero with its bits, flag and poison mark cleared (R165, R167, R381). -/
def finishDrain (s : State) (c : Nat) (q : Queue) (k : CraneCmd) (out : List (Nat × List Byte) × Nsr) : State :=
  let d := k.desc
  let b := bankOf (crane s c) (cwBank k.word)
  let fp := drainFoot c k.word d
  let poison := b.poison || readsPoison s fp
  let t := craneWrites s k poison (out.1.map (fun w => (berthAddr (dieOfCrane c) w.1, w.2)))
  let t := craneWrite t k false (berthAddr (dieOfCrane c) (dNsr d))
    (nsrBytes out.2 (dFmt d) b.rsv (decide (dFmt d = 1)) (isBg q) poison k.seq.toNat)
  finishMover (consumeFoot (spendFree t) s c fp) c q k {}

def execDrain (c : CraneIx) (q : Queue) (s : State) : Out :=
  match readyMover s c.val q 8 with
  | none => turnedAway s
  | some k =>
    .next (finishDrain s c.val q k (drainRows s k c.val (bankOf (crane s c.val) (cwBank k.word)) (List.range (dM k.desc)) {}))

def execTopk (c : CraneIx) (q : Queue) (s : State) : Out :=
  match readyMover s c.val q 9 with
  | none => turnedAway s
  | some k =>
    .next (finishDrain s c.val q k (topkRows s k c.val (bankOf (crane s c.val) (cwBank k.word)) (List.range (dM k.desc)) {}))

/-! PIVOT and MARK. -/

/-- A lane of PIVOT: its result, and its zero and tiny flags (R235). -/
def pivotLane (rsq : Bool) (x : Num) (tiny : Bool) : Num × Bool × Bool :=
  let zero := isNan x || (if rsq then nle x nzero else isZero x)
  (if zero || tiny then nzero
   else if rsq then rto32 (nsqrt (ndiv (largest f32) none1 x)) else rto32 (ndiv (largest f32) none1 x), zero, tiny)

def pivotLanes (s : State) (k : CraneCmd) (c : Nat) : List (Num × Bool × Bool) :=
  let d := k.desc
  let lane := fun off l => decode f32 (craneNat s k (berthAddr (dieOfCrane c) (off + 4 * l)) 4)
  (List.range (pvLanes d)).map (fun l =>
    let x := lane (at_ d 0 4) l
    pivotLane (decide (cwImm k.word = 1)) x
      (decide (at_ d 4 4 ≠ 0) && nle (nabs x) (nmul (f32At d 0x10) (lane (at_ d 4 4) l))))

/-- Flag bytes of 128 lanes. -/
def laneBits (f : Nat → Bool) : List Byte :=
  (List.range 16).map (fun i => BitVec.ofNat 8 ((List.range 8).foldl (fun a b => a + (if f (8 * i + b) then 2 ^ b else 0)) 0))

def execPivot (c : CraneIx) (q : Queue) (s : State) : Out :=
  match readyCmd s c.val q 0x12 with
  | none => turnedAway s
  | some k =>
    let d := k.desc
    let ls := pivotLanes s k c.val
    let fp := pivotFoot c.val d
    let lane := fun l => ls.getD l (nzero, false, false)
    let t := craneWrites s k (readsPoison s fp)
      [(berthAddr (dieOfCrane c.val) (at_ d 8 4), ls.flatMap (fun y => bytesOfNat 4 (encode f32 y.1))),
       (berthAddr (dieOfCrane c.val) (at_ d 0xC 4), laneBits (fun l => (lane l).2.1) ++ laneBits (fun l => (lane l).2.2))]
    .next (setCmd (consumeFoot (spendFree t) s c.val fp) c.val q { k with begun := true, phase := .done })

/-- MARK acts once every earlier command of its queue has retired. -/
def execMark (c : CraneIx) (q : Queue) (s : State) : Out :=
  match cmds (crane s c.val) q with
  | [] => turnedAway s
  | k :: _ =>
    whenever (decide (cwOp k.word = 0x3F) && decide (k.phase = .checked))
      (setCmd s c.val q { k with begun := true, phase := .done }) s

end Sys2Proof.Machine
end

