-- ==== Sys2Proof/Machine/Solve.lean ====
section
/-! DEFINITION. The solver commands ROOTNS and CHOL (R218 to R226, R231 to R234). Matrices are held as lists of rows of
pairs; the area of a matrix is read and written whole. -/

namespace Sys2Proof.Machine

/-- An n × n matrix of bfloat16 pairs, row by row. -/
abbrev PMat := List (List (Num × Num))
/-- An n × n matrix of binary32 values. -/
abbrev SMat := List (List Num)

def pElem (m : PMat) (i j : Nat) : Num × Num := (m.getD i []).getD j (nzero, nzero)
def sElem (m : SMat) (i j : Nat) : Num := (m.getD i []).getD j nzero
def sBuild (n : Nat) (f : Nat → Nat → Num) : SMat := (List.range n).map (fun i => (List.range n).map (f i))

/-- The pair split of R151. -/
def splitPair (x : Num) : Num × Num := (rtoBf x, loPart .odd x)
def splitMat (m : SMat) : PMat := m.map (fun r => r.map splitPair)
/-- The value of a pair. -/
def pairVal (p : Num × Num) : Num := nadd p.1 p.2

/-- Element (i, j) of a matrix whose tiles with I ≤ J are formed and whose others are their transposes (R218, R219). -/
def byTiles (f : Nat → Nat → Num) (i j : Nat) : Num := if i / 128 ≤ j / 128 then f i j else f j i

/-- The sum of a PASSES 3 MMA over the indices of a list, from a zero bank (R109, R152, R168). -/
def sum3 (ks : List Nat) (a b : Nat → Num × Num) : Num :=
  (ks.foldl (fun acc k => (stepTerms .pass3 1 (a k).1 (a k).2 (b k).1 (b k).2).foldl bankAdd acc) (nzero, false)).1

/-- The bank values of a product. -/
def prodBank (n : Nat) (a b : PMat) : SMat :=
  sBuild n (byTiles (fun i j => sum3 (List.range n) (fun k => pElem a i k) (fun k => pElem b k j)))

/-- A product drained and split. -/
def prod (n : Nat) (a b : PMat) : PMat := splitMat (prodBank n a b)

/-- The order p of a pcode. -/
def orderOf (pcode : Nat) : Nat := if pcode = 0 then 1 else if pcode = 1 then 2 else 4

/-- a^p · b as bank values. -/
def powProdBank (n p : Nat) (a b : PMat) : SMat :=
  if p = 1 then prodBank n a b
  else if p = 2 then prodBank n (prod n a a) b
  else prodBank n (prod n (prod n a a) (prod n a a)) b

/-- The residual of R220 from the bank values of M. -/
def residual (n : Nat) (m : SMat) : Num :=
  let idx := (List.range n).flatMap (fun i => (List.range (n - i)).map (fun j => (i, i + j)))
  if idx.any (fun p => !isFinite (sElem m p.1 p.2)) then .nan
  else rto32 (idx.foldl (fun a p =>
    let x := nabs (nsub (sElem m p.1 p.2) (if p.1 = p.2 then none1 else nzero))
    if nlt a x then x else a) nzero)

/-- One entry's solve in progress. -/
structure Solve where
  x : PMat
  m : PMat
  e : Num
  warm : Bool

def coldStart (n : Nat) (b : PMat) (c0 ci : Num) : Solve :=
  let m := sBuild n (byTiles (fun i j => rto32 (nmul (pairVal (pElem b i j)) ci)))
  ⟨splitMat (sBuild n (fun i j => if i = j then rto32 c0 else nzero)), splitMat m, residual n m, false⟩

/-- A warm start that is rejected becomes a cold start (R224). -/
def startSolve (n p : Nat) (warm : Bool) (b r : PMat) (c0 ci : Num) : Solve :=
  if warm then
    let m := powProdBank n p r b
    let e := residual n m
    if isNan e || nle (.fin false 1 (-1)) e then coldStart n b c0 ci else ⟨r, splitMat m, e, true⟩
  else coldStart n b c0 ci

/-- Φ of one iteration. -/
def phiMat (n p : Nat) (m : PMat) : PMat :=
  splitMat (sBuild n (byTiles (fun i j =>
    rto32 (ndiv (largest f32) (nsub (if i = j then .fin false (p + 1) 0 else nzero) (pairVal (pElem m i j))) (.fin false p 0)))))

def iterate (n p : Nat) (x m : PMat) : Solve :=
  let phi := phiMat n p m
  let mb := powProdBank n p phi m
  ⟨prod n x phi, splitMat mb, residual n mb, false⟩

/-- The stopping tests of Table 08-2 after iteration k; 0 when the solve goes on. -/
def stopState (k itMax : Nat) (e ePrev tol accept : Num) : Nat :=
  if isNan e || nlt (.fin false 2 0) e then 3
  else if nle e tol then 1
  else if 2 ≤ k ∧ nle ePrev e = true ∧ nle e accept = true then 2
  else if 2 ≤ k ∧ nle ePrev e = true then 4
  else if k = itMax ∧ nle e accept = true then 2
  else if k = itMax then 4
  else 0

/-! Areas (R232). -/

/-- The hi or lo element (i, j) of tile (I, J), I ≤ J, of an area. -/
def areaAddr (c o nb i j : Nat) (lo : Bool) : Nat :=
  tileAddr c true (o + 32768 * packedTile nb (i / 128) (j / 128) + (if lo then 16384 else 0)) (i % 128) (j % 128)

/-- A symmetric matrix as its area holds it. -/
def readArea (s : State) (k : CraneCmd) (c o n : Nat) : PMat :=
  let el := fun i j lo => decode bf16 (craneNat s k (areaAddr c o (nbOf n) i j lo) 2)
  (List.range n).map (fun i => (List.range n).map (fun j =>
    if i / 128 ≤ j / 128 then (el i j false, el i j true) else (el j i false, el j i true)))

/-- The elements of an area's tiles, valid ones from a matrix and phantom ones zero, as writes of two bytes. -/
def areaWrites (c o n : Nat) (m : PMat) : List (Nat × List Byte) :=
  let nb := nbOf n
  (List.range (128 * nb)).flatMap (fun i => (List.range (128 * nb)).flatMap (fun j =>
    if i / 128 ≤ j / 128 then
      let p := if i < n ∧ j < n then pElem m i j else (nzero, nzero)
      [(areaAddr c o nb i j false, bytesOfNat 2 (encode bf16 p.1)), (areaAddr c o nb i j true, bytesOfNat 2 (encode bf16 p.2))]
    else []))

/-- The bytes of an area in both Berths of its pair. -/
def areaFoot (c o n : Nat) (wr : Bool) : List Foot :=
  [footAt c o (32768 * triTiles (nbOf n)) wr, footAt c (o + berthBytes) (32768 * triTiles (nbOf n)) wr]

/-- An area whose contents are undefined: free values (R232, R233). -/
def freeArea (s : State) (k : CraneCmd) (c o n : Nat) : State :=
  craneWrites s k false ((areaFoot c o n true).map (fun f =>
    (f.addr, (List.range f.len).map (fun i => (freeAt s (2 ^ 49 + f.addr + i)).setWidth 8))))

/-- Fields of a facet entry replaced: a list of offset, size and value. -/
def putEntry (s : State) (k : CraneCmd) (a : Nat) : List (Nat × Nat × Nat) → State
  | [] => s
  | f :: rest => putEntry (craneWrite s k false (a + f.1) (bytesOfNat f.2.1 f.2.2)) k a rest

/-- What an entry says: n, state, and the areas b, x, m, s1, s2, r. -/
def eN (e : List Byte) : Nat := at_ e 0 2
def eState (e : List Byte) : Nat := at_ e 2 1

/-- Reads of an active entry of a ROOTNS. -/
def entryReads (c : Nat) (w : Word) (e : List Byte) : List Foot :=
  if cwImm w / 4 = 1 then
    areaFoot c (at_ e 8 4) (eN e) false ++ (if at_ e 4 1 = 1 then areaFoot c (at_ e 0x1C 4) (eN e) false else [])
  else areaFoot c (at_ e 0xC 4) (eN e) false ++ areaFoot c (at_ e 0x10 4) (eN e) false

/-- One active facet advanced: a start, or one iteration and the stopping tests (R231, R233). -/
def advanceFacet (s : State) (k : CraneCmd) (c : Nat) (entry : Nat) (e : List Byte) : State :=
  let d := k.desc
  let n := eN e
  let p := orderOf (cwImm k.word % 4)
  let init := decide (cwImm k.word / 4 = 1)
  let fp := entryReads c k.word e
  let poison := readsPoison s fp
  let warm := decide (at_ e 4 1 = 1)
  let r := if init then
      startSolve n p warm (readArea s k c (at_ e 8 4) n) (if warm then readArea s k c (at_ e 0x1C 4) n else []) (f32At e 0x20)
        (f32At e 0x24)
    else iterate n p (readArea s k c (at_ e 0xC 4) n) (readArea s k c (at_ e 0x10 4) n)
  let iters := if init then 0 else at_ e 3 1 + 1
  let st := if init then 0 else stopState iters (at_ d 5 1) r.e (f32At e 0x28) (f32At d 8) (f32At d 0xC)
  let t := craneWrites s k poison (areaWrites c (at_ e 0xC 4) n r.x ++ areaWrites c (at_ e 0x10 4) n r.m)
  let t := freeArea (freeArea t k c (at_ e 0x14 4) n) k c (at_ e 0x18 4) n
  let t := if st = 3 ∨ st = 4 then freeArea (freeArea t k c (at_ e 0xC 4) n) k c (at_ e 0x10 4) n else t
  let start := if init && warm && !r.warm then 2 else at_ e 4 1
  consumeFoot (putEntry t k entry [(2, 1, st), (3, 1, iters), (4, 1, start), (0x28, 4, encode f32 r.e), (0x2C, 4, at_ e 0x28 4)])
    s c fp

/-- The active facets of a batch, in the order of their entries. -/
def advanceAll (s : State) (k : CraneCmd) (c : Nat) (f : State → Nat → List Byte → State) : List Nat → State
  | [] => s
  | i :: rest =>
    let a := svEntry c k.desc i
    let e := craneBytes s k a 64
    advanceAll (if eState e = 0 then f s a e else s) k c f rest

/-- Some facet of the batch is active (R233). -/
def anyActive (s : State) (k : CraneCmd) (c : Nat) : Bool :=
  (List.range (svCount k.desc)).any (fun i => decide (eState (craneBytes s k (svEntry c k.desc i) 64) = 0))

/-- A solver command on its active facets: it has written the last of them and its products, which went through bank 1, are no
longer in flight; with none active it does nothing (R233, R238). -/
def solveBatch (s : State) (c : Nat) (k : CraneCmd) (f : State → Nat → List Byte → State) : State :=
  let done := { k with begun := true, phase := CmdPhase.done }
  if anyActive s k c then
    let t := advanceAll s k c f (List.range (svCount k.desc))
    setCmd (tookFree (setBank t c 1 { inflight := (bankOf (crane t c) 1).inflight }) (2 ^ 51)) c .bg done
  else setCmd s c .bg done

def execRootns (c : CraneIx) (s : State) : Out :=
  match readyCmd s c.val .bg 0x10 with
  | none => turnedAway s
  | some k => .next (solveBatch s c.val k (fun t a e => advanceFacet t k c.val a e))

/-! The Cholesky method (R225, R226): L and W are stored transposed in packed upper order. -/

/-- A lower-triangular block of a transposed area: element (i, j) of L, i in block I, j in block J ≤ I. -/
def lowElem (s : State) (k : CraneCmd) (c o n i j : Nat) : Num × Num :=
  (decode bf16 (craneNat s k (areaAddr c o (nbOf n) j i false) 2), decode bf16 (craneNat s k (areaAddr c o (nbOf n) j i true) 2))

/-- A pair written at (i, j) of a transposed lower matrix. -/
def lowWrite (c o n i j : Nat) (x : Num) : List (Nat × List Byte) :=
  let p := splitPair x
  [(areaAddr c o (nbOf n) j i false, bytesOfNat 2 (encode bf16 p.1)), (areaAddr c o (nbOf n) j i true, bytesOfNat 2 (encode bf16 p.2))]

/-- A failed pivot: its global index and kind (1 zero, 2 tiny). -/
structure PivFail where
  idx : Nat
  kind : Nat

/-- One column of the unblocked factorisation (R226), carried on through the rows below the block: the rows of `a` from the
pivot row on, the finished columns of L so far, or a failure. -/
def factorColumn (pivTol : Num) (b0 : Nat → Num) (i : Nat) (a : SMat) : PivFail ⊕ (List Num × SMat) :=
  let d := sElem a i i
  if isNan d || nle d nzero then .inl ⟨i, 1⟩
  else if nle d (nmul pivTol (b0 i)) then .inl ⟨i, 2⟩
  else
    let r := rto32 (nsqrt (ndiv (largest f32) none1 d))
    let col := (List.range a.length).map (fun j =>
      if j < i then nzero else if j = i then rto32 (nmul d r) else rto32 (nmul (sElem a j i) r))
    let a' := (List.range a.length).map (fun j => (List.range (a.getD j []).length).map (fun q =>
      if i < j ∧ i < q ∧ q ≤ j then rto32 (nsub (sElem a j q) (rto32 (nmul (col.getD j nzero) (col.getD q nzero))))
      else sElem a j q))
    .inr (col, a')

/-- The columns of a block in order. -/
def factorColumns (pivTol : Num) (b0 : Nat → Num) : List Nat → SMat → List (List Num) → PivFail ⊕ List (List Num)
  | [], _, cols => .inr cols
  | i :: rest, a, cols =>
    match factorColumn pivTol b0 i a with
    | .inl f => .inl f
    | .inr (col, a') => factorColumns pivTol b0 rest a' (cols ++ [col])

/-- Valid indices of block b of a facet of size n. -/
def blockSize (n b : Nat) : Nat := if n - 128 * b < 128 then n - 128 * b else 128

/-- Block column J of Factor: the rows from 128 J on of A, then L's column block by the same steps (assumption 14). -/
def cholFactor (s : State) (k : CraneCmd) (c j : Nat) (e : List Byte) : PivFail ⊕ List (Nat × List Byte) :=
  let n := eN e
  let base := 128 * j
  let b := readArea s k c (at_ e 8 4) n
  let l := fun i q => lowElem s k c (at_ e 0x14 4) n i q
  let nv := blockSize n j
  let a := (List.range (n - base)).map (fun i => (List.range nv).map (fun q =>
    rto32 (nsub (pairVal (pElem b (base + i) (base + q)))
      (sum3 (List.range base) (fun kk => l (base + i) kk) (fun kk => l (base + q) kk)))))
  match factorColumns (f32At k.desc 8) (fun i => pairVal (pElem b (base + i) (base + i))) (List.range nv) a [] with
  | .inl f => .inl ⟨base + f.idx, f.kind⟩
  | .inr cols => .inr ((List.range nv).flatMap (fun q => (List.range (n - base)).flatMap (fun i =>
      if q ≤ i then lowWrite c (at_ e 0x14 4) n (base + i) (base + q) ((cols.getD q []).getD i nzero) else [])))

/-- The entries of a diagonal block of L, row by row up to the diagonal. -/
def blockEntries (s : State) (k : CraneCmd) (c b : Nat) (e : List Byte) : List Word :=
  (List.range (blockSize (eN e) b)).flatMap (fun i => (List.range (i + 1)).map (fun q =>
    enc64 (pairVal (lowElem s k c (at_ e 0x14 4) (eN e) (128 * b + i) (128 * b + q)))))

/-- Element (i, q) of W_bb, the unblocked inverse of a diagonal block of L, whose operations are not given in order: a function of
the block (assumption 14). -/
def blockInverse (s : State) (k : CraneCmd) (c b : Nat) (e : List Byte) (i q : Nat) : Num :=
  if q ≤ i then dec32 (Config.blockInverse (blockSize (eN e) b) (blockEntries s k c b e) i q) else nzero

/-- A column of W below the diagonal block: W_IJ from the blocks above it, in ascending I. -/
def invertBlocks (s : State) (k : CraneCmd) (c j : Nat) (e : List Byte) :
    List Nat → List (Nat × Nat × Num) → List (Nat × Nat × Num)
  | [], done => done
  | bi :: rest, done =>
    let n := eN e
    let base := 128 * bi
    let rows := (List.range 128).filter (fun i => decide (base + i < n))
    let found := fun i q => match done.find? (fun x => decide (x.1 = i ∧ x.2.1 = q)) with
      | some x => splitPair x.2.2
      | none => (nzero, nzero)
    let inner := fun i q => splitPair (sum3 ((List.range (base - 128 * j)).map (fun x => 128 * j + x))
      (fun kk => lowElem s k c (at_ e 0x14 4) n (base + i) kk) (fun kk => found kk q))
    let block := (List.range 128).flatMap (fun q => rows.map (fun i =>
      (base + i, 128 * j + q, nneg (sum3 rows (fun kk => splitPair (blockInverse s k c bi e i kk))
        (fun kk => inner kk (128 * j + q))))))
    invertBlocks s k c j e rest (done ++ block)

/-- Block column J of Invert. -/
def cholInvert (s : State) (k : CraneCmd) (c j : Nat) (e : List Byte) : List (Nat × List Byte) :=
  let n := eN e
  let base := 128 * j
  let nv := blockSize n j
  let diag := (List.range nv).flatMap (fun q => (List.range nv).filterMap (fun i =>
    if q ≤ i then some (base + i, base + q, blockInverse s k c j e i q) else none))
  let all := invertBlocks s k c j e ((List.range (nbOf n)).filter (fun bi => decide (j < bi))) diag
  (all.filter (fun x => decide (x.2.1 < n))).flatMap (fun x => lowWrite c (at_ e 0x10 4) n x.1 x.2.1 x.2.2)

/-- Block row I of Form: B⁻¹_IJ for J ≥ I, as a root. -/
def cholForm (s : State) (k : CraneCmd) (c bi : Nat) (e : List Byte) : List (Nat × List Byte) :=
  let n := eN e
  let nb := nbOf n
  let w := fun i q => if q ≤ i then lowElem s k c (at_ e 0x10 4) n i q else (nzero, nzero)
  (List.range 128).flatMap (fun i => (List.range (128 * (nb - bi))).flatMap (fun q =>
    let gi := 128 * bi + i
    let gj := 128 * bi + q
    let ks := (List.range n).filter (fun kk => decide (gj / 128 ≤ kk / 128))
    let p := if gi < n ∧ gj < n then splitPair (sum3 ks (fun kk => w kk gi) (fun kk => w kk gj)) else (nzero, nzero)
    [(areaAddr c (at_ e 0xC 4) nb gi gj false, bytesOfNat 2 (encode bf16 p.1)),
     (areaAddr c (at_ e 0xC 4) nb gi gj true, bytesOfNat 2 (encode bf16 p.2))]))

/-- What a phase of CHOL reads for an entry: B and L, L and W, or W. -/
def cholReads (c phase : Nat) (e : List Byte) : List Foot :=
  (if phase = 0 then areaFoot c (at_ e 8 4) (eN e) false else []) ++
  (if phase ≤ 1 then areaFoot c (at_ e 0x14 4) (eN e) false else []) ++
  (if 1 ≤ phase then areaFoot c (at_ e 0x10 4) (eN e) false else [])

/-- One phase for one block of one active entry; a failed pivot ends the facet in state 5, and the last block row of Form
ends it with e := 0 in state 1 (assumption 14). -/
def cholFacet (s : State) (k : CraneCmd) (c : Nat) (entry : Nat) (e : List Byte) : State :=
  let blk := cwImm k.word % 16
  let phase := cwImm k.word / 16
  let fp := cholReads c phase e
  let poison := readsPoison s fp
  if nbOf (eN e) ≤ blk then s
  else if phase = 0 then
    match cholFactor s k c blk e with
    | .inl f => consumeFoot (putEntry s k entry [(2, 1, 5), (5, 1, f.kind), (6, 2, f.idx)]) s c fp
    | .inr ws => consumeFoot (craneWrites s k poison ws) s c fp
  else if phase = 1 then consumeFoot (craneWrites s k poison (cholInvert s k c blk e)) s c fp
  else
    let t := craneWrites s k poison (cholForm s k c blk e)
    consumeFoot (if blk + 1 = nbOf (eN e) then putEntry t k entry [(2, 1, 1), (0x28, 4, 0)] else t) s c fp

def execChol (c : CraneIx) (s : State) : Out :=
  match readyCmd s c.val .bg 0x11 with
  | none => turnedAway s
  | some k => .next (solveBatch s c.val k (fun t a e => cholFacet t k c.val a e))

end Sys2Proof.Machine
end

