-- ==== Sys2Proof/Machine/Layout.lean ====
section
/-! DEFINITION. The layers of the job: panels, owners, factors, and where the state of each lies (R191, R198, R199, R207, R210, R213,
R241, R243 to R247, R256, R261, R262, R265). The manual gives the base of each part; the places inside a part are the model's own:
DESIGN CHOICE, assumption 81. -/

namespace Sys2Proof.Machine

/-- a / b, rounded up. -/
def upDiv (a b : Nat) : Nat := (a + b - 1) / b
/-- a rounded up to a multiple of b. -/
def upTo (a b : Nat) : Nat := upDiv a b * b
def bitAt (n b : Nat) : Bool := decide (n / 2 ^ b % 2 = 1)
def sumOf (l : List Nat) : Nat := l.foldl (· + ·) 0

/-! A layer's descriptors (Tables 07-4, 08-1, 09-2); `g` chooses the G side. -/

def lyCollect (l : Layer) (g : Bool) : Bool := bitAt (at_ l.stat 2 1) (if g then 1 else 0)
def lyGather (l : Layer) : Bool := bitAt (at_ l.stat 2 1) 3
def lyRank (l : Layer) : Nat := 32 * at_ l.stat 3 1
def lyBeta (l : Layer) : Nat := at_ l.stat 4 4
def lyKc (l : Layer) : Nat := at_ l.stat 8 2
def lyPcode (l : Layer) (g : Bool) : Nat := at_ l.root 2 1 / (if g then 4 else 1) % 4
def lyChol (l : Layer) (g : Bool) : Bool := bitAt (at_ l.root 2 1) (if g then 5 else 4)
def lyLambda (l : Layer) : Num := f32At l.root 4
def lySTol (l : Layer) : Num := f32At l.root 0x1C
def lyKr (l : Layer) : Nat := at_ l.root 0x20 2
def lyPhase (l : Layer) : Nat := at_ l.root 0x22 2
def lyLag (l : Layer) : Nat := at_ l.root 0x24 2
def lyEfEn (l : Layer) : Bool := bitAt (at_ l.upd 2 1) 0
/-- A frozen layer has no panels, no owners, no state and no Ledger records (R267). -/
def lyFrozen (l : Layer) : Bool := bitAt (at_ l.upd 2 1) 1
def lyEmit (l : Layer) : Bool := bitAt (at_ l.upd 2 1) 3
/-- Block sizes of the gradient and of the gather image. -/
def lyBlkGrad (l : Layer) : Nat := blkSize (at_ l.upd 3 1)
def lyBlkImg (l : Layer) : Nat := blkSize (at_ l.upd 3 1 / 4)
/-- The layer is gathered from its Manifest (R333). -/
def lyGathered (l : Layer) : Bool := lyFrozen l || !lyEmit l

/-- The learning rate of step st: entry min(st, lr_count − 1) of the group's table (R256). -/
def lyRate (s : State) (l : Layer) (st : Nat) : Num :=
  let n := at_ l.upd 0x1C 4
  decode f32 (readNat s (s.job.image + at_ l.upd 0x18 4 + 4 * (if st < n then st else n - 1)) 4)

/-! Panels (R243 to R245). -/

def lyFG (l : Layer) : Nat := upDiv l.dout 1024
def lyFA (l : Layer) : Nat := upDiv l.dc 1024
/-- Panels of a layer. -/
def lyPanels (l : Layer) : Nat := if lyFrozen l then 0 else lyFG l * lyFA l

/-- Indices from 1024 f on that lie below d: a facet's or a panel's extent. -/
def extent (d f : Nat) : Nat := if d - 1024 * f < 1024 then d - 1024 * f else 1024

/-- The index q of a layer's first panel. -/
def firstPanel (s : State) (l : Layer) : Nat := sumOf ((s.job.layers.filter (fun m => decide (m.num < l.num))).map lyPanels)
/-- Q. -/
def panelCount (s : State) : Nat := sumOf (s.job.layers.map lyPanels)
/-- Qp: padded so that every module owns equally many, phantom panels included. -/
def paddedCount (s : State) : Nat := s.job.p * upDiv (panelCount s) s.job.p

/-- A real panel of the job. -/
structure Panel where
  layer : Layer
  q : Nat
  f : Nat
  g : Nat
  deriving DecidableEq, Repr

def panelRows (pn : Panel) : Nat := extent pn.layer.dout pn.f
def panelCols (pn : Panel) : Nat := extent pn.layer.dc pn.g

/-- Panel q, none for a phantom one. -/
def panelOf (s : State) (q : Nat) : Option Panel :=
  match s.job.layers.find? (fun l => decide (firstPanel s l ≤ q ∧ q < firstPanel s l + lyPanels l)) with
  | none => none
  | some l => some ⟨l, q, (q - firstPanel s l) / lyFA l, (q - firstPanel s l) % lyFA l⟩

/-- The job rank that owns panel q. -/
def ownerOf (s : State) (q : Nat) : Nat := q % s.job.p

/-- The panels that the module owns, ascending: i, i + P, i + 2P, ... The k-th is Ledger record k. -/
def ownedPanels (s : State) : List Panel :=
  (List.range (upDiv (panelCount s) s.job.p)).filterMap (fun k => panelOf s (s.job.rank + k * s.job.p))

/-- The panel of Ledger record k. -/
def recordPanel (s : State) (k : Nat) : Option Panel := (ownedPanels s)[k]?

/-- The Ledger record of panel (f, g) of a layer, when the module owns it. -/
def recordOf (s : State) (l : Layer) (f g : Nat) : Option Nat :=
  let q := firstPanel s l + f * lyFA l + g
  if lyFrozen l = false ∧ ownerOf s q = s.job.rank then some (q / s.job.p) else none

def layerOf (s : State) (num : Nat) : Option Layer := s.job.layers.find? (fun l => decide (l.num = num))

/-! Factors (R191, R199, R207, R246). -/

/-- A factor of a layer: its side, form (0 facet, 1 sketch, 2 diagonal only), facet number, dimension and rank. -/
structure Factor where
  g : Bool
  form : Nat
  facet : Nat
  dim : Nat
  rank : Nat
  deriving DecidableEq, Repr

/-- The factors of a side. -/
def sideFactors (l : Layer) (g : Bool) : List Factor :=
  let d := if g then l.dout else l.dc
  if !g && lyGather l then [⟨false, 2, 0, d, 0⟩]
  else if 65536 < d then [⟨g, 1, 0, d, lyRank l⟩]
  else (List.range (upDiv d 1024)).map (fun f => ⟨g, 0, f, extent d f, 0⟩)

/-- The panel (f, g) whose owner owns a factor, and to whose Ledger record its record is attached. -/
def factorPanel (l : Layer) (x : Factor) : Nat × Nat :=
  if x.g then (x.facet, x.facet % lyFA l) else (x.facet % lyFG l, x.facet)

/-- The Ledger record to which an owned factor is attached. -/
def factorRecord (s : State) (l : Layer) (x : Factor) : Option Nat := recordOf s l (factorPanel l x).1 (factorPanel l x).2

/-- The factors of a layer that the module owns, in the order of R241. -/
def ownedFactors (s : State) (l : Layer) : List Factor :=
  (sideFactors l false ++ sideFactors l true).filter (fun x => (factorRecord s l x).isSome)

/-- The factors attached to a panel, G side first. -/
def attached (pn : Panel) : List Factor :=
  (sideFactors pn.layer true ++ sideFactors pn.layer false).filter (fun x => decide (factorPanel pn.layer x = (pn.f, pn.g)))

/-- The factor of a side that covers a panel. -/
def sideFactor (pn : Panel) (g : Bool) : Factor :=
  let fs := sideFactors pn.layer g
  fs.getD (if fs.length = 1 then 0 else if g then pn.f else pn.g) ⟨g, 2, 0, 0, 0⟩

/-! Sizes (Tables 07-3, 08-8, R265). -/

/-- Bytes of a factor record. -/
def recordBytes (form dim rank : Nat) : Nat :=
  upTo (if form = 0 then 64 + 8 * dim + dim * (dim - 1) / 2 else if form = 1 then 64 + 8 * dim + dim * rank else 64 + 4 * dim) 64

/-- Bytes of a root record. -/
def rootBytes (form dim rank : Nat) : Nat :=
  upTo (if form = 0 then 64 + 65536 * triTiles (nbOf dim) else if form = 1 then 64 + 4 * rank + 4 * dim * rank else 64 + 4 * dim) 64

def factorBytes (x : Factor) : Nat := recordBytes x.form x.dim x.rank
def factorRootBytes (x : Factor) : Nat := rootBytes x.form x.dim x.rank

/-- Bytes of a gather image with blocks of b. -/
def imageBytes (b : Nat) : Nat := 64 + 1048576 + 1048576 / b

/-! Places. -/

/-- A state slot: the master, mu, the second moment's scales and its codes, then the attached factor records (R261). -/
def partMu : Nat := 4194304
def partScales : Nat := 8388608
def partCodes : Nat := 8421376
def partFactors : Nat := 9469952
def slotBytes (pn : Panel) : Nat := partFactors + sumOf ((attached pn).map factorBytes)

/-- A root replica: 64 bytes whose first four hold its gen, then the root; a sketch root keeps the rows of U of the panel's
range (R247). -/
def replicaBytes (pn : Panel) (g : Bool) : Nat :=
  let x := sideFactor pn g
  64 + rootBytes x.form (if x.form = 1 then 1024 else x.dim) x.rank

/-- A panel's state: two slots, then the replica pairs of its G side and of its A side. -/
def panelBytes (pn : Panel) : Nat := 2 * slotBytes pn + 2 * replicaBytes pn true + 2 * replicaBytes pn false

/-- The owned panels of the same layer before a panel. -/
def earlierPanels (s : State) (pn : Panel) : List Panel :=
  (ownedPanels s).filter (fun x => decide (x.layer.num = pn.layer.num ∧ x.q < pn.q))

def stateSlot (s : State) (pn : Panel) (slot : Nat) : Nat :=
  pn.layer.state + sumOf ((earlierPanels s pn).map panelBytes) + slot * slotBytes pn

/-- Where an attached factor's record lies in a slot. -/
def factorAddr (s : State) (pn : Panel) (x : Factor) (slot : Nat) : Nat :=
  stateSlot s pn slot + partFactors + sumOf (((attached pn).takeWhile (fun y => decide (y ≠ x))).map factorBytes)

def replicaAddr (s : State) (pn : Panel) (g : Bool) (i : Nat) : Nat :=
  stateSlot s pn 2 + (if g then 0 else 2 * replicaBytes pn true) + i * replicaBytes pn g

/-- Image slots have the size of the largest form. -/
def imageSlot (s : State) (pn : Panel) (i : Nat) : Nat :=
  pn.layer.image + (2 * (earlierPanels s pn).length + i) * imageBytes 16

/-- A panel's residual: 2 bytes an element, panels in row-major order (R251). -/
def residualAddr (l : Layer) (f g : Nat) : Nat := l.resid + 2097152 * (f * lyFA l + g)

/-! The Ledger (Table 09-3). -/

def ledgerRecord (s : State) (i : Nat) : Nat := fget s F.ledgerBaseBase * 64 + 64 * i
/-- The live slot that a record names. -/
def liveSlot (s : State) (k : Nat) : Nat := readNat s (ledgerRecord s k + 6) 1 % 2
def shadowSlot (s : State) (k : Nat) : Nat := 1 - liveSlot s k
def recordStep (s : State) (k : Nat) : BitVec 32 := BitVec.ofNat 32 (readNat s (ledgerRecord s k + 0x10) 4)
/-- The step whose update a record commits next. -/
def nextStep (s : State) (k : Nat) : BitVec 32 := recordStep s k + 1

/-! Root sets (R241). -/

/-- Offset of the n-th owned factor's root in a set, then of its record in the input area. -/
def rootOff (s : State) (l : Layer) (n : Nat) : Nat :=
  upTo (64 + 4 * (ownedFactors s l).length) 64 + sumOf (((ownedFactors s l).take n).map factorRootBytes)
def inputOff (s : State) (l : Layer) (n : Nat) : Nat :=
  rootOff s l (ownedFactors s l).length + sumOf (((ownedFactors s l).take n).map factorBytes)

/-- The set with the lower generation is Flood (R216). -/
def floodOf (s : State) (l : Layer) : Nat := if readNat s (l.set0 + 4) 4 < readNat s (l.set1 + 4) 4 then l.set0 else l.set1
def ebbOf (s : State) (l : Layer) : Nat := if readNat s (l.set0 + 4) 4 < readNat s (l.set1 + 4) 4 then l.set1 else l.set0

/-- The generation that updates of step st read: 1 at the launch, one more at each swap (R215, R216). -/
def genOfStep (l : Layer) (st : Nat) : Nat :=
  1 + ((List.range (st + 1)).filter (fun c => decide (1 ≤ c ∧ c % lyKr l = lyPhase l ∧ c + lyLag l ≤ st))).length

end Sys2Proof.Machine
end

