-- ==== Sys2Proof/Machine/Stats.lean ====
section
/-! DEFINITION. Factor records and their merges (R202 to R206, R246, R392), and what has been written for a Ledger record's next
flip (R261, R263). -/

namespace Sys2Proof.Machine

/-! Memory as firmware and the update unit read and write it. -/

/-- A byte as a reader outside containment sees it: the value of a poisoned byte is free. -/
def srcByte (s : State) (a : Nat) : Byte := if poisoned s a then (freeAt s a).setWidth 8 else memByte s a
def srcBytes (s : State) (a n : Nat) : List Byte := (List.range n).map (fun i => srcByte s (a + i))
def srcNat (s : State) (a n : Nat) : Nat := natOfBytes (srcBytes s a n)
def src32 (s : State) (a : Nat) : Num := decode f32 (srcNat s a 4)
/-- A byte of a result that the manual does not state. -/
def freeByteFor (s : State) (a : Nat) : Byte := (freeAt s (2 ^ 48 + a)).setWidth 8
def freeBytesFor (s : State) (a n : Nat) : List Byte := (List.range n).map (fun i => freeByteFor s (a + i))

/-- Bytes written where memory exists; elsewhere the write has no effect and is counted (R270). -/
def putMem (s : State) (a : Nat) (bs : List Byte) : State :=
  if populatedRange s a bs.length then writeBytes s a bs else countNowin s

def putNum (s : State) (a n v : Nat) : State := putMem s a (bytesOfNat n v)

/-- Writes made one after another. -/
def putAll (s : State) : List (Nat × List Byte) → State
  | [] => s
  | w :: rest => putAll (putMem s w.1 w.2) rest

/-- Ranges read by one consumer outside containment (R381). -/
def consumeAll (s : State) (consumer die : Nat) : List (Nat × Nat) → State
  | [] => s
  | r :: rest => consumeAll (consumeRange s r.1 r.2 consumer false die 0) consumer die rest

/-! Factor records (Tables 07-2 and 07-3). -/

/-- The exponent of a row's scale: the smallest e, at least −149, with the largest magnitude at most 127 · 2^e (R203). -/
def rowExp (xs : List Num) : Option Int :=
  let a := xs.foldl amaxStep (0, 0)
  if a.1 = 0 then none
  else
    let t := topExp a.1 a.2 - 6
    let e := if magLt 127 t a.1 a.2 then t + 1 else t
    some (if e < -149 then -149 else e)

/-- The code of an integer value: a result out of range is ±127, and a NaN gives 0x00 (R141, R166). -/
def yiByte : Num → Byte
  | .fin s m e => BitVec.ofInt 8 (signedAt s m e 0)
  | .inf s => if s then 0x81 else 0x7F
  | .nan => 0

/-- The codes of a row whose scale is 2^e (R203). -/
def yiCodes (e : Int) (xs : List Num) : List Byte := xs.map (fun x => yiByte (narrow yi8 .odd (nscale x (-e))))

/-- A row stored in YI8: the bits of its scale and its codes (R203, R209). -/
def yiRow (xs : List Num) : Nat × List Byte :=
  match rowExp xs with
  | none => (0, xs.map (fun _ => 0))
  | some e => (encode f32 (.fin false 1 e), yiCodes e xs)

/-- A code decoded with its scale, exactly. -/
def yiVal (code : Byte) (scale : Num) : Num := nmul (numOfInt code.toInt) scale

/-- Entries in row i of the off-diagonal part. -/
def rowLength (form dim rank i : Nat) : Nat := if form = 0 then dim - 1 - i else if form = 1 then rank else 0
/-- Place of the first entry of row i among the codes (R204). -/
def rowStart (form dim rank i : Nat) : Nat := if form = 0 then i * (dim - 1) - i * (i - 1) / 2 else i * rank

/-- What the header of a record says. -/
structure RecHead where
  dim : Nat
  form : Nat
  rank : Nat
  merges : Nat

def recHead (s : State) (a : Nat) : RecHead := ⟨srcNat s a 4, srcNat s (a + 4) 1, srcNat s (a + 6) 2, srcNat s (a + 0x10) 4⟩
def headBytes (h : RecHead) : Nat := recordBytes h.form h.dim h.rank

/-- Element (i, j) of a stored factor off its diagonal, decoded exactly (R203, R204). -/
def offEntry (s : State) (a : Nat) (h : RecHead) (i j : Nat) : Num :=
  yiVal (srcByte s (a + 0x40 + 8 * h.dim + rowStart h.form h.dim h.rank i + j)) (src32 s (a + 0x40 + 4 * h.dim + 4 * i))
/-- Entry i of a stored diagonal. -/
def diagEntry (s : State) (a i : Nat) : Num := src32 s (a + 0x40 + 4 * i)

/-- One entry merged in binary64 by round-to-odd (R202). -/
def mergeEntry (first : Bool) (beta n old x : Num) : Num :=
  let sh := div64 x n
  if first then sh else add64 (mul64 beta old) (mul64 (nsub none1 beta) sh)

/-! What a merge reads and writes. -/

/-- A factor that the module owns: its layer, its Ledger record and that record's panel (R246). -/
structure Owned where
  layer : Layer
  factor : Factor
  index : Nat
  panel : Panel

def ownedFactor (s : State) (l : Layer) (x : Factor) : Option Owned :=
  match factorRecord s l x with
  | none => none
  | some k =>
    match recordPanel s k with
    | none => none
    | some pn => some ⟨l, x, k, pn⟩

/-- The committed record of an owned factor, and its shadow. -/
def liveRecord (s : State) (w : Owned) : Nat := factorAddr s w.panel w.factor (liveSlot s w.index)
def shadowRecord (s : State) (w : Owned) : Nat := factorAddr s w.panel w.factor (shadowSlot s w.index)

/-- Row i of the off-diagonal part after a merge of the record at a with the values at v. -/
def mergedRow (s : State) (a v : Nat) (h : RecHead) (beta n : Num) (i : Nat) : List Num :=
  let st := rowStart h.form h.dim h.rank i
  (List.range (rowLength h.form h.dim h.rank i)).map (fun j =>
    mergeEntry (decide (h.merges = 0)) beta n (offEntry s a h i j) (src32 s (v + 4 * (st + j))))

/-- The diagonal after a merge, as stored. -/
def mergedDiag (s : State) (a v : Nat) (h : RecHead) (beta n : Num) : List Num :=
  (List.range h.dim).map (fun i => rto32 (mergeEntry (decide (h.merges = 0)) beta n (diagEntry s a i) (src32 s (v + 4 * i))))

/-- The scale exponent of a row with an entry that is not finite, which the manual does not give: one that a binary32 power of
two can have, from −149 to 127 (DESIGN CHOICE, assumption 80). -/
def openExp (xs : List Num) : Int := ((Config.rowScale (xs.map enc64) % 277 : Nat) : Int) - 149

/-- A stored row. Where an entry is not finite, R203 gives no row scale; the codes follow from the one taken, ±127 for an
infinity and 0x00 for a NaN (R141, R166). -/
def storedRow (xs : List Num) : List Byte × List Byte :=
  if xs.all isFinite then (bytesOfNat 4 (yiRow xs).1, (yiRow xs).2)
  else (bytesOfNat 4 (encode f32 (.fin false 1 (openExp xs))), yiCodes (openExp xs) xs)

/-- The merged record's bytes (R202 to R204): the record at a, reduced values at `off` and `dia`, β's bits, the step and N. -/
def mergedRecord (s : State) (a off dia : Nat) (h : RecHead) (beta : Nat) (step : BitVec 32) (ntok : Nat) : List Byte :=
  let diag := mergedDiag s a dia h (decode f32 beta) (numOfInt ntok)
  let rows := if h.form = 2 then []
    else (List.range h.dim).map (fun i => storedRow (mergedRow s a off h (decode f32 beta) (numOfInt ntok) i))
  let trace := rto32 (diag.foldl add64 nzero)
  srcBytes s a 0x10 ++ bytesOfNat 4 (h.merges + 1) ++ srcBytes s (a + 0x14) 4 ++ bytesOfNat 4 step.toNat ++
  bytesOfNat 4 (encode f32 trace) ++ bytesOfNat 8 ntok ++ bytesOfNat 4 beta ++ bytesOfNat 20 0 ++
  diag.flatMap (fun x => bytesOfNat 4 (encode f32 x)) ++ rows.flatMap (·.1) ++ rows.flatMap (·.2)

/-- The record unchanged but for skipped (R205). -/
def skippedRecord (s : State) (a : Nat) (h : RecHead) : List Byte :=
  let bs := srcBytes s a (headBytes h)
  bs.take 0x14 ++ bytesOfNat 4 (at_ bs 0x14 4 + 1) ++ bs.drop 0x18

/-- The ranges a merge reads. -/
def mergeReads (a : Nat) (o : MergeOp) (h : RecHead) : List (Nat × Nat) :=
  let entries := if h.form = 0 then h.dim * (h.dim - 1) / 2 else if h.form = 1 then h.dim * h.rank else 0
  [(a, headBytes h), (o.offDiag.toNat, 4 * entries), (o.diag.toNat, 4 * h.dim), (o.aux.toNat, 0x20)]

/-! What has been written for a record's next flip. -/

/-- The entry of a Ledger record, a fresh one when its step has none yet. -/
def shadowOf (s : State) (k : Nat) : Shadow :=
  match s.ledger.shadows.find? (fun x => decide (x.index = k ∧ x.step = nextStep s k)) with
  | some x => x
  | none => { index := k, step := nextStep s k }

def putShadow (s : State) (x : Shadow) : State :=
  { s with ledger := { s.ledger with shadows := s.ledger.shadows.filter (fun y => decide (y.index ≠ x.index)) ++ [x] } }

/-! Securing and the writers that wait for it (R391, R392). -/

/-- First step that the job executes itself (R394). -/
def firstStep (s : State) : Nat := (s.job.resumeStep + 1).toNat

/-- The securing of step st's state: a step at which S divides, executed by this job. -/
def securedStepDue (s : State) (st : Nat) : Bool := decide (st % s.job.s = 0) && decide (firstStep s ≤ st)

/-- The streams that read the state of step st for its securing have completed: the home copy of st or of a later step is
complete. -/
def secureRead (s : State) (st : Nat) : Bool :=
  !securedStepDue s st || decide (s.job.homeDone ≠ 0xFFFFFFFF ∧ st ≤ s.job.homeDone.toNat)

/-- The non-live slots may be written in step st once the securing of step st − 2, whose state they hold, has read them. -/
def mayShadow (s : State) (st : Nat) : Bool := decide (st < 2) || secureRead s (st - 2)

/-- A collection step's merge (R202, R205): from the live slot's record into the shadow slot. In a step that is no multiple of kc,
and for a factor that is not collected, nothing is merged. -/
def execFactorMerge (o : MergeOp) (s : State) : Out :=
  match layerOf s o.layer.toNat with
  | none => turnedAway s
  | some l =>
    match (ownedFactors s l).find? (fun x => decide (x.g = o.g ∧ x.facet = o.facet.toNat)) with
    | none => turnedAway s
    | some x =>
      match ownedFactor s l x with
      | none => turnedAway s
      | some w =>
        let a := liveRecord s w
        let h := recHead s a
        let st := nextStep s w.index
        let ntok := srcNat s (o.aux.toNat + 0x10) 8
        let tainted := decide (srcNat s (o.aux.toNat + 0x18) 8 % 2 = 1)
        let t := consumeAll s 4 (homeDie s a) (mergeReads a o h)
        let t := putMem t (shadowRecord s w) (if tainted || decide (ntok = 0) then skippedRecord s a h
          else mergedRecord s a o.offDiag.toNat o.diag.toNat h (lyBeta l) st ntok)
        let sh := shadowOf s w.index
        whenever (jobLive s && lyCollect l o.g && decide (st.toNat % lyKc l = 0) && mayShadow s st.toNat)
          (spendFree (putShadow t { sh with merged := sh.merged ++ [o.g] })) s

end Sys2Proof.Machine
end

