-- ==== Sys2Proof/Machine/Image.lean ====
section
/-! DEFINITION. The checks of a job image and of a Manifest at PREPARE (R210, R213, R258, R330, R334, R335, R338, R371, R386,
R399). Each takes the image's address `a` in the Hold. -/

namespace Sys2Proof.Machine

/-- A number in the image. -/
def im (s : State) (a o n : Nat) : Nat := readNat s (a + o) n
/-- A binary32 in the image. -/
def im32 (s : State) (a o : Nat) : Num := decode f32 (im s a o 4)
/-- Bytes o to o + n − 1 of the image are zero. -/
def imZero (s : State) (a o n : Nat) : Bool := (readBytes s (a + o) n).all (fun b => decide (b = 0))

/-! The header and the section directory (R371, Table 13-7). -/

def imSections (s : State) (a : Nat) : Nat := im s a 6 2
def imP (s : State) (a : Nat) : Nat := im s a 0x18 4
def imM (s : State) (a : Nat) : Nat := im s a 0x1C 2
def imS (s : State) (a : Nat) : Nat := im s a 0x1E 2

/-- Directory entry k: type, element count, offset. -/
def dirEntry (s : State) (a k : Nat) : Nat × Nat × Nat :=
  (im s a (64 + 16 * k) 2, im s a (68 + 16 * k) 4, im s a (72 + 16 * k) 8)

/-- Element count and offset of the section of a type. -/
def sect (s : State) (a typ : Nat) : Nat × Nat :=
  match ((List.range (imSections s a)).map (dirEntry s a)).find? (fun e => decide (e.1 = typ)) with
  | some e => e.2
  | none => (0, 0)

/-- The least bytes a section takes. -/
def sectBytes (typ count : Nat) : Nat :=
  match typ with
  | 1 => 2 * count
  | 2 => 64
  | 4 => 272
  | 5 => 128 * count
  | 6 => 128 * count
  | 7 => 64 * count
  | 8 => 32 * count
  | 9 => 48 * count
  | 0xA => 64 * count
  | 0xD => 16 * count + 384
  | 0xE => 128
  | _ => 0

/-- Header and directory are valid: each type of Table 13-7 exactly once, every section aligned and inside the image. -/
def imageForm (s : State) (a len : Nat) (jobId : Word) : Bool :=
  let es := (List.range (imSections s a)).map (dirEntry s a)
  decide (im s a 0 4 = 0x494A5859 ∧ im s a 4 2 = 1 ∧ im s a 8 8 = jobId.toNat) && imZero s a 0x20 32 &&
  decide (1 ≤ imS s a ∧ imS s a ≤ 256 ∧ 1 ≤ imP s a ∧ 1 ≤ imM s a) && decide (es.length = 14 ∧ 64 + 16 * es.length ≤ len) &&
  (List.range 14).all (fun i => es.any (fun e => decide (e.1 = i + 1))) &&
  (List.range 14).all (fun k => imZero s a (66 + 16 * k) 2) &&
  es.all (fun e => decide (e.2.2 % 64 = 0 ∧ e.2.2 + sectBytes e.1 e.2.1 ≤ len))

/-- The image lies in the Hold at a 4 KiB boundary, outside the reserved areas. -/
def imagePlaced (s : State) (a len : Nat) : Bool :=
  decide (a % 4096 = 0 ∧ 64 ≤ len ∧ windowOf a = .hold) && populatedRange s a len && !touchesReserved a len

/-- Hall index of job rank r. -/
def imRank (s : State) (a r : Nat) : Nat := im s a ((sect s a 1).2 + 2 * r) 2

/-- This module's job rank. -/
def myRank (s : State) (a : Nat) : Option Nat := (List.range (imP s a)).find? (fun r => decide (imRank s a r = hallIndex s))

/-- The rank table has P entries that name different modules. -/
def ranksOk (s : State) (a : Nat) : Bool :=
  decide ((sect s a 1).1 = imP s a) && decide ((List.range (imP s a)).map (imRank s a)).Nodup

/-! Descriptors. -/

def between (lo x hi : Num) : Bool := nle lo x && nle x hi
/-- 2^e. -/
def npow2 (e : Int) : Num := .fin false 1 e

/-- A statistics descriptor (Table 07-4). -/
def statOk (s : State) (a o : Nat) : Bool :=
  let beta := im32 s a (o + 4)
  decide (im s a (o + 2) 1 < 16 ∧ 1 ≤ im s a (o + 3) 1 ∧ im s a (o + 3) 1 ≤ 8 ∧ im s a (o + 0xC) 1 ≤ 3) &&
  nle nzero beta && nlt beta none1 &&
  decide (1 ≤ im s a (o + 8) 2 ∧ im s a (o + 8) 2 ≤ 1000 ∧ 1 ≤ im s a (o + 0xA) 2 ∧ im s a (o + 0xA) 2 ≤ 4096) &&
  imZero s a (o + 0xD) 19

/-- A root descriptor (Table 08-1); Cholesky only with p = 1 (R213). -/
def rootOk (s : State) (a o : Nat) : Bool :=
  let pc := im s a (o + 2) 1
  let x := fun k => im32 s a (o + k)
  let kr := im s a (o + 0x20) 2
  decide (pc % 4 ≠ 3 ∧ pc / 4 % 4 ≠ 3 ∧ pc < 64 ∧ 1 ≤ im s a (o + 3) 1 ∧ im s a (o + 3) 1 ≤ 32) &&
  (decide (pc / 16 % 2 = 0) || decide (pc % 4 = 0)) && (decide (pc / 32 % 2 = 0) || decide (pc / 4 % 4 = 0)) &&
  between (npow2 (-24)) (x 4) none1 && between nzero (x 8) none1 && between (npow2 (-24)) (x 0xC) none1 &&
  between (npow2 (-20)) (x 0x10) (npow2 (-4)) && between (x 0x10) (x 0x14) (npow2 (-2)) &&
  nlt nzero (x 0x18) && nle (x 0x18) (npow2 (-4)) && nlt nzero (x 0x1C) && nle (x 0x1C) (npow2 (-4)) &&
  decide (1 ≤ kr ∧ kr ≤ 1000 ∧ im s a (o + 0x22) 2 < kr ∧ 1 ≤ im s a (o + 0x24) 2 ∧ im s a (o + 0x24) 2 ≤ kr) &&
  imZero s a (o + 0x26) 10

/-- An update descriptor (Table 09-2). -/
def updOk (s : State) (a o : Nat) : Bool :=
  let x := fun k => im32 s a (o + k)
  decide (im s a (o + 2) 1 < 16 ∧ im s a (o + 3) 1 < 16) &&
  nle nzero (x 4) && nlt (x 4) none1 && nle nzero (x 8) && nlt (x 8) none1 && nlt nzero (x 0xC) && between nzero (x 0x10) none1 &&
  nle (npow2 (-126)) (x 0x14) && isFinite (x 0x14) &&
  decide (im s a (o + 0x18) 4 % 64 = 0 ∧ 1 ≤ im s a (o + 0x1C) 4 ∧ im s a (o + 0x1C) 4 ≤ 1048576 ∧
    1 ≤ im s a (o + 0x20) 2 ∧ im s a (o + 0x20) 2 ≤ 4096) &&
  imZero s a (o + 0x22) 30

def allElems (s : State) (a typ size : Nat) (ok : Nat → Bool) : Bool :=
  (List.range (sect s a typ).1).all (fun k => ok ((sect s a typ).2 + size * k))

def descriptorsOk (s : State) (a : Nat) : Bool :=
  allElems s a 8 32 (statOk s a) && allElems s a 9 48 (rootOk s a) && allElems s a 0xA 64 (updOk s a)

/-! Routing settings (section 0x04) and rings (R330). -/

/-- Word k of the routing settings: QUAY_HALL, QUAY_PARENT, then QUAY_EXPECT0 to 31. -/
def imRouting (s : State) (a k : Nat) : Nat := im s a ((sect s a 4).2 + 8 * k) 8
def imFarIndex (s : State) (a p : Nat) : Nat := imRouting s a (2 + p) % 8192
def imPortEn (s : State) (a p : Nat) : Bool := decide (imRouting s a (2 + p) / 2 ^ 21 % 2 = 1)

/-- A list names each of 0 to n − 1 once. -/
def isPerm (l : List Nat) (n : Nat) : Bool := decide (l.length = n) && (List.range n).all (fun i => l.contains i)

/-- Ring j of the record at o. -/
def ringOk1 (s : State) (a o rank j : Nat) : Bool :=
  let p := imP s a
  let e := fun k => im s a (o + 16 + 4 * (j * p + k)) 4
  let order := (List.range p).map (fun k => e k % 65536)
  let k := order.idxOf rank
  let port := e k / 65536 % 32
  (List.range p).all (fun k => decide (e k < 2 ^ 21)) && isPerm order p &&
  (decide (p = 1) ||
    (decide (imFarIndex s a port = imRank s a (order.getD ((k + 1) % p) 0)) && inService s port))

/-- n records back to back from o. -/
def ringRecordsOk (s : State) (a rank : Nat) : Nat → Nat → Bool
  | 0, _ => true
  | n + 1, o =>
    let nr := im s a (o + 4) 1
    decide (1 ≤ nr ∧ nr ≤ 16 ∧ im s a (o + 8) 4 = imP s a) && imZero s a (o + 5) 3 && imZero s a (o + 12) 4 &&
    (List.range nr).all (ringOk1 s a o rank) && ringRecordsOk s a rank n (o + 16 + 4 * nr * imP s a)

def ringsOk (s : State) (a rank : Nat) : Bool := ringRecordsOk s a rank (sect s a 0xB).1 (sect s a 0xB).2

/-! Threads, Crane bindings and regions (section 0x0D, R66, R94, R99): after the thread entries, one TUG_CQ_BIND word for
each module Crane, then a TUG_REGION_BASE and a TUG_REGION_LIMIT word for each region (DESIGN CHOICE, assumption 15). -/

def threadOff (s : State) (a k : Nat) : Nat := (sect s a 0xD).2 + 16 * k
def bindWord (s : State) (a c : Nat) : Nat := im s a (threadOff s a (sect s a 0xD).1 + 8 * c) 8
def regionWord (s : State) (a n half : Nat) : Nat := im s a (threadOff s a (sect s a 0xD).1 + 128 + 16 * n + 8 * half) 8

/-- A job thread of the module. -/
def jobThreadIx (t : Nat) : Bool := decide (t < 512) && isJobThread t

def threadsOk (s : State) (a : Nat) : Bool :=
  let n := (sect s a 0xD).1
  (List.range n).all (fun k => jobThreadIx (im s a (threadOff s a k) 2) && imZero s a (threadOff s a k + 2) 6) &&
  decide ((List.range n).map (fun k => im s a (threadOff s a k) 2)).Nodup &&
  (List.range 16).all (fun c =>
    decide (bindWord s a c / 2 ^ 15 % 2 = 0) || jobThreadIx (bindWord s a c % 512))

/-- First and last byte of region n of the image, and whether it is enabled, readable and writable. -/
def regionBase (s : State) (a n : Nat) : Nat := regionWord s a n 0 / 4096 % 2 ^ 36 * 4096
def regionEnd (s : State) (a n : Nat) : Nat := regionWord s a n 1 / 4096 % 2 ^ 36 * 4096 + 4096
def regionBit (s : State) (a n b : Nat) : Bool := decide (regionWord s a n 0 / 2 ^ b % 2 = 1)

/-- Every enabled region lies in populated windows, outside the reserved areas (R278, R367). -/
def imRegionsOk (s : State) (a : Nat) : Bool :=
  (List.range 16).all (fun n => !regionBit s a n 3 ||
    (decide (regionBase s a n < regionEnd s a n) && populatedRange s (regionBase s a n) (regionEnd s a n - regionBase s a n) &&
      !touchesReserved (regionBase s a n) (regionEnd s a n - regionBase s a n)))

/-! The recovery table (R386, R399). -/

def recv (s : State) (a o n : Nat) : Nat := im s a ((sect s a 0xE).2 + o) n

/-- [x, x + n) lies in the populated Hold or Warehouse, outside the reserved areas. -/
def recPlace (s : State) (x n : Nat) : Bool :=
  decide (windowOf x = .hold ∨ windowOf x = .whse) && populatedRange s x n && !touchesReserved x n

def outsideRegions (s : State) (a x n : Nat) : Bool :=
  (List.range 16).all (fun k => !regionBit s a k 3 || decide (regionEnd s a k ≤ x ∨ x + n ≤ regionBase s a k))

/-- [x, x + n) lies in a region that grants read and not write, and meets none that grants write. -/
def readOnlyRegion (s : State) (a x n : Nat) : Bool :=
  (List.range 16).any (fun k => regionBit s a k 3 && regionBit s a k 0 && !regionBit s a k 1 &&
    decide (regionBase s a k ≤ x ∧ x + n ≤ regionEnd s a k)) &&
  (List.range 16).all (fun k => !(regionBit s a k 3 && regionBit s a k 1) || decide (regionEnd s a k ≤ x ∨ x + n ≤ regionBase s a k))

/-- Partner map entry of rank r: Partner rank, port, other bits. -/
def pmapEntry (s : State) (a r : Nat) : Nat := im s a (recv s a 0x20 8 + 4 * r) 4

def partnerOk (s : State) (a rank : Nat) : Bool :=
  let p := imP s a
  let partners := (List.range p).map (fun r => pmapEntry s a r % 65536)
  let port := pmapEntry s a rank / 65536 % 32
  (List.range p).all (fun r => decide (pmapEntry s a r / 2 ^ 21 % 2 ^ 10 = 0) && decide (pmapEntry s a r % 65536 ≠ r)) &&
  isPerm partners p && decide (imFarIndex s a port = imRank s a (partners.getD rank 0)) && imPortEn s a port

/-- Bytes of a drop log for the image's M. -/
def logBytes (s : State) (a : Nat) : Nat := 512 * (64 * ((16 + 8 * ((imM s a + 63) / 64) + 63) / 64))

def recoveryOk (s : State) (a len rank : Nat) : Bool :=
  let gb := recv s a 0x38 8
  let home := recv s a 0x28 8
  let ward := recv s a 0x30 8
  let lb := logBytes s a
  decide (recv s a 0x1C 4 = 0 ∧ recv s a 0x7C 4 = 0 ∧ 0 < gb ∧ gb % 4096 = 0 ∧ recv s a 0x58 4 ≤ 64 ∧ recv s a 0x48 8 % 8 = 0) &&
  decide (recv s a 0x20 8 + 4 * imP s a ≤ len ∧ recv s a 0x60 8 + 32 * recv s a 0x58 4 ≤ len ∧
    recv s a 0x68 8 + 16 * recv s a 0x5C 4 ≤ len ∧ recv s a 0x70 8 + 128 * recv s a 0x78 4 ≤ len) &&
  recPlace s (recv s a 0 8) 1 && recPlace s (recv s a 8 8) 1 && recPlace s (recv s a 0x10 8) 1 &&
  recPlace s home (2 * gb) && recPlace s ward (2 * gb) && recPlace s (recv s a 0x40 8) lb && recPlace s (recv s a 0x48 8) 8 &&
  recPlace s (recv s a 0x50 8) lb &&
  outsideRegions s a home (2 * gb) && outsideRegions s a ward (2 * gb) && outsideRegions s a (recv s a 0x50 8) lb &&
  readOnlyRegion s a (recv s a 0x40 8) lb && readOnlyRegion s a (recv s a 0x48 8) 8 && partnerOk s a rank

/-! The Manifest (R334, R335, R337, R338, Tables 12-1 and 12-2). `m` holds its bytes; what reads no image needs only those from the
header through the layer tables. -/

def mfSets (m : List Byte) : Nat := at_ m 6 1 + 1
def mfDir (m : List Byte) (i : Nat) : Nat := at_ m 0x20 8 + 32 * i
def mfCount (m : List Byte) (i : Nat) : Nat := at_ m (mfDir m i + 2) 2
def mfTable (m : List Byte) (i : Nat) : List Byte := (m.drop (at_ m (mfDir m i + 8) 8)).take (128 * mfCount m i)
def zeros (m : List Byte) (o n : Nat) : Bool := ((m.drop o).take n).all (fun b => decide (b = 0))

/-- A layer's panels, and its images' block size, from its entry. -/
def mfPanels (e : List Byte) : Nat := upDiv (at_ e 4 4) 1024 * upDiv (at_ e 8 4) 1024
def mfBlk (e : List Byte) : Nat := blkSize (at_ e 0xC 1)
def mfHasMaster (e : List Byte) : Bool := decide (at_ e 0xD 1 % 2 = 1)

/-! Extents (R337): panel images, or master panels, back to back in row-major (f, g) order. -/

def mfImageBytes (e : List Byte) : Nat := upTo (mfPanels e * imageBytes (mfBlk e)) 4096
def mfMasterBytes (e : List Byte) : Nat := mfPanels e * 4194304
/-- Image extent and master extent of a layer. -/
def mfImages (m e : List Byte) : List Byte := (m.drop (at_ e 0x18 8)).take (mfImageBytes e)
def mfMasters (m e : List Byte) : List Byte := (m.drop (at_ e 0x20 8)).take (mfMasterBytes e)
/-- Image and master of a layer's k-th panel. -/
def mfImage (m e : List Byte) (k : Nat) : List Byte := (m.drop (at_ e 0x18 8 + k * imageBytes (mfBlk e))).take (imageBytes (mfBlk e))
def mfMaster (m e : List Byte) (k : Nat) : List Byte := (m.drop (at_ e 0x20 8 + k * 4194304)).take 4194304

/-- An extent agrees with its digest (R338). -/
def mfImagesOk (m e : List Byte) : Bool := decide (digest (mfImages m e) = (e.drop 0x30).take 32)
def mfMastersOk (m e : List Byte) : Bool := !mfHasMaster e || decide (digest (mfMasters m e) = (e.drop 0x50).take 32)

/-- A layer entry (Table 12-2). -/
def mfLayerOk (e : List Byte) : Bool :=
  decide (at_ e 0xC 1 ≤ 3 ∧ at_ e 0xD 1 ≤ 1 ∧ at_ e 0x18 8 % 4096 = 0 ∧ at_ e 0x20 8 % 4096 = 0) && zeros e 0xE 2 && zeros e 0x14 4 &&
  zeros e 0x28 8 && zeros e 0x70 16 && (mfHasMaster e || (decide (at_ e 0x20 8 = 0) && zeros e 0x50 32)) && nle (npow2 (-126)) (decode f32 (at_ e 0x10 4)) && isFinite (decode f32 (at_ e 0x10 4))

def mfLayers (m : List Byte) (i : Nat) : List (List Byte) :=
  (List.range (mfCount m i)).map (fun k => ((mfTable m i).drop (128 * k)).take 128)

def mfHeaderOk (m : List Byte) (tag : Nat) : Bool :=
  decide (at_ m 0 4 = 0x464E4D59 ∧ at_ m 4 2 = 1 ∧ at_ m 6 1 ≤ 64 ∧ at_ m 7 1 = 0 ∧ 1 ≤ at_ m 8 4 ∧ at_ m 8 4 ≤ 0x7FFFFFFF) &&
  decide (at_ m 0x10 8 = tag ∧ at_ m 0x18 8 % 4096 = 0 ∧ at_ m 0x20 8 % 4096 = 0) && zeros m 0x28 24 && zeros m 0x60 4000

/-- Directory entries: base first, then adapter sets ascending; tables aligned; layers ascending and named once (R335). -/
def mfDirOk (m : List Byte) : Bool :=
  let n := mfSets m
  let ls := (List.range n).flatMap (fun i => (mfLayers m i).map (fun e => at_ e 0 4))
  (List.range n).all (fun i =>
    zeros m (mfDir m i + 1) 1 && zeros m (mfDir m i + 4) 4 && zeros m (mfDir m i + 16) 16 && decide (at_ m (mfDir m i + 8) 8 % 64 = 0) &&
    (if i = 0 then decide (at_ m (mfDir m 0) 1 = 0)
     else decide (at_ m (mfDir m (i - 1)) 1 < at_ m (mfDir m i) 1 ∧ at_ m (mfDir m i) 1 ≤ 64)) &&
    (mfLayers m i).all mfLayerOk &&
    (List.range (mfCount m i - 1)).all (fun k =>
      decide (at_ ((mfLayers m i).getD k []) 0 4 < at_ ((mfLayers m i).getD (k + 1) []) 0 4))) &&
  decide ls.Nodup && decide (ls.length = at_ m 0xC 4)

/-- Every layer entry, in directory order, and the entry of a layer. -/
def mfEntries (m : List Byte) : List (List Byte) := (List.range (mfSets m)).flatMap (mfLayers m)
def mfEntry (m : List Byte) (num : Nat) : Option (List Byte) := (mfEntries m).find? (fun e => decide (at_ e 0 4 = num))

/-- End of the last layer table. -/
def mfTablesEnd (m : List Byte) : Nat :=
  (List.range (mfSets m)).foldl (fun x i => Nat.max x (at_ m (mfDir m i + 8) 8 + 128 * mfCount m i)) (mfDir m (mfSets m))

/-- The parts stand in their order and inside the Manifest: header, directory, layer tables, images (R334). -/
def mfPlacesOk (m : List Byte) : Bool :=
  let total := at_ m 0x18 8
  decide (m.length = total ∧ 4096 ≤ at_ m 0x20 8 ∧ mfTablesEnd m ≤ total) &&
  (List.range (mfSets m)).all (fun i => decide (mfDir m (mfSets m) ≤ at_ m (mfDir m i + 8) 8)) &&
  (mfEntries m).all (fun e =>
    decide (mfTablesEnd m ≤ at_ e 0x18 8 ∧ at_ e 0x18 8 + mfImageBytes e ≤ total) &&
    (!mfHasMaster e || decide (mfTablesEnd m ≤ at_ e 0x20 8 ∧ at_ e 0x20 8 + mfMasterBytes e ≤ total)))

/-- The digest over the header's first 64 bytes, the directory and every layer table, as the launch page names it (R338). -/
def mfDigestOk (m : List Byte) (expected : List Byte) : Bool :=
  let n := mfSets m
  decide ((m.drop 0x40).take 32 = expected) &&
  decide (digest (m.take 64 ++ (m.drop (mfDir m 0)).take (32 * n) ++ (List.range n).flatMap (mfTable m)) = expected)

def manifestOk (m : List Byte) (tag : Nat) (expected : List Byte) : Bool :=
  mfHeaderOk m tag && mfDirOk m && mfPlacesOk m && mfDigestOk m expected

/-- The part of a Manifest from its header through its layer tables. -/
def mfHead (m : List Byte) : List Byte := m.take (mfTablesEnd m)

/-- The target of an extent record is connected on some port (R343). -/
def targetConnected (s : State) (tgt : Nat) : Bool :=
  (Tab.get 0 s.storConn 0).getLsbD tgt || (Tab.get 0 s.storConn 1).getLsbD tgt

/-- The place that a request names by target, nsid and slba (Table 12-4) holds a Manifest of n bytes: the target is connected, and
the bytes begin at a 4,096-byte boundary of the namespace and end inside it (R334, R343, R345). -/
def mfSourceOk (s : State) (e : List Byte) (n : Nat) : Bool :=
  let tgt := at_ e 0 1
  let at0 := at_ e 8 8 * Config.lbaSize tgt (at_ e 4 4)
  decide (tgt < 16 ∧ at0 % 4096 = 0 ∧ at0 + n ≤ Config.namespaceBytes tgt (at_ e 4 4)) && targetConnected s tgt

/-! The layers of the job (Table 13-7). -/

def layerCount (s : State) (a : Nat) : Nat := (sect s a 7).1
def layerOff (s : State) (a k : Nat) : Nat := (sect s a 7).2 + 64 * k

/-- The descriptor of a group in a section of descriptors of a size. -/
def groupDesc (s : State) (a typ size group : Nat) : Option (List Byte) :=
  ((List.range (sect s a typ).1).map (fun k => readBytes s (a + (sect s a typ).2 + size * k) size)).find? (fun d =>
    decide (at_ d 0 2 = group))

/-- Layer k of the layer table, with its group's descriptors and its Manifest entry. -/
def imLayer (s : State) (a : Nat) (m : List Byte) (k : Nat) : Option Layer :=
  let o := layerOff s a k
  let group := im s a (o + 4) 2
  match groupDesc s a 8 32 group, groupDesc s a 9 48 group, groupDesc s a 0xA 64 group, mfEntry m (im s a o 4) with
  | some st, some ro, some up, some e =>
    some ⟨im s a o 4, im s a (o + 8) 8, im s a (o + 0x10) 8, im s a (o + 0x18) 8, im s a (o + 0x20) 8, im s a (o + 0x28) 8,
      at_ e 4 4, at_ e 8 4, st, ro, up⟩
  | _, _, _, _ => none

def imLayers (s : State) (a : Nat) (m : List Byte) : List Layer := (List.range (layerCount s a)).filterMap (imLayer s a m)

/-- Every layer's group has its three descriptors (DESIGN CHOICE, assumption 81: an image without them has an invalid layout). -/
def layersForm (s : State) (a : Nat) : Bool :=
  (List.range (layerCount s a)).all (fun k =>
    let group := im s a (layerOff s a k + 4) 2
    (groupDesc s a 8 32 group).isSome && (groupDesc s a 9 48 group).isSome && (groupDesc s a 0xA 64 group).isSome &&
    imZero s a (layerOff s a k + 6) 2 && imZero s a (layerOff s a k + 0x30) 16)

/-- The Manifest names every layer, and no dimension is above 16,777,216 (R207; with the Manifest's checks, since the dimensions
stand in the Manifest: DEDUCED, assumption 81). -/
def layersNamed (s : State) (a : Nat) (m : List Byte) : Bool :=
  decide ((imLayers s a m).length = layerCount s a) &&
  (imLayers s a m).all (fun l => lyFrozen l || decide (l.dout ≤ 16777216 ∧ l.dc ≤ 16777216))

/-! What a Manifest's load writes. -/

/-- The entries of the Manifest-gathered layers, in directory order (R333). -/
def gatheredEntries (ls : List Layer) (m : List Byte) : List (List Byte) :=
  (mfEntries m).filter (fun e => ls.any (fun l => lyGathered l && decide (l.num = at_ e 0 4)))

/-- The image extents of the gathered layers, back to back from a slot's base (DESIGN CHOICE, assumption 81). -/
def slotLoads (m : List Byte) : Nat → List (List Byte) → List (Nat × List Byte)
  | _, [] => []
  | base, e :: rest => (base, mfImages m e) :: slotLoads m (base + mfImageBytes e) rest

/-- The image extents that a slot takes agree with their digests. -/
def slotExtentsOk (ls : List Layer) (m : List Byte) : Bool := (gatheredEntries ls m).all (mfImagesOk m)

/-- An element of a Manifest image decoded (R144, R346): code i of an image. -/
def imageElem (b : Nat) (image : List Byte) (i : Nat) : Num :=
  rne32 (nmul (decode f32 (at_ image 0xC 4)) (scaled8 false (image.getD (64 + 1048576 + i / b) 0) (image.getD (64 + i) 0)))

/-- The launch master of a panel: from the master extent, else decoded from its image. -/
def launchMaster (m e : List Byte) (k : Nat) : List Byte :=
  if mfHasMaster e then mfMaster m e k
  else (List.range 1048576).flatMap (fun i => bytesOfNat 4 (encode f32 (imageElem (mfBlk e) (mfImage m e k) i)))

/-- The image of step 0: the Manifest's with version 0, flags 0 and set 0. -/
def launchImage (m e : List Byte) (k : Nat) : List Byte :=
  let b := mfImage m e k
  bytesOfNat 4 0 ++ (b.drop 4).take 13 ++ bytesOfNat 2 0 ++ b.drop 0x13

/-- A factor record before its first merge (Table 07-2). -/
def launchFactor (l : Layer) (x : Factor) : List Byte :=
  let h := bytesOfNat 4 x.dim ++ bytesOfNat 1 x.form ++ bytesOfNat 1 (if x.g then 1 else 0) ++ bytesOfNat 2 x.rank ++
    bytesOfNat 4 l.num ++ bytesOfNat 2 x.facet
  h ++ List.replicate (factorBytes x - 14) 0#8

/-- What the launch state of an owned panel writes: slot 0, its factor records, and the image (R346). -/
def panelLaunch (s : State) (m : List Byte) (pn : Panel) : List (Nat × List Byte) :=
  match mfEntry m pn.layer.num with
  | none => []
  | some e =>
    let k := pn.f * lyFA pn.layer + pn.g
    [(stateSlot s pn 0, launchMaster m e k), (stateSlot s pn 0 + partMu, List.replicate (partFactors - partMu) 0#8)] ++
    (attached pn).map (fun x => (factorAddr s pn x 0, launchFactor pn.layer x)) ++
    (if lyEmit pn.layer then [(imageSlot s pn 0, launchImage m e k)] else [])

/-- The extents of the trained panels that the module owns agree with their digests. -/
def panelExtentsOk (s : State) (m : List Byte) : Bool :=
  (ownedPanels s).all (fun pn => match mfEntry m pn.layer.num with
    | none => false
    | some e => mfImagesOk m e && mfMastersOk m e)

end Sys2Proof.Machine
end

