-- ==== Sys2Proof/Machine/Quay.lean ====
section
/-! DEFINITION. The Quays: links, cells, retry, streams and combining (R303 to R328, Tables 11-2 to 11-9). The staging buffers'
capacities bound time only and are not modelled. -/

namespace Sys2Proof.Machine

/-! Links and lanes. -/

/-- A port trains only while it is enabled (Table 11-12). -/
def execPortSignalDetect (p : PortIx) (lanes : Nat) (s : State) : Out :=
  whenever (flag s (F.quayExpectEn p.val) && decide (portState s p.val = 0 ∧ 8 ≤ lanes)) (setPortState s p.val 1) s

/-- An IDENT cell waits on a port (R306). -/
def queueIdent (s : State) (p : Nat) : State := queueCell s p (mkCell 4 (identPayload s p))

/-- The port enters IDENT with fresh link sequence numbers, and sends an IDENT. -/
def enterIdent (s : State) (p : Nat) : State :=
  let s := setPort s p { port s p with
    txSeq := 0, rxSeq := 0, replay := [], reorder := [], waiting := [], lastTx := [], tseq := 0, lastTime := none }
  queueIdent (setPortState s p 2) p

def execTrainingComplete (p : PortIx) (fecLocked : Bool) (s : State) : Out :=
  whenever (decide (portState s p.val = 1) && fecLocked) (enterIdent s p.val) s

/-- A port that is neither failed nor disabled loses its link (Table 11-2). -/
def execLinkLoss (p : PortIx) (s : State) : Out :=
  whenever (decide (1 ≤ portState s p.val ∧ portState s p.val ≤ 4))
    (leftService (inService s p.val) (enterDown s p.val) p.val) s

/-- States that exchange IDENT and LINK cells. -/
def identState (s : State) (p : Nat) : Bool := decide (portState s p = 2 ∨ portState s p = 4)
/-- States that carry LINK cells. -/
def linkState (s : State) (p : Nat) : Bool := decide (2 ≤ portState s p ∧ portState s p ≤ 4) && !(port s p).retraining

def execIdentSend (p : PortIx) (s : State) : Out := whenever (identState s p.val) (queueIdent s p.val) s

/-- A lane switch: the lane is left out, counted as a corrected error, and the link retrains (R303, R304). -/
def switchLane (s : State) (p lane : Nat) : State :=
  let s := fput (fput s (F.quayPortStateLaneOut p) lane) (F.quayPortStateSpareIn p) 1
  let s := corrected (fcount s (F.quayPortCntLaneSwitches p) 1)
  foundLane (setPort s p { port s p with retraining := true }) p lane

/-- A lane in use shows a fault: the healthy spare takes over once; a further fault, or one without a healthy spare, fails
the port. -/
def execLaneFault (p : PortIx) (lane : Fin 9) (_sign : LaneSign) (spareHealthy : Bool) (s : State) : Out :=
  whenever (decide (1 ≤ portState s p.val ∧ portState s p.val ≤ 4) && decide (fget s (F.quayPortStateLaneOut p.val) ≠ lane.val))
    (if !flag s (F.quayPortStateSpareIn p.val) && spareHealthy then switchLane s p.val lane.val else enterFailed s p.val) s

def execLaneSwitchRetrainComplete (p : PortIx) (s : State) : Out :=
  whenever (port s p.val).retraining (setPort s p.val { port s p.val with retraining := false }) s

/-! Sending (R309 to R313). -/

def isReplay (c : Cell) : Bool := c.flags.getLsbD 2

/-- Transmit priority, 1 highest. -/
def priority (c : Cell) : Nat :=
  if isReplay c then 3
  else if c.typ = 5 then 1 else if c.typ = 3 then 2 else if c.typ = 4 then 4 else if c.typ = 2 then 5 else 6

/-- A port in a state may carry a cell. -/
def carries (s : State) (p : Nat) (c : Cell) : Bool :=
  !(port s p).retraining && (inService s p || (identState s p && decide (c.typ = 4 ∨ c.typ = 5)))

/-- A cell may leave now: a new numbered cell needs room in the replay buffer of 1,024. -/
def maySend (s : State) (p : Nat) (c : Cell) : Bool :=
  carries s p c && (isReplay c || !numbered c || decide ((port s p).replay.length < 1024))

/-- The waiting cell of highest priority that may leave, the first of equals. -/
def bestWaiting (s : State) (p : Nat) : Option Cell :=
  ((port s p).waiting.filter (maySend s p)).foldl (fun b c =>
    match b with
    | none => some c
    | some x => if priority c < priority x then some c else some x) none

def removeFirst (c : Cell) : List Cell → List Cell
  | [] => []
  | x :: rest => if x = c then rest else x :: removeFirst c rest

/-- lseq of the last cell accepted in order from the far end. -/
def ackOf (x : Port) : BitVec 32 := x.rxSeq - 1

/-- A cell leaves with the acknowledgement of its trailer: a new numbered one takes its link sequence number and enters the
replay buffer, a TIME cell is stamped, and a LINK cell names the next link sequence number (assumption 85). -/
def sendCell (s : State) (p : Nat) (c : Cell) : State :=
  let x := port s p
  let c := { c with ack := ackOf x }
  if isReplay c then
    let s := setPort s p { x with lastTx := wireOf c }
    countEvent (corrected (fcount s (F.quayPortCntReplays p) 1)) 3 p 3 1 0
  else if numbered c then
    let c := { c with lseq := x.txSeq }
    let s := setPort s p { x with lastTx := wireOf c, txSeq := x.txSeq + 1, replay := x.replay ++ [(c, 0)] }
    if c.typ = 1 then countLatency (countEvent s 3 p 1 1 0) 5 p 0 else s
  else if c.typ = 2 then
    let c := { c with payload := timePayload (timeCellOf s p (leavingPs s)) }
    tookFree (setPort s p { x with lastTx := wireOf c, tseq := x.tseq + 1 }) 1
  else setPort s p { x with lastTx := wireOf { c with lseq := x.txSeq } }

/-! Streams (R321, Table 11-8). -/

def streamAddr (s : State) (stream : Nat) : Nat := fget s F.quaySdtBase * 128 + 128 * stream
def streamDesc (s : State) (stream : Nat) : List Byte := readBytes s (streamAddr s stream) 128

/-- Fields of a descriptor. -/
def sdMode (d : List Byte) : Nat := at_ d 0 1
def sdFinal (d : List Byte) : Bool := decide (at_ d 1 1 % 2 = 1)
def sdDeliver (d : List Byte) : Bool := decide (at_ d 1 1 / 2 % 2 = 1)
def sdGated (d : List Byte) : Bool := decide (at_ d 1 1 / 4 % 2 = 1)
def sdLinear (d : List Byte) : Bool := decide (at_ d 1 1 / 8 % 2 = 1)
def sdBlk (d : List Byte) : Nat := blkSize (at_ d 2 1)
def sdElems (d : List Byte) : Nat := at_ d 8 4
def sdRuns (d : List Byte) : Nat := at_ d 0xC 4
/-- The 8-bit modes. -/
def sd8 (d : List Byte) : Bool := decide (sdMode d = 3 ∨ sdMode d = 5)

/-- The low 16 bits of a stream's run count on this module. -/
def runOf (s : State) (stream : Nat) : BitVec 16 := BitVec.ofNat 16 (sdRuns (streamDesc s stream))

/-- A run completed: one more run of the stream on this module. -/
def addRun (s : State) (stream : Nat) : State :=
  writeNat s (streamAddr s stream + 0xC) 4 (sdRuns (streamDesc s stream) + 1)

/-- The n bytes from an address, or the address alone where nothing of it is used, lie in Berths of the die that carries the
port. -/
def onDie (p a n : Nat) : Bool := decide (a / dieBytes = p / 16 ∧ (a + (n - 1)) / dieBytes = p / 16)

/-- The descriptor obeys Table 11-8 and R324. -/
def descriptorOk (d : List Byte) (p : Nat) : Bool :=
  decide (sdMode d ≤ 6 ∧ at_ d 1 1 < 16 ∧ at_ d 2 1 < 4 ∧ at_ d 3 1 = 0 ∧ at_ d 0x3F 1 = 0 ∧ at_ d 0x64 28 = 0) &&
  (decide (sdMode d < 3) ||
    (decide (at_ d 0x28 8 % 64 = 0) && (!sd8 d || decide (sdElems d % sdBlk d = 0)) &&
     (!sdGated d || decide (at_ d 0x48 8 % 8 = 0)) &&
     (sdLinear d || decide (1 ≤ at_ d 0x44 2 ∧ at_ d 0x44 2 ≤ 1024 ∧ 1 ≤ at_ d 0x46 2 ∧ at_ d 0x46 2 ≤ 1024)) &&
     onDie p (at_ d 0x10 8) (if sd8 d then sdElems d else 4 * sdElems d) &&
     onDie p (at_ d 0x18 8) (if sd8 d then sdElems d / sdBlk d else 1) &&
     onDie p (at_ d 0x20 8) (if sdFinal d then 4 * sdElems d else 1) &&
     onDie p (at_ d 0x28 8) 64))

/-- Element e of a run is phantom (R323). -/
def phantom (d : List Byte) (e : Nat) : Bool :=
  if sdLinear d then decide (at_ d 0x60 4 ≠ 0 ∧ at_ d 0x60 4 ≤ e)
  else decide (at_ d 0x44 2 ≤ e / 1024 ∨ at_ d 0x46 2 ≤ e % 1024)

/-- The gate of run n is open (R324). -/
def gateOpen (s : State) (d : List Byte) : Bool :=
  !sdGated d || decide ((at_ d 0x50 8 + sdRuns d * at_ d 0x58 8) % 2 ^ 64 ≤ readNat s (at_ d 0x48 8) 8)

/-- Blocks of a full cell (R322). -/
def cellBlocks (b : Nat) : Nat := 512 / (b + 1)
/-- Elements of a full cell of an 8-bit or a 32-bit mode. -/
def cellElems (d : List Byte) : Nat := if sd8 d then cellBlocks (sdBlk d) * sdBlk d else 128

/-- A DATA cell; run number, index and sequence number are filled in as it leaves. -/
def dataCell (stream : Nat) (first last taint : Bool) (aux : Word) (payload : List Byte) : Cell :=
  ⟨BitVec.ofNat 16 stream, 1, BitVec.ofNat 8 ((if first then 1 else 0) + (if last then 2 else 0) + (if taint then 8 else 0)),
    0, 0, 0, aux, payload, 0, false⟩

/-- Cells of a byte sequence: 512 bytes each, the rest in the last (R322). -/
def byteCells (stream : Nat) (bytes : List Byte) : List Cell :=
  let cs := chunks 512 (bytes.length + 1) bytes
  (List.range cs.length).map (fun i => dataCell stream (decide (i = 0)) (decide (i + 1 = cs.length)) false 0 (cs.getD i []))

/-- Cell i of an ORIGIN run (R322, R326). -/
def originCell (s : State) (d : List Byte) (stream i n : Nat) : Cell :=
  let first := decide (i = 0)
  let aux := if first then BitVec.ofNat 64 (srcNat s (at_ d 0x28 8) 8) else 0
  let taint := first && decide (srcNat s (at_ d 0x28 8 + 8) 1 % 2 = 1)
  let e0 := i * cellElems d
  let m := if sdElems d - e0 < cellElems d then sdElems d - e0 else cellElems d
  let payload :=
    if sd8 d then
      (List.range m).map (fun k => if phantom d (e0 + k) then 0#8 else srcByte s (at_ d 0x10 8 + e0 + k)) ++
        srcBytes s (at_ d 0x18 8 + e0 / sdBlk d) (m / sdBlk d)
    else (List.range m).flatMap (fun k =>
      if phantom d (e0 + k) then bytesOfNat 4 0 else srcBytes s (at_ d 0x10 8 + 4 * (e0 + k)) 4)
  dataCell stream first (decide (i + 1 = n)) taint aux payload

def originCells (s : State) (d : List Byte) (stream : Nat) : List Cell :=
  let n := (sdElems d + cellElems d - 1) / cellElems d
  (List.range n).map (fun i => originCell s d stream i n)

/-- Ranges of a stream's own operand and auxiliary record. -/
def ownRanges (d : List Byte) : List (Nat × Nat) :=
  [(at_ d 0x10 8, if sd8 d then sdElems d else 4 * sdElems d), (at_ d 0x28 8, 16)] ++
    (if sd8 d then [(at_ d 0x18 8, sdElems d / sdBlk d)] else [])

/-- A Quay send consumes poison outside containment (R381). -/
def quayConsume (s : State) (p : Nat) (rs : List (Nat × Nat)) : State :=
  rs.foldl (fun t r => consumeRange t r.1 r.2 3 false (p / 16) (p % 16)) s

/-- The run that a QUAY_TX entry begins has no cell to send yet: it waits on its gate, or nothing of it has been staged. -/
def stagedLate (x : Port) (stream : Nat) (origin gated : Bool) : Bool :=
  if origin then gated else !x.staging.any (fun c => decide (c.stream.toNat = stream))

/-- A QUAY_TX entry releases its stream: a run begins (R311). A first cell that is staged late is a local overrun (R320); later
cells of a run follow one another in time, which the model does not keep (assumption 86). -/
def startTx (s : State) (p stream : Nat) : State :=
  let d := streamDesc s stream
  if !descriptorOk d p then quayFault s p stream 5
  else
    let origin := decide (5 ≤ sdMode d)
    let gated := origin && !gateOpen s d
    let cells := if origin && !gated then originCells s d stream else []
    let x : TxRun := { stream := stream, run := runOf s stream, gated := gated, cells := cells }
    let t := if origin && !gated then quayConsume s p (ownRanges d) else s
    let t := if stagedLate (port s p) stream origin gated then countOverrun t else t
    spendFree (setPort t p { port t p with tx := some x })

/-- The next DATA cell of the run being sent, and the port without it. -/
def nextData (x : Port) : Option (Cell × Port) :=
  match x.tx with
  | none => none
  | some r =>
    let fill := fun (c : Cell) => { c with run := r.run, cidx := BitVec.ofNat 32 r.cidx }
    match r.cells with
    | c :: rest => some (fill c, { x with tx := some { r with cells := rest, cidx := r.cidx + 1 } })
    | [] =>
      match x.staging.find? (fun c => decide (c.stream.toNat = r.stream)) with
      | none => none
      | some c => some (fill c, { x with staging := removeFirst c x.staging, tx := some { r with cidx := r.cidx + 1 } })

/-- A DATA cell leaves; the last one of a run ends it. -/
def sendData (s : State) (p : Nat) (c : Cell) (x : Port) : State :=
  let s := sendCell (setPort s p x) p c
  if isLast c then addRun (setPort s p { port s p with tx := none }) c.stream.toNat else s

/-- At a cell boundary the waiting cell of highest priority leaves (R310). -/
def execCellTransmit (p : PortIx) (s : State) : Out :=
  match bestWaiting s p.val with
  | some c =>
    .next (sendCell (setPort s p.val { port s p.val with waiting := removeFirst c (port s p.val).waiting }) p.val c)
  | none =>
    match nextData (port s p.val) with
    | none => turnedAway s
    | some (c, x) => whenever (maySend s p.val c) (sendData s p.val c x) s

/-! Combining (R327, R328). -/

/-- A code with its block factor as a binary32 value, saturated (Table 06-10). -/
def quayDecode (e8 code : Byte) : Num := narrow f32 .odd (scaled8 true e8 code)

/-- The decode of a code meets a magnitude beyond binary32 (R164). -/
def decodeSaturates (e8 code : Byte) : Bool := exceeds f32 (scaled8 true e8 code)

/-- The draw of element e for requantisation. -/
def quayDraw (s : State) (d : List Byte) (e : Nat) : Rnd :=
  let idx := at_ d 6 2 * 2 ^ 40 + at_ d 0x38 7 +
    (if sdLinear d then e else e / 1024 * at_ d 0x40 4 + e % 1024)
  .stoch (drawLow16 (draw s.job.seed (BitVec.ofNat 64 (at_ d 0x30 8)) 2 idx))

/-- The exact sum of element e of an 8-bit cell whose first element is e0 and whose blocks number n. -/
def sum8 (s : State) (d : List Byte) (pay : List Byte) (e0 n e : Nat) : Num :=
  if phantom d e then nzero
  else
    let b := sdBlk d
    let k := e - e0
    nadd (quayDecode (pay.getD (n * b + k / b) 0) (pay.getD k 0))
      (quayDecode (srcByte s (at_ d 0x18 8 + e / b)) (srcByte s (at_ d 0x10 8 + e)))

/-- The exact sum of element e of a 32-bit cell. -/
def sum32 (s : State) (d : List Byte) (pay : List Byte) (e0 e : Nat) : Num :=
  if phantom d e then nzero else nadd (f32At pay (4 * (e - e0))) (src32 s (at_ d 0x10 8 + 4 * e))

/-- A decode at this hop, of the received code or of the own one, saturates. -/
def hopSaturates (s : State) (d : List Byte) (pay : List Byte) (e0 n e : Nat) : Bool :=
  let b := sdBlk d
  let k := e - e0
  decodeSaturates (pay.getD (n * b + k / b) 0) (pay.getD k 0) ||
    decodeSaturates (srcByte s (at_ d 0x18 8 + e / b)) (srcByte s (at_ d 0x10 8 + e))

/-- Elements of a received cell. -/
def payElems (d : List Byte) (pay : List Byte) : Nat :=
  if sd8 d then pay.length / (sdBlk d + 1) * sdBlk d else pay.length / 4

def cellSum (s : State) (d : List Byte) (pay : List Byte) (e0 e : Nat) : Num :=
  if sd8 d then sum8 s d pay e0 (pay.length / (sdBlk d + 1)) e else sum32 s d pay e0 e

def cellSaturates (s : State) (d : List Byte) (pay : List Byte) (e0 e : Nat) : Bool :=
  sd8 d && hopSaturates s d pay e0 (pay.length / (sdBlk d + 1)) e

/-- The payload that carries the sums on (R327). -/
def forwardPayload (s : State) (d : List Byte) (pay : List Byte) (e0 : Nat) : List Byte :=
  let m := payElems d pay
  if sd8 d then
    let b := sdBlk d
    let blocks := (List.range (m / b)).map (fun j => (List.range b).map (fun k => e0 + j * b + k))
    let done := blocks.map (fun es =>
      let val := fun e => rto32 (cellSum s d pay e0 e)
      let e8 := chooseE8 true ((es.filter (fun e => !phantom d e)).map val)
      (BitVec.ofNat 8 e8, es.map (fun e =>
        if e8 = 0 || phantom d e then 0#8 else enc8 true (narrow yf8g (quayDraw s d e) (nscale (val e) (127 - (e8 : Int)))))))
    done.flatMap (·.2) ++ done.map (·.1)
  else (List.range m).flatMap (fun k => bytesOfNat 4 (encode f32 (rto32 (cellSum s d pay e0 (e0 + k)))))

/-- The counts of a run's status record after the elements of a cell: index, exact sum, and whether a decode saturated (R164,
R166). -/
def countSums (r : RxRun) (d : List Byte) (sums : List (Nat × Num × Bool)) : RxRun :=
  sums.foldl (fun r x =>
    if phantom d x.1 then r
    else
      let r := { r with written := r.written + 1 }
      match classOfElem f32 x.2.1 x.2.2 (rto32 x.2.1) with
      | .invalid => { r with invalid := r.invalid + 1, first := if x.1 < r.first then x.1 else r.first }
      | .saturated => { r with sat := r.sat + 1 }
      | _ => r) r

/-- The port whose QUAY_TX entry carries a stream. -/
def portOfStream (s : State) (stream p : Nat) : Nat :=
  match s.tide.epoch with
  | none => p
  | some ep =>
    match ep.entries.find? (fun e => decide (e.kind = 1 ∧ e.stream = stream)) with
    | some e => e.res
    | none => p

/-- A cell placed in the transmit staging of its stream's port (R325). -/
def stageCell (s : State) (p : Nat) (c : Cell) : State :=
  let q := portOfStream s c.stream.toNat p
  setPort s q { port s q with staging := (port s q).staging ++ [c] }

/-- A stream whose rkey is that of a gradient's reduction (R252), and the bytes where its sums end up. -/
def sdGradient (d : List Byte) : Bool := decide (at_ d 0x36 2 = 0x8002)
def sdFinBytes (d : List Byte) : Nat := 4 * sdElems d

/-- The finished reduction of a panel's gradient is retained with its divisor (R253, R254). -/
def retain (s : State) (r : RxRun) (d : List Byte) : State :=
  if sdGradient d then
    { s with ledger := { s.ledger with
        retained := s.ledger.retained ++ [⟨at_ d 0x34 2, at_ d 0x38 7, at_ d 0x20 8, r.aux.toNat % 2 ^ 32⟩] } }
  else s

/-- A run whose sums would overwrite a retained gradient (R254). -/
def meetsRetained (s : State) (d : List Byte) : Bool :=
  sdFinal d && s.ledger.retained.any (fun x => decide (at_ d 0x20 8 < x.addr + 4194304 ∧ x.addr < at_ d 0x20 8 + sdFinBytes d))

/-- The record of a finished run at the owner, and its combined value and taint (R328). -/
def finishReduce (s : State) (r : RxRun) (d : List Byte) : State :=
  let a := at_ d 0x28 8
  let n : Nsr := { sat := r.sat, invalid := r.invalid, first := r.first, written := r.written }
  let s := putNum (putNum s (a + 0x10) 8 r.aux.toNat) (a + 0x18) 1 (if r.taint then 1 else 0)
  retain (putMem s (a + 0x20) (nsrBytes n 3 false false false false 0)) r d

/-- An open run on a port, replaced or removed. -/
def putRx (s : State) (p stream : Nat) (r : RxRun) : State :=
  setPort s p { port s p with rx := (port s p).rx.map (fun x => if x.stream = stream ∧ x.closed = false then r else x) }
def dropRx (s : State) (p stream : Nat) : State :=
  setPort s p { port s p with rx := (port s p).rx.filter (fun x => !(decide (x.stream = stream) && !x.closed)) }

/-- A cell of a REDUCE stream combined (R327, R328). -/
def reduceCell (s : State) (p : Nat) (r : RxRun) (d : List Byte) (c : Cell) : State :=
  let e0 := c.cidx.toNat * cellElems d
  let m := payElems d c.payload
  let sums := (List.range m).map (fun k => (e0 + k, cellSum s d c.payload e0 (e0 + k), cellSaturates s d c.payload e0 (e0 + k)))
  let own := BitVec.ofNat 64 (srcNat s (at_ d 0x28 8) 8)
  let ownTaint := decide (srcNat s (at_ d 0x28 8 + 8) 1 % 2 = 1)
  let r := if isFirst c then { r with aux := c.aux + own, taint := c.flags.getLsbD 3 || ownTaint } else r
  let t := quayConsume s p ([(at_ d 0x10 8 + (if sd8 d then e0 else 4 * e0), if sd8 d then m else 4 * m)] ++
    (if sd8 d then [(at_ d 0x18 8 + e0 / sdBlk d, m / sdBlk d)] else []) ++ (if isFirst c then [(at_ d 0x28 8, 16)] else []))
  let t :=
    if sdFinal d then
      let r := countSums r d sums
      let t := putMem t (at_ d 0x20 8 + 4 * e0) (sums.flatMap (fun x => bytesOfNat 4 (encode f32 (rto32 x.2.1))))
      if isLast c then finishReduce (putRx t p r.stream r) r d else putRx t p r.stream r
    else
      stageCell (putRx t p r.stream r) p
        (dataCell (at_ d 4 2) (isFirst c) (isLast c) (isFirst c && r.taint) (if isFirst c then r.aux else 0)
          (forwardPayload s d c.payload e0))
  spendFree (if isLast c then addRun (dropRx t p r.stream) r.stream else t)

/-- A cell of a DELIVER or RELAY stream (Table 11-9). -/
def passCell (s : State) (p : Nat) (r : RxRun) (d : List Byte) (c : Cell) : State :=
  let keep := decide (sdMode d = 1) || sdDeliver d
  let s := if sdMode d = 2 then stageCell s p { c with stream := BitVec.ofNat 16 (at_ d 4 2), flags := c.flags &&& 0xFB#8 } else s
  let r := { r with data := if keep then r.data ++ c.payload else [], closed := isLast c }
  if isLast c then addRun (if keep then putRx s p r.stream r else dropRx s p r.stream) r.stream else putRx s p r.stream r

/-- An in-order cell of an open run. -/
def runCell (s : State) (p : Nat) (r : RxRun) (c : Cell) : State :=
  let d := streamDesc s r.stream
  if sdMode d ≤ 2 then passCell s p r d c
  else if sdElems d < c.cidx.toNat * cellElems d + payElems d c.payload then quayFault s p r.stream 3
  else if r.gated then putRx s p r.stream { r with held := r.held ++ [c] }
  else reduceCell s p r d c

/-- A DATA cell accepted in order: delivered, or a Quay protocol fault (R317). -/
def deliver (s : State) (p : Nat) (c : Cell) : State :=
  match (port s p).rx.find? (fun r => decide (r.stream = c.stream.toNat) && !r.closed) with
  | none => quayFault s p c.stream.toNat 1
  | some r =>
    if r.run ≠ c.run then quayFault s p c.stream.toNat 2
    else runCell (countEvent s 3 p 2 1 0) p r c

/-! Receiving (R313 to R315). -/

/-- A NAK is sent at once. -/
def nak (s : State) (p : Nat) (lseq : BitVec 32) (code : Nat) : State :=
  countEvent (queueCell s p (mkCell 5 (linkPayload lseq code))) 3 p 4 1 0

/-- An IDENT accepted in order: recorded and compared with the expectation; a quarantined port stays so (R306, R307). -/
def judgeIdent (s : State) (p : Nat) (c : IdentCell) : State :=
  let s := setPort s p { port s p with identSeen := true, lastIdent := c }
  let s := fput (fput s (F.quayPortStateFarIndex p) c.moduleIndex.toNat) (F.quayPortStateFarPort p) c.port.toNat
  let st := portState s p
  if st = 4 then s
  else if identMatches s p c then (if st = 2 then enterService s p else s)
  else leftService (decide (st = 3)) (enterQuarantine s p) p

/-- A port takes numbered cells of a type now: IDENT cells in the states that exchange them, the others in SERVICE (Table 11-2). -/
def takesType (s : State) (p : Nat) (typ : BitVec 8) : Bool :=
  !(port s p).retraining && (inService s p || (decide (typ = 4) && linkState s p))

/-- A numbered cell accepted in order does what its type says. -/
def actOn (s : State) (p : Nat) (c : Cell) : State :=
  if c.typ = 3 then takeRequest s (readHold c.payload)
  else if c.typ = 4 then judgeIdent s p (readIdent c.payload)
  else deliver s p c

/-- The next numbered cell of the link has been accepted. -/
def acceptNext (s : State) (p : Nat) : State := setPort s p { port s p with rxSeq := (port s p).rxSeq + 1 }

/-- Cells of the reorder buffer released in order, as far as the port takes their types. -/
def releaseReorder : Nat → State → Nat → State
  | 0, s, _ => s
  | n + 1, s, p =>
    match (port s p).reorder.find? (fun c => decide (c.lseq = (port s p).rxSeq) && takesType s p c.typ) with
    | none => s
    | some c =>
      let t := setPort s p { port s p with reorder := removeFirst c (port s p).reorder }
      releaseReorder n (actOn (acceptNext t p) p c) p

/-- Sequence numbers skipped for the first time by a cell that arrives after a gap. -/
def newGap (x : Port) (lseq : BitVec 32) : List (BitVec 32) :=
  let seen := x.reorder.foldl (fun a c => if seqBefore a (c.lseq + 1) then c.lseq + 1 else a) x.rxSeq
  if seqBefore seen lseq then (List.range (lseq - seen).toNat).map (fun i => seen + BitVec.ofNat 32 i) else []

/-- A cell after a gap is held, and each newly skipped number is NAKed. -/
def holdAfterGap (s : State) (p : Nat) (c : Cell) : State :=
  let gap := newGap (port s p) c.lseq
  let s := setPort s p { port s p with reorder := (port s p).reorder ++ [c] }
  gap.foldl (fun t l => nak t p l 1) s

/-- A cell that is not a TIME cell was received in error: counted and NAKed (R313). -/
def receivedBad (s : State) (p : Nat) (c : Cell) : State := nak (countEvent s 3 p 5 1 0) p c.lseq 1

/-- No room for a DATA cell: the surroundings tell of the receive staging, and the reorder buffer holds 1,024 cells. -/
def noRoom (x : Port) (c : Cell) (buffer : Bool) : Bool :=
  decide (c.typ = 1) && (!buffer || decide (c.lseq ≠ x.rxSeq ∧ 1024 ≤ x.reorder.length))

/-- A good numbered cell: a repeat, without buffer space, next in order, or after a gap. -/
def takeGood (s : State) (p : Nat) (c : Cell) (buffer : Bool) : State :=
  let x := port s p
  if seqBefore c.lseq x.rxSeq || x.reorder.any (fun y => decide (y.lseq = c.lseq)) then s
  else if noRoom x c buffer then nak s p c.lseq 2
  else if c.lseq = x.rxSeq then releaseReorder 1024 (actOn (acceptNext s p) p c) p
  else holdAfterGap s p c

/-- A numbered cell that arrived. -/
def takeNumbered (s : State) (p : Nat) (c : Cell) (buffer : Bool) : State :=
  if cellInError c then receivedBad s p c else takeGood (takeAck s p c.ack) p c buffer

/-- A cell with the DATA type, or with a reserved one, which is received in error (R310). -/
def execDataCellReceive (p : PortIx) (wire : List Byte) (fec buffer : Bool) (s : State) : Out :=
  let c := cellIn wire fec
  whenever (takesType s p.val 1 && decide (c.typ = 1 ∨ c.typ = 0 ∨ 6 ≤ c.typ.toNat)) (takeNumbered s p.val c buffer) s

def execHoldCellReceive (p : PortIx) (wire : List Byte) (fec : Bool) (s : State) : Out :=
  let c := cellIn wire fec
  whenever (takesType s p.val 3 && decide (c.typ = 3)) (takeNumbered s p.val c true) s

def execIdentReceive (p : PortIx) (wire : List Byte) (fec : Bool) (s : State) : Out :=
  let c := cellIn wire fec
  whenever (takesType s p.val 4 && decide (c.typ = 4)) (takeNumbered s p.val c true) s

/-- The port fails because retries are exhausted (R314). -/
def retryFailed (s : State) (p : Nat) : State := enterFailed (fput s (F.quayPortStateRetryFail p) 1) p

/-- A cell named by a NAK is sent again, at most 8 times (R314). -/
def replayCell (s : State) (p : Nat) (lseq : BitVec 32) : State :=
  let x := port s p
  match x.replay.find? (fun y => decide (y.1.lseq = lseq)) with
  | none => s
  | some (c, n) =>
    if 8 ≤ n then retryFailed s p
    else setPort s p { x with
      replay := x.replay.map (fun y => if y.1.lseq = lseq then (y.1, y.2 + 1) else y)
      waiting := x.waiting ++ [{ c with flags := c.flags ||| 4#8 }] }

/-- A LINK cell: its acknowledgement, and the cell that it NAKs (Table 11-5). -/
def takeLink (s : State) (p : Nat) (c : Cell) : State :=
  let t := takeAck s p c.ack
  if at_ c.payload 4 1 = 0 then t else replayCell t p (BitVec.ofNat 32 (at_ c.payload 0 4))

def execLinkCellReceive (p : PortIx) (wire : List Byte) (fec : Bool) (s : State) : Out :=
  let c := cellIn wire fec
  whenever (linkState s p.val && decide (c.typ = 5))
    (if cellInError c then receivedBad s p.val c else takeLink s p.val c) s

/-- No acknowledgement for 100 µs while cells are held. -/
def execAckTimeout (p : PortIx) (s : State) : Out :=
  whenever (decide (2 ≤ portState s p.val ∧ portState s p.val ≤ 4) && decide ((port s p.val).replay ≠ []))
    (retryFailed s p.val) s

/-! Gates (R324). -/

/-- A gated run being sent reads its operand once its gate is open. -/
def pollTx (s : State) (p : Nat) : State :=
  match (port s p).tx with
  | none => s
  | some r =>
    let d := streamDesc s r.stream
    if r.gated && gateOpen s d then
      let t := quayConsume s p (ownRanges d)
      spendFree (setPort t p { port t p with tx := some { r with gated := false, cells := originCells s d r.stream } })
    else s

/-- Cells held by a gate are combined in turn. -/
def reduceHeld (s : State) (p stream : Nat) : List Cell → State
  | [] => s
  | c :: rest =>
    match (port s p).rx.find? (fun r => decide (r.stream = stream) && !r.closed) with
    | none => s
    | some r => reduceHeld (reduceCell s p r (streamDesc s stream) c) p stream rest

/-- A run being received must wait: its gate is closed, or it would overwrite a retained gradient, which it waits out like a gate
(R254; DESIGN CHOICE, assumption 81). -/
def rxWaits (s : State) (d : List Byte) : Bool := !gateOpen s d || meetsRetained s d

/-- A gated run being received takes its held cells once its gate is open. -/
def pollRx (s : State) (p : Nat) : State :=
  match (port s p).rx.find? (fun r => r.gated && !r.closed) with
  | none => s
  | some r =>
    if !rxWaits s (streamDesc s r.stream) then
      reduceHeld (putRx s p r.stream { r with gated := false, held := [] }) p r.stream r.held
    else s

def execQuayGatePoll (p : PortIx) (s : State) : Out := .next (pollRx (pollTx s p.val) p.val)

/-- A QUAY_RX entry opens a run (R317); a stream that is not received here is a descriptor fault. -/
def startRx (s : State) (p stream : Nat) : State :=
  let d := streamDesc s stream
  if !descriptorOk d p || decide (sdMode d = 0 ∨ 5 ≤ sdMode d) then quayFault s p stream 5
  else
    let r : RxRun := { stream := stream, run := runOf s stream, gated := decide (3 ≤ sdMode d) && rxWaits s d }
    setPort s p { port s p with rx := (port s p).rx ++ [r] }

end Sys2Proof.Machine
end

