-- ==== Sys2Proof/Machine/Roots.lean ====
section
/-! DEFINITION. Refresh cycles, the facets placed to be solved, their retries, and the roots that firmware forms itself (R206, R211,
R212, R214 to R217, R222 to R224, R227 to R230, R239 to R242). -/

namespace Sys2Proof.Machine

/-! Tug arithmetic in binary64, to nearest even (R81). -/

def tadd (a b : Num) : Num := (tugAdd f64 a b).1
def tsub (a b : Num) : Num := (tugSub f64 a b).1
def tmul (a b : Num) : Num := (tugMul f64 a b).1
def tdiv (a b : Num) : Num := (tugDiv f64 a b).1
def tsqrt (a : Num) : Num := (tugSqrt f64 a).1
/-- Narrowed to binary32 by fcvt.s.d. -/
def t32 (x : Num) : Num := (tugArith f32 [x] x).1
def tsum (xs : List Num) : Num := xs.foldl tadd nzero

/-- λ' of R227. -/
def retryLambda (n : Nat) (lambda eps floor : Num) : Num :=
  let nn := numOfInt n
  t32 (nmax (tdiv (tmul eps (tadd none1 (tmul nn lambda))) nn) floor)

/-- x^(−1/p): square roots, then the reciprocal, each rounded to nearest even in binary64 (R230). -/
def invRoot (pcode : Nat) (x : Num) : Num :=
  tdiv none1 (if pcode = 0 then x else if pcode = 1 then tsqrt x else tsqrt (tsqrt x))

/-- λ_u of a factor of dimension n: λ, or λ + λ' for a retry (R212, R227). -/
def lambdaU (l : Layer) (n : Nat) (retried : Bool) : Num :=
  if retried then t32 (tadd (lyLambda l) (retryLambda n (lyLambda l) (f32At l.root 8) (f32At l.root 0xC))) else lyLambda l

/-! Root records (Tables 08-3, 08-7 and 08-8). -/

/-- A structure tag (Table 08-3). -/
def structureTag (l : Layer) (x : Factor) (lamU : Num) (layout : Nat) : Nat :=
  x.dim % 2 ^ 25 + x.form * 2 ^ 25 + (if x.form = 0 then nbOf x.dim else if x.form = 1 then x.rank / 32 else 0) * 2 ^ 27 +
  lyPcode l x.g * 2 ^ 31 + encode f32 lamU / 2 ^ 23 % 256 * 2 ^ 33 + layout * 2 ^ 41

/-- What the header of a root record says beside its tag. -/
structure RootHead where
  src : Nat
  status : Nat
  iters : Nat
  how : Nat
  resid : Nat
  c : Num
  kept : Nat

/-- A root record's header (Table 08-7); a root written anew has stale_run zero (R228). -/
def rootHeader (tag : Nat) (lamU : Num) (h : RootHead) : List Byte :=
  bytesOfNat 8 tag ++ bytesOfNat 4 h.src ++ bytesOfNat 1 h.status ++ bytesOfNat 1 h.iters ++ bytesOfNat 1 h.how ++ [0#8] ++
  bytesOfNat 4 h.resid ++ bytesOfNat 4 (encode f32 lamU) ++ bytesOfNat 4 0 ++ bytesOfNat 4 (encode f32 h.c) ++ bytesOfNat 2 h.kept ++
  bytesOfNat 30 0

/-- Block pairs (I, J), I ≤ J, in packed order. -/
def packedPairs (nb : Nat) : List (Nat × Nat) := (List.range nb).flatMap (fun i => (List.range (nb - i)).map (fun j => (i, i + j)))

/-- 128 lines of 256 bytes with the rotation of R111. -/
def tileLines (f : Nat → Nat → Num) : List Byte :=
  (List.range 128).flatMap (fun r => (List.range 128).flatMap (fun p => bytesOfNat 2 (encode bf16 (f r ((p + r) % 128)))))

/-- A facet's identity tiles: hi 1.0 on the diagonal and +0 elsewhere, lo +0 (R240). -/
def identityTiles (n : Nat) : List Byte :=
  (packedPairs (nbOf n)).flatMap (fun t =>
    tileLines (fun r c => if t.1 = t.2 ∧ r = c ∧ 128 * t.1 + r < n then none1 else nzero) ++ List.replicate 32768 0#8)

/-- The arrays of an identity root (R240). -/
def identityBody (x : Factor) : List Byte :=
  if x.form = 0 then identityTiles x.dim
  else if x.form = 1 then List.replicate (4 * x.rank + 4 * x.dim * x.rank) 0#8
  else (List.range x.dim).flatMap (fun _ => bytesOfNat 4 (encode f32 none1))

/-- An identity root: tag layout 0, status 0, c 1.0. -/
def identityRoot (l : Layer) (x : Factor) (src : Nat) : List Byte :=
  rootHeader (structureTag l x (lyLambda l) 0) (lyLambda l) ⟨src, 0, 0, 0, 0, none1, 0⟩ ++ identityBody x

/-! Root sets (Table 08-9). -/

/-- The header of a set and its table of record offsets. -/
def setHeader (s : State) (l : Layer) (gen start swap : Nat) : List Byte :=
  let n := (ownedFactors s l).length
  bytesOfNat 4 l.num ++ bytesOfNat 4 gen ++ bytesOfNat 4 start ++ bytesOfNat 4 swap ++ bytesOfNat 2 n ++ bytesOfNat 14 0 ++
  bytesOfNat 4 (inputOff s l 0) ++ bytesOfNat 28 0 ++ (List.range n).flatMap (fun k => bytesOfNat 4 (rootOff s l k))

/-- A set whose roots are all identity roots. -/
def identitySet (s : State) (l : Layer) (set gen : Nat) : State :=
  let fs := ownedFactors s l
  putAll (putMem s set (setHeader s l gen 0 0))
    ((List.range fs.length).filterMap (fun n => (fs[n]?).map (fun x => (set + rootOff s l n, identityRoot l x 0))))

/-- The panels of a layer that the module owns. -/
def layerPanels (s : State) (l : Layer) : List Panel := (ownedPanels s).filter (fun pn => decide (pn.layer.num = l.num))

/-- A replica that is the identity (R216, R247). -/
def identityReplica (s : State) (pn : Panel) (g : Bool) (i gen : Nat) : State :=
  let x := sideFactor pn g
  putMem s (replicaAddr s pn g i)
    (bytesOfNat 4 gen ++ bytesOfNat 60 0 ++ identityRoot pn.layer { x with dim := if x.form = 1 then 1024 else x.dim } 0)

/-- Both sets and both replicas of a layer at the launch commit: set 0 takes gen 1 and set 1 gen 0 (R216). -/
def launchRoots (s : State) (l : Layer) : State :=
  let s := identitySet (identitySet s l l.set0 1) l l.set1 0
  (layerPanels s l).foldl (fun s pn => [true, false].foldl (fun s g =>
    identityReplica (identityReplica s pn g 0 1) pn g 1 0) s) s

/-- A count of a root set's header advanced. -/
def countRoot (s : State) (set off : Nat) : State := putNum s (set + off) 2 (readNat s (set + off) 2 + 1)

def putRoot (s : State) (l : Layer) (n : Nat) (bs : List Byte) : State := putMem s (floodOf s l + rootOff s l n) bs

/-- The step whose committed records the Flood set's cycle reads: the one before its start. -/
def srcStep (s : State) (l : Layer) : Nat := readNat s (floodOf s l + 8) 4 - 1

/-! Cycles. -/

def cycleOf (s : State) (num : Nat) : Option Cycle := s.job.cycles.find? (fun c => decide (c.layer = num))
def putCycle (s : State) (c : Cycle) : State :=
  setJob s { s.job with cycles := s.job.cycles.filter (fun x => decide (x.layer ≠ c.layer)) ++ [c] }
def endCycle (s : State) (num : Nat) : State :=
  setJob s { s.job with cycles := s.job.cycles.filter (fun x => decide (x.layer ≠ num)) }

/-- Factor n of a layer has finished: a root of the status that is counted at `off` stands in the Flood set (R215). -/
def finishFactor (s : State) (l : Layer) (n off : Nat) : State :=
  let s := countRoot s (floodOf s l) off
  match cycleOf s l.num with
  | none => s
  | some c => putCycle s { c with finished := c.finished ++ [n], placed := c.placed.filter (fun p => decide (p.slot ≠ n)) }

/-- The input copy of factor n. -/
def inputAddr (s : State) (l : Layer) (n : Nat) : Nat := floodOf s l + inputOff s l n

/-- The committed record of factor n copied into the input area; a factor that is not collected has none. -/
def copyInput (l : Layer) (s : State) (n : Nat) : State :=
  match (ownedFactors s l)[n]? with
  | none => s
  | some x =>
    match ownedFactor s l x with
    | none => s
    | some w =>
      let a := liveRecord s w
      if lyCollect l x.g then
        putMem (consumeRange s a (factorBytes x) 2 false 0 0) (inputAddr s l n) (srcBytes s a (factorBytes x))
      else s

/-- A factor without a merge, or not collected, is not solved: its root is the identity (R216). -/
def identityFactor (l : Layer) (s : State) (n : Nat) : State :=
  match (ownedFactors s l)[n]? with
  | none => s
  | some x =>
    if !lyCollect l x.g || decide (readNat s (inputAddr s l n + 0x10) 4 = 0) then
      finishFactor (putRoot s l n (identityRoot l x (srcStep s l))) l n 0x18
    else s

/-- The roots of a cycle as it begins, or begins again from its input copy after a restore (R217): header and counts, then the
identity roots. -/
def openCycle (s : State) (l : Layer) (step : Nat) : State :=
  let f := floodOf s l
  let t := putMem s f (setHeader s l (readNat s (f + 4) 4) step (step + lyLag l))
  (List.range (ownedFactors s l).length).foldl (identityFactor l) (putCycle t ⟨l.num, [], []⟩)

def beginCycle (s : State) (l : Layer) (step : Nat) : State :=
  openCycle ((List.range (ownedFactors s l).length).foldl (copyInput l) s) l step

/-- Every owned record of the layer is committed at step st. -/
def committedAt (s : State) (l : Layer) (st : Nat) : Bool :=
  (ownedFactors s l).all (fun x => match factorRecord s l x with
    | some k => decide ((recordStep s k).toNat = st)
    | none => true)

/-! Facets placed in Berths. -/

/-- A trace that is positive and finite (R227). -/
def traceOk (x : Num) : Bool := isFinite x && nlt nzero x
def inputTrace (s : State) (l : Layer) (n : Nat) : Num := src32 s (inputAddr s l n + 0x1C)

/-- B := F / tr + λ_u I from the record at a: each operation and the narrowing to binary32 round to nearest even on the Tug, and
the value is split (DEDUCED, assumption 82). -/
def facetB (s : State) (a : Nat) (lamU : Num) : PMat :=
  let h := recHead s a
  splitMat (sBuild h.dim (fun i j =>
    let f := if i = j then diagEntry s a i else if i < j then offEntry s a h i (j - i - 1) else offEntry s a h j (i - j - 1)
    let q := tdiv f (src32 s (a + 0x1C))
    t32 (if i = j then tadd q lamU else q)))

/-- The Crane in whose near Berths an area of a die lies. -/
def craneOfArea (die off : Nat) : Nat := 8 * die + off / 0x4000000 % 8

/-- A facet entry set for a solve of a facet of size n (Table 08-5). -/
def facetEntry (n start pcode : Nat) (areas : List Byte) (r : Nat) (lamU : Num) : List Byte :=
  let one := tadd none1 lamU
  bytesOfNat 2 n ++ [0#8, 0#8, BitVec.ofNat 8 start, 0#8, 0#8, 0#8] ++ areas ++ bytesOfNat 4 r ++
  bytesOfNat 4 (encode f32 (t32 (invRoot pcode one))) ++ bytesOfNat 4 (encode f32 (t32 (tdiv none1 one))) ++ bytesOfNat 24 0

/-- The four quarters of stored tile t of an area: hi lines 0 to 63 and 64 to 127, then lo lines (R232, R239). -/
def tileQuarters (die off t : Nat) : List Nat :=
  [0, 16384].flatMap (fun lo => [0, berthBytes].map (fun b => berthAddr die (off + 32768 * t + lo + b)))

/-- A root's tiles copied into an area, by quarters. -/
def tilesToArea (s : State) (a die off n : Nat) : List (Nat × List Byte) :=
  (List.range (triTiles (nbOf n))).flatMap (fun t =>
    (List.range 4).map (fun q => ((tileQuarters die off t).getD q 0, srcBytes s (a + 65536 * t + 16384 * q) 16384)))

def tilesOfArea (s : State) (die off n : Nat) : List Byte :=
  (List.range (triTiles (nbOf n))).flatMap (fun t => (tileQuarters die off t).flatMap (fun a => srcBytes s a 16384))

/-- The Ebb root of factor n carries the tag of its solve (R223). -/
def tagMatches (s : State) (l : Layer) (x : Factor) (n : Nat) (lamU : Num) : Bool :=
  decide (readNat s (ebbOf s l + rootOff s l n) 8 = structureTag l x lamU 1)

/-- Factor n waits to be placed. -/
def mayPlace (s : State) (l : Layer) (n : Nat) : Bool :=
  match cycleOf s l.num with
  | none => false
  | some c => !c.finished.contains n && !c.placed.any (fun p => decide (p.slot = n)) && traceOk (inputTrace s l n)

/-- Firmware forms B of a facet, its previous root for a warm start, and its facet entry (R222, R223). A side solved by the Cholesky
method starts afresh every time. -/
def placeFacet (l : Layer) (s : State) (p : FacetPlace) : State :=
  match (ownedFactors s l)[p.slot]? with
  | none => s
  | some x =>
    let die := p.entry.toNat / dieBytes
    let a := inputAddr s l p.slot
    let ebb := ebbOf s l + rootOff s l p.slot
    let lamU := lyLambda l
    let warm := !lyChol l x.g && tagMatches s l x p.slot lamU
    let areas := bytesOfNat 4 p.b.toNat ++ bytesOfNat 4 p.x.toNat ++ bytesOfNat 4 p.m.toNat ++ bytesOfNat 4 p.s1.toNat ++
      bytesOfNat 4 p.s2.toNat
    let t := consumeRange s a (factorBytes x) 2 false 0 0
    let t := if warm then consumeRange t ebb (factorRootBytes x) 2 false 0 0 else t
    let t := putAll t (areaWrites (craneOfArea die p.b.toNat) p.b.toNat x.dim (facetB s a lamU))
    let t := if warm then putAll t (tilesToArea s (ebb + 64) die p.r.toNat x.dim) else t
    let t := putMem t p.entry.toNat
      (facetEntry x.dim (if warm then 1 else 0) (lyPcode l x.g) areas (if warm then p.r.toNat else 0) lamU)
    let t := if warm || lyChol l x.g then t else countRoot t (floodOf s l) 0x1A
    match cycleOf s l.num with
    | none => s
    | some c =>
      if x.form = 0 ∧ windowOf p.entry.toNat = .berth ∧ mayPlace s l p.slot = true then
        putCycle t { c with placed := c.placed ++ [⟨p.slot, p.entry.toNat, false⟩] }
      else s

/-- The start of a cycle: the input copy, the header, and the facets of its first batch. Sent again in the same cycle it places
further facets (R214, R223; assumption 82). -/
def execRefreshCycleStart (layer step : BitVec 32) (places : List FacetPlace) (s : State) : Out :=
  match layerOf s layer.toNat with
  | none => turnedAway s
  | some l =>
    let st := step.toNat
    let running := (cycleOf s l.num).isSome && decide (readNat s (floodOf s l + 8) 4 = st)
    let fresh := (cycleOf s l.num).isNone && decide (1 ≤ st ∧ st % lyKr l = lyPhase l ∧ s.job.curStep = st) &&
      decide (readNat s (floodOf s l + 8) 4 ≠ st) && committedAt s l (st - 1) && secureRead s (st - 1)
    let t := if running then s else beginCycle s l st
    whenever (jobLive s && !lyFrozen l && (running || fresh)) (spendFree (places.foldl (placeFacet l) t)) s

/-- Every factor of the cycle has finished (R215). -/
def cycleFinished (s : State) (l : Layer) (c : Cycle) : Bool :=
  (List.range (ownedFactors s l).length).all (fun n => c.finished.contains n)

/-- At the boundary into swap_step or later, once every factor has finished, the Flood set becomes Ebb (R215, R216). -/
def execRootBankSwap (layer : BitVec 32) (s : State) : Out :=
  match layerOf s layer.toNat with
  | none => turnedAway s
  | some l =>
    match cycleOf s l.num with
    | none => turnedAway s
    | some c =>
      let f := floodOf s l
      whenever (jobLive s && cycleFinished s l c && decide (readNat s (f + 0xC) 4 ≤ s.job.curStep))
        (endCycle (putNum s (f + 4) 4 (readNat s (ebbOf s l + 4) 4 + 1)) l.num) s

/-! Solved, retried and stale facets. -/

/-- A solved facet's root (R239): converged or accepted, with what its entry says. -/
def solvedRoot (s : State) (l : Layer) (x : Factor) (p : Placed) : List Byte :=
  let e := srcBytes s p.entry 64
  let lamU := lambdaU l x.dim p.retried
  let how := (if lyChol l x.g then 8 else if at_ e 4 1 = 0 then 1 else if at_ e 4 1 = 2 then 2 else 0) + (if p.retried then 4 else 0)
  rootHeader (structureTag l x lamU 1) lamU ⟨srcStep s l, at_ e 2 1, at_ e 3 1, how, at_ e 0x28 4, none1, 0⟩ ++
    tilesOfArea s (p.entry / dieBytes) (at_ e 0xC 4) x.dim

/-- The ranges that copying a solved facet reads. -/
def solvedReads (s : State) (x : Factor) (p : Placed) : List (Nat × Nat) :=
  (p.entry, 64) :: (List.range (triTiles (nbOf x.dim))).flatMap (fun t =>
    (tileQuarters (p.entry / dieBytes) (readNat s (p.entry + 0xC) 4) t).map (fun a => (a, 16384)))

/-- A facet whose solve has ended in state 1 or 2: its root enters the Flood set and the counts. -/
def collectFacet (l : Layer) (s : State) (p : Placed) : State :=
  match (ownedFactors s l)[p.slot]? with
  | none => s
  | some x =>
    let st := readNat s (p.entry + 2) 1
    let t := putRoot (consumeAll s 2 0 (solvedReads s x p)) l p.slot (solvedRoot s l x p)
    let t := if readNat s (p.entry + 4) 1 = 2 then countRoot t (floodOf s l) 0x1C else t
    if st = 1 then finishFactor t l p.slot 0x12 else if st = 2 then finishFactor t l p.slot 0x14 else s

/-- The facets of a retired ROOTNS or CHOL that have ended (R215, R224). -/
def collectSolved (s : State) (c : Nat) (k : CraneCmd) : State :=
  let entries := (List.range (svCount k.desc)).map (svEntry c k.desc)
  if cwOp k.word = 0x10 ∨ cwOp k.word = 0x11 then
    s.job.cycles.foldl (fun s cy => match layerOf s cy.layer with
      | none => s
      | some l => (cy.placed.filter (fun p => entries.contains p.entry)).foldl (collectFacet l) s) s
  else s

/-- The oldest command of a queue retires on its token; one that was rejected or stopped retires with an error. Firmware then
copies the roots of the facets whose solves have ended (R130, R239). -/
def execCraneRetire (c : CraneIx) (q : Queue) (s : State) : Out :=
  match cmds (crane s c.val) q with
  | [] => turnedAway s
  | k :: rest =>
    let x := drainSteps (leaveQueue (crane s c.val) q k rest) k
    let t := setCrane s c.val x
    let t := fput t (if isBg q then F.craneStatusBgRetired c.val else F.craneStatusFgRetired c.val) k.seq.toNat
    let t := countLatency (countEvent t 0 c.val 5 1 0) 1 c.val 0
    whenever (ended k) (completeTag (if isBg q then spendFree (collectSolved t c.val k) else t) c.val q k) s

/-- The previous root kept, tiles and tag unchanged, with status 3 and stale_run one higher (R228). -/
def keepStale (s : State) (l : Layer) (x : Factor) (n : Nat) : State :=
  let a := ebbOf s l + rootOff s l n
  let bs := srcBytes s a (factorRootBytes x)
  let bs := bs.take 0xC ++ [3#8] ++ (bs.drop 0xD).take 0xB ++ bytesOfNat 4 (at_ bs 0x18 4 + 1) ++ bs.drop 0x1C
  finishFactor (putRoot (consumeRange s a (factorRootBytes x) 2 false 0 0) l n bs) l n 0x16

/-- A placed facet set back for one cold-start solve, or a fresh factorisation, of B' with more damping (R227). -/
def startRetry (s : State) (l : Layer) (x : Factor) (c : Cycle) (p : Placed) : State :=
  let e := srcBytes s p.entry 64
  let lamU := lambdaU l x.dim true
  let b := at_ e 8 4
  let t := putAll s (areaWrites (craneOfArea (p.entry / dieBytes) b) b x.dim (facetB s (inputAddr s l p.slot) lamU))
  let t := putMem t p.entry (facetEntry x.dim 0 (lyPcode l x.g) ((e.drop 8).take 20) 0 lamU)
  let t := if at_ e 4 1 = 2 then countRoot t (floodOf s l) 0x1C else t
  putCycle (countRoot t (floodOf s l) 0x1E)
    { c with placed := c.placed.filter (fun y => decide (y.slot ≠ p.slot)) ++ [{ p with retried := true }] }

/-- A failed facet is retried once, then kept stale; one whose trace is not usable goes straight to stale (R227, R228). -/
def execSolveRetry (layer : BitVec 32) (slot : BitVec 16) (s : State) : Out :=
  let n := slot.toNat
  match layerOf s layer.toNat with
  | none => turnedAway s
  | some l =>
    match cycleOf s l.num, (ownedFactors s l)[n]? with
    | some c, some x =>
      if c.finished.contains n || decide (x.form ≠ 0) || !jobLive s then turnedAway s
      else if !traceOk (inputTrace s l n) then .next (spendFree (keepStale s l x n))
      else
        match c.placed.find? (fun p => decide (p.slot = n)) with
        | none => turnedAway s
        | some p =>
          let st := readNat s (p.entry + 2) 1
          whenever (decide (3 ≤ st ∧ st ≤ 5)) (spendFree (if p.retried then keepStale s l x n else startRetry s l x c p)) s
    | _, _ => turnedAway s

/-! Roots formed by firmware. -/

/-- The unfinished sketch or diagonal-only factor of a side of a layer in a cycle, and its place. -/
def openFactor (s : State) (layer : Nat) (g : Bool) (form : Nat) : Option (Layer × Nat × Factor) :=
  match layerOf s layer with
  | none => none
  | some l =>
    match cycleOf s l.num with
    | none => none
    | some c =>
      let fs := ownedFactors s l
      match (List.range fs.length).find? (fun n => decide ((fs[n]?).map (fun x => (x.g, x.form)) = some (g, form)) &&
          !c.finished.contains n) with
      | none => none
      | some n => (fs[n]?).map (fun x => (l, n, x))

/-- Entry (i, j) of the test matrix Ω (R208). -/
def omega (s : State) (l : Layer) (g : Bool) (i j : Nat) : Num :=
  .fin ((draw s.job.seed (keyWord 0xFFFFFFFF (BitVec.ofNat 16 l.num) (if g then 0x8001 else 0x8000)) 4 (i * 256 + j)).getLsbD 63) 1 0

/-- A Crane sum over d indices in PASSES 3 mode with k_spill 4,096, drained to binary32 (R168, R229). -/
def chain3 (d : Nat) (a b : Nat → Num × Num) : Num :=
  rne32 ((chunks 4096 (d + 1) (List.range d)).foldl (fun p ks => add64 p (sum3 ks a b)) nzero)

/-- A dot product over an index list in binary64 on the Tug, in ascending order. -/
def tdot (ks : List Nat) (a b : Nat → Num) : Num := tsum (ks.map (fun k => tmul (a k) (b k)))

def rowsOf (n : Nat) (f : Nat → Nat → Num) : List (List Word) := (List.range n).map (fun i => (List.range n).map (fun j => enc64 (f i j)))

/-- A sketch root before it is written. -/
structure SketchRoot where
  c : Num
  sigma : List Num
  u : Nat → Nat → Num × Num

/-- The entries of the sketch record at a, divided by its trace (step 1 of R229). -/
def sketchY (s : State) (a : Nat) (h : RecHead) (i j : Nat) : Num := t32 (tdiv (offEntry s a h i j) (src32 s (a + 0x1C)))
def sketchD (s : State) (a i : Nat) : Num := t32 (tdiv (diagEntry s a i) (src32 s (a + 0x1C)))

/-- Step 2: C and Gm. -/
def sketchC (s : State) (l : Layer) (g : Bool) (a : Nat) (h : RecHead) (i j : Nat) : Num :=
  chain3 h.dim (fun k => (omega s l g k i, nzero)) (fun k => splitPair (sketchY s a h k j))
def sketchG (s : State) (a : Nat) (h : RecHead) (i j : Nat) : Num :=
  chain3 h.dim (fun k => splitPair (sketchY s a h k i)) (fun k => splitPair (sketchY s a h k j))

/-- Step 3's C_s. -/
def sketchCs (s : State) (l : Layer) (g : Bool) (a : Nat) (h : RecHead) (i j : Nat) : Num :=
  let c := sketchC s l g a h
  let eta := tdiv (tmul (lySTol l) (tsum ((List.range h.rank).map (fun k => c k k)))) (numOfInt h.rank)
  let m := tdiv (tadd (c i j) (c j i)) (numOfInt 2)
  if i = j then tadd m eta else m

/-- The columns kept: those with s_j above s_tol × max(S). -/
def keptColumns (l : Layer) (r : Nat) (sv : Nat → Num) : List Nat :=
  let top := (List.range r).foldl (fun m j => nmax m (sv j)) nzero
  (List.range r).filter (fun j => nlt (tmul (lySTol l) top) (sv j))

/-- Steps 3 to 5 with damping `lam`; none when no column is kept, a pivot is not positive, or the result is not finite. -/
def formSketch (s : State) (l : Layer) (g : Bool) (a : Nat) (h : RecHead) (lam : Num) : Option SketchRoot :=
  let r := h.rank
  let gm := rowsOf r (sketchG s a h)
  let sv := fun j => dec64 (Config.jacobiValue gm j)
  let v := fun i j => dec64 (Config.jacobiVector gm i j)
  let kept := keptColumns l r sv
  let col := fun j => kept.getD j 0
  match Config.choleskyInverse (rowsOf r (sketchCs s l g a h)) with
  | none => none
  | some inv =>
    let left := fun p k => tdot (List.range r) (fun i => tmul (tsqrt (sv (col p))) (v i (col p))) (fun i => dec64 (inv i k))
    let w := rowsOf kept.length (fun p q => tmul (tdot (List.range r) (left p) (fun k => v k (col q))) (tsqrt (sv (col q))))
    let lam' := fun j => dec64 (Config.jacobiValue w j)
    let e := fun i j => tdot (List.range kept.length) (fun p => tdiv (v i (col p)) (tsqrt (sv (col p))))
      (fun p => dec64 (Config.jacobiVector w p j))
    let u := fun i j => splitPair (sum3 (List.range r) (fun k => splitPair (sketchY s a h i k)) (fun k => splitPair (t32 (e k j))))
    let ks := List.range kept.length
    let miss := fun i => nmax nzero (tsub (sketchD s a i) (tsum (ks.map (fun j => tmul (tmul (pairVal (u i j)) (pairVal (u i j))) (lam' j)))))
    let nu := tadd lam (tdiv (tsum ((List.range h.dim).map miss)) (numOfInt h.dim))
    let c := invRoot (lyPcode l g) nu
    let sigma := ks.map (fun j => t32 (tsub (invRoot (lyPcode l g) (tadd (lam' j) nu)) c))
    let ok := !kept.isEmpty && isFinite (t32 c) && sigma.all isFinite &&
      (List.range h.dim).all (fun i => ks.all (fun j => isFinite (u i j).1 && isFinite (u i j).2))
    if ok then some ⟨t32 c, sigma, u⟩ else none

/-- σ and U of a sketch's root: columns from r' on are zero (Table 08-8). -/
def sketchBody (h : RecHead) (k : SketchRoot) : List Byte :=
  let part := fun (f : Num × Num → Num) => (List.range h.dim).flatMap (fun i => (List.range h.rank).flatMap (fun j =>
    bytesOfNat 2 (if j < k.sigma.length then encode bf16 (f (k.u i j)) else 0)))
  (List.range h.rank).flatMap (fun j => bytesOfNat 4 (encode f32 (k.sigma.getD j nzero))) ++ part (·.1) ++ part (·.2)

/-- A sketch's root written, of status 1. -/
def putSketch (s : State) (l : Layer) (x : Factor) (n : Nat) (h : RecHead) (retried : Bool) (k : SketchRoot) : State :=
  let lamU := lambdaU l x.dim retried
  let head := rootHeader (structureTag l x lamU 1) lamU ⟨srcStep s l, 1, 0, if retried then 4 else 0, 0, k.c, k.sigma.length⟩
  finishFactor (putRoot s l n (head ++ sketchBody h k)) l n 0x12

/-- A sketch's root from its input copy; a failure is retried once with λ + λ', and then kept stale (R227 to R229). -/
def sketchRoot (s : State) (l : Layer) (x : Factor) (n : Nat) : State :=
  let a := inputAddr s l n
  let h := recHead s a
  let t := consumeRange s a (factorBytes x) 2 false 0 0
  if !traceOk (inputTrace s l n) then keepStale t l x n
  else
    match formSketch s l x.g a h (lyLambda l) with
    | some k => putSketch t l x n h false k
    | none =>
      let t := countRoot t (floodOf s l) 0x1E
      match formSketch s l x.g a h (lambdaU l x.dim true) with
      | some k => putSketch t l x n h true k
      | none => keepStale t l x n

def execSketchRoot (layer : BitVec 32) (g : Bool) (s : State) : Out :=
  match openFactor s layer.toNat g 1 with
  | none => turnedAway s
  | some (l, n, x) => whenever (jobLive s) (spendFree (sketchRoot s l x n)) s

/-- A diagonal-only root (R230); one whose trace is not usable is stale. -/
def diagonalRoot (s : State) (l : Layer) (x : Factor) (n : Nat) : State :=
  let a := inputAddr s l n
  let t := consumeRange s a (factorBytes x) 2 false 0 0
  let lam := lyLambda l
  let body := (List.range x.dim).flatMap (fun i =>
    bytesOfNat 4 (encode f32 (t32 (invRoot (lyPcode l x.g) (tadd (tdiv (diagEntry s a i) (inputTrace s l n)) lam)))))
  if !traceOk (inputTrace s l n) then keepStale t l x n
  else finishFactor (putRoot t l n (rootHeader (structureTag l x lam 1) lam
    ⟨srcStep s l, 1, 0, 0, 0, none1, 0⟩ ++ body)) l n 0x12

def execDiagonalRoot (layer : BitVec 32) (g : Bool) (s : State) : Out :=
  match openFactor s layer.toNat g 2 with
  | none => turnedAway s
  | some (l, n, x) => whenever (jobLive s) (spendFree (diagonalRoot s l x n)) s

end Sys2Proof.Machine
end

