-- ==== Sys2Proof/Machine/Update.lean ====
section
/-! DEFINITION. The update units and the Ledger (R248 to R251, R254 to R257, R259, R261 to R267, R268, R391, R392). Every arithmetic
result inside an update unit is rounded to binary64 by round-to-odd. The operations read the live slot and the retained gradient
where they lie and write the shadow slot there: the moves between the Hold or the Warehouse and the Berths are not shown
(DESIGN CHOICE, assumption 81). -/

namespace Sys2Proof.Machine

/-! Operations outstanding. -/

def updOps (s : State) (d : Die) : List UpdOp := if d.val = 0 then s.ledger.upd0 else s.ledger.upd1
def setUpd (s : State) (d : Die) (l : List UpdOp) : State :=
  if d.val = 0 then { s with ledger := { s.ledger with upd0 := l } } else { s with ledger := { s.ledger with upd1 := l } }
def updHeld (s : State) (d : Die) : List Nat := if d.val = 0 then s.ledger.held0 else s.ledger.held1
def setUpdHeld (s : State) (d : Die) (l : List Nat) : State :=
  if d.val = 0 then { s with ledger := { s.ledger with held0 := l } } else { s with ledger := { s.ledger with held1 := l } }

/-- A write of LEDGER_UPD: issued, or held while 16 operations of the die are outstanding (R268). -/
def issueUpd (s : State) (d : Die) (desc : Nat) : State :=
  let s := fput s (F.ledgerUpdDesc d.val) (desc / 64)
  if (updOps s d).length < 16 ∧ updHeld s d = [] then setUpd s d (updOps s d ++ [⟨desc, false⟩])
  else setUpdHeld s d (updHeld s d ++ [desc])

def execLedgerUpdRelease (d : Die) (s : State) : Out :=
  match updHeld s d with
  | [] => turnedAway s
  | x :: rest =>
    whenever (decide ((updOps s d).length < 16)) (setUpdHeld (setUpd s d (updOps s d ++ [⟨x, false⟩])) d rest) s

/-- The first operation not yet carried out is marked so. -/
def doneFirst : List UpdOp → List UpdOp
  | [] => []
  | u :: rest => if u.done then u :: doneFirst rest else { u with done := true } :: rest

def undone (s : State) (d : Die) : Nat := ((updOps s d).filter (fun u => !u.done)).length

/-- An operation of a die carried out: its writes, and its turn in the issue order. -/
def carryOut (d : Die) (t s : State) : Out :=
  whenever (decide (0 < undone s d)) (spendFree (setUpd t d (doneFirst (updOps s d)))) s

/-- Operations retire in issue order (R248). -/
def execUpdateOpRetire (d : Die) (s : State) : Out :=
  match updOps s d with
  | [] => turnedAway s
  | u :: rest =>
    let f := if d.val = 0 then F.ledgerDoneDone0 else F.ledgerDoneDone1
    whenever u.done (countEvent (fput (setUpd s d rest) f (fget s f + 1)) 6 d.val 2 1 0) s

/-! GPACK (R250, R251). Panels are 1,024 × 1,024, row-major; elements beyond the valid extent are phantom (R244). -/

def panelIdx (r c : Nat) : Nat := r * 1024 + c

def bfAt (s : State) (a : Nat) : Num := decode bf16 (srcNat s a 2)

/-- The panel that a GPACK packs: of a trained layer, owned by any module. -/
def gpackPanel (s : State) (o : GpackOp) : Option Panel :=
  match layerOf s o.layer.toNat with
  | none => none
  | some l =>
    if lyFrozen l = false ∧ o.f.toNat < lyFG l ∧ o.g.toNat < lyFA l then
      some ⟨l, firstPanel s l + o.f.toNat * lyFA l + o.g.toNat, o.f.toNat, o.g.toNat⟩
    else none

/-- The gradient element number of element (r, c) of a panel (R250, R252). -/
def gradElem (pn : Panel) (r c : Nat) : Nat := (1024 * pn.f + r) * pn.layer.dc + 1024 * pn.g + c

def panelResidual (pn : Panel) : Nat := residualAddr pn.layer pn.f pn.g

/-- u of one element. -/
def gpackU (s : State) (o : GpackOp) (pn : Panel) (r c : Nat) : Num :=
  rto32 (nadd (src32 s (o.x.toNat + 4 * panelIdx r c))
    (if lyEfEn pn.layer then bfAt s (panelResidual pn + 2 * panelIdx r c) else nzero))

/-- The draw of one element (R158, R161). -/
def gpackRnd (s : State) (o : GpackOp) (pn : Panel) (r c : Nat) : Rnd :=
  .stoch (drawLow16 (draw s.job.seed (keyWord o.step (BitVec.ofNat 16 pn.layer.num) 0x8002#16) 1 (gradElem pn r c)))

/-- A valid row as elements for the converter. -/
def gpackRow (s : State) (o : GpackOp) (pn : Panel) (r : Nat) : List CElem :=
  (List.range (panelCols pn)).map (fun c => ⟨gpackU s o pn r c, false, panelIdx r c, gpackRnd s o pn r c⟩)

/-- Bytes padded to a length. -/
def zeroPad (n : Nat) (bs : List Byte) : List Byte := bs ++ List.replicate (n - bs.length) 0#8

/-- The converted rows from r on: E8 bytes, codes and counts. -/
def packRows (g : Bool) (b : Nat) (row : Nat → List CElem) : List Nat → Nsr → List Byte × List Byte × Nsr
  | [], n => ([], [], n)
  | r :: rest, n =>
    let (es, cs, n1) := convBlocks g b (chunks b 1024 (row r)) n
    let (es', cs', n2) := packRows g b row rest n1
    (zeroPad (1024 / b) es ++ es', zeroPad 1024 cs ++ cs', n2)

/-- Element (r, c) of a panel is valid. -/
def validAt (pn : Panel) (r c : Nat) : Bool := decide (r < panelRows pn ∧ c < panelCols pn)

/-- The residual of one element after its code. -/
def newResidual (u : Num) (e8 code : Byte) : Num := rtoBf (nsub u (scaled8 true e8 code))

def residualBytes (s : State) (o : GpackOp) (pn : Panel) (es cs : List Byte) : List Byte :=
  (List.range 1048576).flatMap (fun i =>
    if validAt pn (i / 1024) (i % 1024) then
      bytesOfNat 2 (encode bf16 (newResidual (gpackU s o pn (i / 1024) (i % 1024))
        (es.getD (i / lyBlkGrad pn.layer) 0) (cs.getD i 0)))
    else [0#8, 0#8])

/-- With ef_en set e_new replaces e_old at the residual address of the layer table, once the securing streams of the step before
have read it (R251, R392). -/
def execGpack (o : GpackOp) (s : State) : Out :=
  match gpackPanel s o with
  | none => turnedAway s
  | some pn =>
    let b := lyBlkGrad pn.layer
    let ef := lyEfEn pn.layer
    let (es, cs, n) := packRows true b (gpackRow s o pn) (List.range (panelRows pn)) {}
    let es := zeroPad (1048576 / b) es
    let cs := zeroPad 1048576 cs
    let t := consumeAll s 4 o.die.val ([(o.x.toNat, 4194304)] ++ (if ef then [(panelResidual pn, 2097152)] else []))
    let t := putMem (putMem t o.codes.toNat cs) o.scales.toNat es
    let t := if ef then putMem t (panelResidual pn) (residualBytes s o pn es cs) else t
    if jobLive s && (!ef || decide (o.step = 0) || secureRead s (o.step.toNat - 1)) then
      carryOut o.die (putMem t o.nsr.toNat (nsrBytes n 1 false true false false 0)) s
    else turnedAway s

/-! Preconditioning (R255, Table 09-1). -/

/-- The root of one side of a panel as an update of step st reads it: where its record lies and, for a sketch, the row of U at
which the panel's range begins. A module that owns the factor reads its own set, another one its replica; of the two of the
pair, the one whose gen is that of the step (R215, R247). -/
def sideRoot (s : State) (pn : Panel) (g : Bool) (st : Nat) : Option (Nat × Nat) :=
  let l := pn.layer
  let x := sideFactor pn g
  let n := (ownedFactors s l).idxOf x
  if (factorRecord s l x).isSome then
    ([l.set0, l.set1].find? (fun a => decide (readNat s (a + 4) 4 = genOfStep l st))).map (fun a =>
      (a + rootOff s l n, 1024 * (if g then pn.f else pn.g)))
  else
    ([0, 1].find? (fun i => decide (readNat s (replicaAddr s pn g i) 4 = genOfStep l st))).map (fun i => (replicaAddr s pn g i + 64, 0))

/-- Element (i, j) of a facet root's stored tiles, the lower ones read as transposes (R219, R239). -/
def rootElem (s : State) (a n i j : Nat) : Num × Num :=
  let (i, j) := if i / 128 ≤ j / 128 then (i, j) else (j, i)
  let p := a + 0x40 + 65536 * packedTile (nbOf n) (i / 128) (j / 128) + 256 * (i % 128) + 2 * ((j % 128 + 128 - i % 128) % 128)
  if i < n ∧ j < n then (bfAt s p, bfAt s (p + 32768)) else (nzero, nzero)

/-- Element (i, j) of a sketch root's U, of d rows. -/
def rootU (s : State) (a d r i j : Nat) : Num × Num :=
  let p := a + 0x40 + 4 * r + 2 * (i * r + j)
  if i < d ∧ j < r then (bfAt s p, bfAt s (p + 2 * d * r)) else (nzero, nzero)

/-- A Crane product in PASSES 3 mode over n indices, drained to binary32. -/
def prod3 (n : Nat) (a b : Nat → Nat → Num × Num) (r c : Nat) : Num := sum3 (List.range n) (a r) (fun k => b k c)

/-- One side's root at `at_` (record and first row of U) applied to a panel (Table 09-1). -/
def applySide (s : State) (pn : Panel) (g : Bool) (root : Nat × Nat) (m : Nat → Nat → Num) : Nat → Nat → Num :=
  let x := sideFactor pn g
  let a := root.1
  let ms := fun r c => splitPair (m r c)
  if !lyCollect pn.layer g || decide (srcNat s (a + 0xC) 1 = 0) then m
  else if x.form = 0 then
    let rt := rootElem s a x.dim
    if g then prod3 1024 rt ms else prod3 1024 ms rt
  else if x.form = 1 then
    let d := if root.2 = 0 ∧ (factorRecord s pn.layer x).isNone then 1024 else x.dim
    let u := fun i j => rootU s a d x.rank (root.2 + i) j
    let ut := fun j i => u i j
    let sigma := fun j => src32 s (a + 0x40 + 4 * j)
    let scaled := fun (t : Num) (v : Num) => rne32 (add64 (mul64 (src32 s (a + 0x1C)) t) v)
    if g then
      let w := fun j c => splitPair (rne32 (mul64 (sigma j) (prod3 1024 ut ms j c)))
      fun r c => scaled (m r c) (prod3 x.rank u w r c)
    else
      let w := fun r j => splitPair (rne32 (mul64 (prod3 1024 ms u r j) (sigma j)))
      fun r c => scaled (m r c) (prod3 x.rank w ut r c)
  else
    let v := fun i => src32 s (a + 0x40 + 4 * (1024 * (if g then pn.f else pn.g) + i))
    fun r c => rne32 (mul64 (v (if g then r else c)) (m r c))

/-! UPDATE (R255 to R257). -/

/-- What an UPDATE reads of its panel's gradient: g_red and D. -/
structure Grad where
  red : Nat → Num
  divisor : Nat

/-- The retained gradient of a panel (R254). -/
def retainedOf (s : State) (pn : Panel) : Option Retained :=
  s.ledger.retained.find? (fun x => decide (x.layer = pn.layer.num % 65536 ∧ x.first = gradElem pn 0 0))

/-- The retained gradient, once the reduce-scatter is complete; with P = 1 the module's own code decoded, and its own divisor
(R252, R253). -/
def gradOf (s : State) (o : UpdateOp) (pn : Panel) : Option Grad :=
  if s.job.p = 1 then
    some ⟨fun i => rto32 (scaled8 true (srcByte s (o.scales.toNat + i / lyBlkGrad pn.layer)) (srcByte s (o.codes.toNat + i))),
      srcNat s o.aux.toNat 4⟩
  else (retainedOf s pn).map (fun x => ⟨fun i => src32 s (x.addr + 4 * i), x.divisor⟩)

def updG (gr : Grad) (i : Nat) : Num := div64 (gr.red i) (numOfInt gr.divisor)

/-- gc, the operand of the preconditioning: phantom elements are zero. -/
def updGc (pn : Panel) (gr : Grad) (r c : Nat) : Num := if validAt pn r c then rto32 (updG gr (panelIdx r c)) else nzero

/-- P: the G side acts first, then the A side. -/
def updP (s : State) (pn : Panel) (gr : Grad) (rg ra : Nat × Nat) : Nat → Nat → Num :=
  applySide s pn false ra (applySide s pn true rg (updGc pn gr))

/-- What an UPDATE works from: the panel, the live slot, the gradient, P row-major, and the step. -/
structure Upd where
  pn : Panel
  slot : Nat
  gr : Grad
  p : Nat → Num
  st : Nat

def updV (s : State) (u : Upd) (i : Nat) : Num :=
  let b2 := f32At u.pn.layer.upd 8
  let x := yiVal (srcByte s (u.slot + partCodes + i)) (src32 s (u.slot + partScales + 4 * (i / 128)))
  let g := updG u.gr i
  add64 (mul64 b2 (mul64 x x)) (mul64 (mul64 (nsub none1 b2) g) g)

def updA (s : State) (u : Upd) (i : Nat) : Num := div64 (updG u.gr i) (add64 (sqrt64 (updV s u i)) (f32At u.pn.layer.upd 0xC))

/-- The valid elements, ascending row-major. -/
def validIdx (pn : Panel) : List Nat := (List.range (panelRows pn)).flatMap (fun r => (List.range (panelCols pn)).map (panelIdx r))

/-- √ of a sum of squares. -/
def norm64 (xs : List Num) : Num := sqrt64 (xs.foldl (fun a x => add64 a (mul64 x x)) nzero)

/-- The new momentum and weight of one element; `ratio` is na / np, or none when np is not above 0. -/
def updMu (s : State) (u : Upd) (ratio : Option Num) (i : Nat) : Num :=
  add64 (mul64 (f32At u.pn.layer.upd 4) (src32 s (u.slot + partMu + 4 * i)))
    (match ratio with
     | some q => mul64 (u.p i) q
     | none => nzero)

def updW (s : State) (u : Upd) (ratio : Option Num) (i : Nat) : Num :=
  let lr := lyRate s u.pn.layer u.st
  let w := src32 s (u.slot + 4 * i)
  sub64 (sub64 w (mul64 lr (updMu s u ratio i))) (mul64 (mul64 lr (f32At u.pn.layer.upd 0x10)) w)

def updNa (s : State) (u : Upd) : Num := norm64 ((validIdx u.pn).map (updA s u))
def updNp (u : Upd) : Num := norm64 ((validIdx u.pn).map u.p)
def updRatio (s : State) (u : Upd) : Option Num := if nlt nzero (updNp u) then some (div64 (updNa s u) (updNp u)) else none

/-- The panel is skipped (R257). -/
def updSkipped (s : State) (u : Upd) : Bool :=
  decide (u.gr.divisor = 0) || (validIdx u.pn).any (fun i => !isFinite (u.gr.red i)) || !isFinite (updNa s u) || !isFinite (updNp u)

/-- The 128 elements of a block of √v, phantom ones zero (R209, R244). -/
def momentBlock (s : State) (u : Upd) (blk : Nat) : List Num :=
  (List.range 128).map (fun k =>
    let i := blk * 128 + k
    if validAt u.pn (i / 1024) (i % 1024) then sqrt64 (updV s u i) else nzero)

def panelWords (pn : Panel) (f : Nat → Num) : List Byte :=
  (List.range 1048576).flatMap (fun i => bytesOfNat 4 (if validAt pn (i / 1024) (i % 1024) then encode f32 (rne32 (f i)) else 0))

/-- The new arrays of a slot; those of a skipped panel are the old ones. -/
def newSlot (s : State) (u : Upd) : List Byte :=
  let rows := (List.range 8192).map (fun b => storedRow (momentBlock s u b))
  if updSkipped s u then srcBytes s u.slot partFactors
  else panelWords u.pn (updW s u (updRatio s u)) ++ panelWords u.pn (updMu s u (updRatio s u)) ++ rows.flatMap (·.1) ++ rows.flatMap (·.2)

/-- An attached factor that the step merges. -/
def mergeDue (pn : Panel) (st : Nat) (x : Factor) : Bool := lyCollect pn.layer x.g && decide (st % lyKc pn.layer = 0)

/-- The attached records that the step does not merge are copied into the shadow slot with the rest of the state. -/
def copyFactors (s t : State) (k : Nat) (pn : Panel) (st : Nat) : State :=
  putAll t (((attached pn).filter (fun x => !mergeDue pn st x)).map (fun x =>
    (factorAddr s pn x (shadowSlot s k), srcBytes s (factorAddr s pn x (liveSlot s k)) (factorBytes x))))

/-- The ranges an UPDATE reads outside its operands in Config's order: live slot, gradient, roots. -/
def updReads (s : State) (o : UpdateOp) (u : Upd) (rg ra : Nat × Nat) : List (Nat × Nat) :=
  [(u.slot, slotBytes u.pn), (rg.1, factorRootBytes (sideFactor u.pn true)), (ra.1, factorRootBytes (sideFactor u.pn false))] ++
  (match retainedOf s u.pn with
   | some x => [(x.addr, 4194304)]
   | none => [(o.codes.toNat, 1048576), (o.scales.toNat, 1048576 / lyBlkGrad u.pn.layer), (o.aux.toNat, 4)])

/-- The update of a record's next step from the live slot into the shadow slot (R24, R25, R261): it waits for the retained gradient,
for the roots of its step, and for the securing that reads the shadow slot (R215, R247, R392). -/
def execUpdate (o : UpdateOp) (s : State) : Out :=
  let k := o.index.toNat
  match recordPanel s k with
  | none => turnedAway s
  | some pn =>
    let st := (nextStep s k).toNat
    match gradOf s o pn, sideRoot s pn true st, sideRoot s pn false st with
    | some gr, some rg, some ra =>
      let u : Upd := ⟨pn, stateSlot s pn (liveSlot s k), gr, fun i => updP s pn gr rg ra (i / 1024) (i % 1024), st⟩
      let t := consumeAll s 4 o.die.val (updReads s o u rg ra)
      let t := copyFactors s (putMem t (stateSlot s pn (shadowSlot s k)) (newSlot s u)) k pn st
      let sh := { shadowOf s k with
        updated := true, divisor := gr.divisor % 2 ^ 32, genG := genOfStep pn.layer st, genA := genOfStep pn.layer st
        skipped := updSkipped s u }
      if jobLive s && mayShadow s st then carryOut o.die (putShadow t sh) s else turnedAway s
    | _, _, _ => turnedAway s

/-! EMIT (R265). -/

def emitRow (s : State) (pn : Panel) (slot r : Nat) : List CElem :=
  (List.range (panelCols pn)).map (fun c =>
    ⟨div64 (src32 s (slot + 4 * panelIdx r c)) (f32At pn.layer.upd 0x14), false, panelIdx r c, .rne⟩)

/-- The image's header: version, layer, panel, per-tensor scale, block-size code (Table 12-3). -/
def imageHeader (pn : Panel) (version : Nat) : List Byte :=
  zeroPad 64 (bytesOfNat 4 version ++ bytesOfNat 4 pn.layer.num ++ bytesOfNat 4 pn.q ++ bytesOfNat 4 (at_ pn.layer.upd 0x14 4) ++
    bytesOfNat 1 (at_ pn.layer.upd 3 1 / 4 % 4))

/-- The gather image of the master in a slot. -/
def emittedImage (s : State) (pn : Panel) (slot version : Nat) : List Byte :=
  let b := lyBlkImg pn.layer
  let (es, cs, _) := packRows false b (emitRow s pn slot) (List.range (panelRows pn)) {}
  imageHeader pn version ++ zeroPad 1048576 cs ++ zeroPad (1048576 / b) es

/-- EMIT writes the image of the new master into the image slot that is not live, after the panel's UPDATE; a panel with emit_en
clear keeps no image. -/
def execEmit (o : EmitOp) (s : State) : Out :=
  let k := o.index.toNat
  match recordPanel s k with
  | none => turnedAway s
  | some pn =>
    let sh := shadowOf s k
    let slot := stateSlot s pn (shadowSlot s k)
    let t := consumeAll s 4 o.die.val [(slot, 4194304)]
    let t := putMem t (imageSlot s pn (shadowSlot s k)) (emittedImage s pn slot (sh.step.toNat + 1))
    if jobLive s && lyEmit pn.layer && sh.updated then carryOut o.die (putShadow t { sh with emitted := true }) s else turnedAway s

/-! The Ledger (R262, R263). -/

/-- A flip accepted. -/
def acceptFlip (s : State) (index : Nat) : State :=
  let s := fput s F.ledgerFlipIndex index
  fput { s with ledger := { s.ledger with flips := s.ledger.flips ++ [index] } } F.ledgerStatusPending
    (fget s F.ledgerStatusPending + 1)

/-- A flip is accepted for a record of a real panel; at most 16 are pending, and none starts once the job has been stopped
(R379, Table 09-5). -/
def mayFlip (s : State) (index : Nat) : Bool :=
  decide (fget s F.ledgerStatusPending < 16) && !s.job.stopped && (recordPanel s index).isSome

def execLedgerFlip (index : BitVec 16) (s : State) : Out :=
  whenever (mayFlip s index.toNat) (acceptFlip s index.toNat) s

/-- A record from its fields (Table 09-3). -/
def ledgerBytes (flags q layer step divisor genG genA version skips flips : Nat) : List Byte :=
  let body := bytesOfNat 4 0x5247444C ++ bytesOfNat 2 1 ++ bytesOfNat 1 flags ++ [0#8] ++ bytesOfNat 4 q ++ bytesOfNat 4 layer ++
    bytesOfNat 4 step ++ bytesOfNat 4 divisor ++ bytesOfNat 4 genG ++ bytesOfNat 4 genA ++ bytesOfNat 4 version ++
    bytesOfNat 4 skips ++ bytesOfNat 8 flips
  body ++ shake256 16 body

/-- The record of a panel at the launch (R262, R346). -/
def launchRecord (pn : Panel) : List Byte := ledgerBytes 0 pn.q pn.layer.num 0xFFFFFFFF 0 0 0 0 0 0

/-- The new record from the old one and what has been written for the flip. -/
def flippedRecord (old : List Byte) (sh : Shadow) : List Byte :=
  let fl := at_ old 6 1
  ledgerBytes ((if fl % 2 = 1 then 0 else 1) + (if sh.skipped then 2 else 0) + (if fl / 4 % 2 = 1 then 4 else 0)) (at_ old 8 4)
    (at_ old 0xC 4) sh.step.toNat sh.divisor sh.genG sh.genA (if sh.emitted then sh.step.toNat + 1 else at_ old 0x20 4)
    (at_ old 0x24 4 + if sh.skipped then 1 else 0) (at_ old 0x28 8 + 1)

/-- ERR_SECURE.secured_step has reached st; 0xFFFF_FFFF lies below every step (R391). -/
def securedReached (s : State) (st : Nat) : Bool :=
  decide (fget s F.errSecureSecuredStep ≠ 0xFFFFFFFF ∧ st ≤ fget s F.errSecureSecuredStep)

/-- A flip of step st waits for the securing of step st − 2 and for the Ledger copy of step st − 1 (R391, R392). -/
def flipMayComplete (s : State) (st : Nat) : Bool :=
  !jobLive s ||
    ((decide (st < 2) || decide ((st - 2) % s.job.s ≠ 0) || securedReached s (st - 2)) &&
     (decide (st < 1) || !securedStepDue s (st - 1) || decide (s.job.ledgerCopiedStep.toNat = st - 1)))

/-- Every record of the Ledger is of step st. -/
def allFlipped (s : State) (st : Nat) : Bool :=
  (List.range (ownedPanels s).length).all (fun i => decide ((recordStep s i).toNat = st))

/-- Firmware's copy of the Ledger records of a step that will be secured (R392). -/
def copyLedger (s : State) (st : Nat) : State :=
  let a := ledgerRecord s 0
  let n := 64 * (ownedPanels s).length
  { s with job := { s.job with
      ledgerCopied := s.mem.filter (fun p => decide (a ≤ p.1 ∧ p.1 < a + n)), ledgerCopiedStep := BitVec.ofNat 32 st } }

/-- Every flip of a step has been performed: the status page's step follows, and the Ledger is copied where the step will be
secured. -/
def closeStep (s : State) (st : Nat) : State :=
  if jobLive s && allFlipped s st then
    let s := setJob s { s.job with step := BitVec.ofNat 32 st }
    if securedStepDue s st then copyLedger s st else s
  else s

/-- The shadow set of a record is written whole: its UPDATE, its EMIT and its attached merges (R263). -/
def shadowWritten (pn : Panel) (sh : Shadow) : Bool :=
  sh.updated && (!lyEmit pn.layer || sh.emitted) &&
    ((attached pn).filter (mergeDue pn sh.step.toNat)).all (fun x => sh.merged.contains x.g)

/-- The flip's record is written at once, the flip counted, and the panel's retained gradient released. -/
def performFlip (s : State) (k : Nat) (rest : List Nat) (pn : Panel) (sh : Shadow) : State :=
  let a := ledgerRecord s k
  let t := consumeRange s a 64 5 false (homeDie s a) 0
  let t := putMem t a (flippedRecord (srcBytes s a 64) sh)
  let t := { t with ledger := { t.ledger with
    flips := rest, shadows := t.ledger.shadows.filter (fun x => decide (x.index ≠ k))
    retained := t.ledger.retained.filter (fun x => !decide (x.layer = pn.layer.num % 65536 ∧ x.first = gradElem pn 0 0)) } }
  let t := fput (fcount t F.ledgerStatusFlips 1) F.ledgerStatusPending (fget s F.ledgerStatusPending - 1)
  closeStep (countEvent t 6 0 3 1 0) sh.step.toNat

def execFlipPerformed (s : State) : Out :=
  match s.ledger.flips with
  | [] => turnedAway s
  | k :: rest =>
    match recordPanel s k with
    | none => turnedAway s
    | some pn =>
      let sh := shadowOf s k
      whenever (shadowWritten pn sh && flipMayComplete s sh.step.toNat) (spendFree (performFlip s k rest pn sh)) s

end Sys2Proof.Machine
end

