-- ==== Sys2Proof/Machine/Barge.lean ====
section
/-! DEFINITION. The Barges and the storage streams (R187, R188, R287 to R297, R343, R344). A stream reads when it begins, once
its gate is open, and performs its writes when it completes. -/

namespace Sys2Proof.Machine

/-! Starts (R288). -/

/-- Firmware entries of the stream table (R287). -/
def fwStream (i : Nat) : Bool := decide (31744 ≤ i ∧ i ≤ 32767) || decide (64512 ≤ i ∧ i ≤ 65535)

/-- A BARGE entry of the active epoch schedules the Barge. -/
def bargeScheduled (s : State) (b : Nat) : Bool :=
  match s.tide.epoch with
  | none => false
  | some ep => ep.entries.any (fun e => decide (e.kind = 3 ∧ e.res = b))

/-- While a stream is current the Barge has read the descriptor of its next one (R288). -/
def readAhead (s : State) (b : Nat) : State :=
  let y := bargeSt s b
  match y.cur, y.queue with
  | some _, x :: rest =>
    if x.desc.isNone then setBarge s b { y with queue := { x with desc := some (readBytes s (bargeDescAddr s x.stream) 128) } :: rest }
    else s
  | _, _ => s

/-- A started stream queues, or its start is held while eight wait. -/
def enqueueStart (s : State) (b : Nat) (x : BargeStart) : State :=
  let y := bargeSt s b
  if y.queue.length < 8 ∧ y.held = [] then readAhead (setBarge s b { y with queue := y.queue ++ [x] }) b
  else setBarge s b { y with held := y.held ++ [x] }

/-- A start that a job or the host may not make: a firmware entry, or a Barge that the epoch schedules (R288). -/
def startDenied (s : State) (who : Agent) (stream b : Nat) : Bool := !isFw who && (fwStream stream || bargeScheduled s b)

/-- A write to BARGE_START. -/
def writeBargeStart (s : State) (who : Agent) (die stream b : Nat) : State :=
  if startDenied s who stream b then
    match who with
    | .job t => violation s t.val 1 (0x41A00008 + 0x100000 * die)
    | _ => s
  else enqueueStart s b { stream := stream, job := !isFw who }

def execBargeStart (who : Agent) (die : Die) (stream : BitVec 16) (b : Fin 32) (s : State) : Out :=
  .next (writeBargeStart s who die.val stream.toNat (32 * die.val + b.val))

def execBargeStartRelease (b : BargeIx) (s : State) : Out :=
  let y := bargeSt s b.val
  match y.held with
  | [] => turnedAway s
  | x :: rest =>
    whenever (decide (y.queue.length < 8)) (readAhead (setBarge s b.val { y with queue := y.queue ++ [x], held := rest }) b.val) s

/-! The descriptor (Table 10-3). -/

def bdSrc (d : List Byte) : Nat := at_ d 0 8
def bdDst (d : List Byte) : Nat := at_ d 8 8
def bdSrcScale (d : List Byte) : Nat := at_ d 0x10 8
def bdDstScale (d : List Byte) : Nat := at_ d 0x18 8
def bdNsr (d : List Byte) : Nat := at_ d 0x20 8
def bdRows (d : List Byte) : Nat := at_ d 0x28 4
def bdCols (d : List Byte) : Nat := at_ d 0x2C 4
def bdSrcPitch (d : List Byte) : Nat := at_ d 0x30 4
def bdDstPitch (d : List Byte) : Nat := at_ d 0x34 4
def bdSrcSpitch (d : List Byte) : Nat := at_ d 0x38 4
def bdDstSpitch (d : List Byte) : Nat := at_ d 0x3C 4
def bdOp (d : List Byte) : Nat := at_ d 0x50 1
def bdSrcKind (d : List Byte) : Nat := bdOp d % 4
def bdDstKind (d : List Byte) : Nat := bdOp d / 4 % 4
def bdTranspose (d : List Byte) : Bool := decide (bdOp d / 16 % 2 = 1)
def bdConvert (d : List Byte) : Bool := decide (bdOp d / 32 % 2 = 1)
def bdSplit (d : List Byte) : Bool := decide (bdOp d / 64 % 2 = 1)
def bdRotate (d : List Byte) : Bool := decide (bdOp d / 128 % 2 = 1)
def bdSrcFmt (d : List Byte) : Nat := at_ d 0x51 1 % 16
def bdDstFmt (d : List Byte) : Nat := at_ d 0x51 1 / 16
def bdGeom (d : List Byte) : Nat := at_ d 0x52 1
def bdGated (d : List Byte) : Bool := decide (at_ d 0x53 1 / 2 % 2 = 1)
def bdRuns (d : List Byte) : Nat := at_ d 0x54 4
def bdDone (d : List Byte) : Nat := at_ d 0x58 8
def bdGate (d : List Byte) : Nat := at_ d 0x60 8
def bdHc (d : List Byte) : Bool := decide (at_ d 0x53 1 % 2 = 1)
def srcBlk (d : List Byte) : Nat := blkSize (bdGeom d / 4)
def dstBlk (d : List Byte) : Nat := blkSize (bdGeom d / 16)

/-- Bytes of an element of a format. -/
def fmtBytes (f : Nat) : Nat := if f = 2 ∨ f = 5 then 2 else if f = 3 then 4 else 1
def srcEs (d : List Byte) : Nat := if bdConvert d then fmtBytes (bdSrcFmt d) else 2 ^ (bdGeom d % 4)
def dstEs (d : List Byte) : Nat := if bdConvert d then fmtBytes (bdDstFmt d) else 2 ^ (bdGeom d % 4)
def src8 (d : List Byte) : Bool := bdConvert d && decide (bdSrcFmt d ≤ 1)
def dst8 (d : List Byte) : Bool := bdConvert d && decide (bdDstFmt d ≤ 1)
def dstPair (d : List Byte) : Bool := bdConvert d && decide (bdDstFmt d = 5)
def dstRows (d : List Byte) : Nat := if bdTranspose d then bdCols d else bdRows d
def dstCols (d : List Byte) : Nat := if bdTranspose d then bdRows d else bdCols d

/-! Addresses (R290, R291). -/

def srcAddr (d : List Byte) (r c : Nat) : Nat := bdSrc d + r * bdSrcPitch d + c * srcEs d
def srcScaleAddr (d : List Byte) (r c : Nat) : Nat := bdSrcScale d + r * bdSrcSpitch d + c / srcBlk d

/-- The position of element c in line r of a tile. -/
def linePos (d : List Byte) (r c : Nat) : Nat :=
  if bdRotate d then (if dstEs d = 1 then (c + 256 - 2 * (r % 128)) % 128 else (c + 128 - r % 128) % 128) else c

/-- Place of destination row i relative to the base of its array, for element bytes. -/
def rowPlace (d : List Byte) (i pitch : Nat) : Nat :=
  if bdSplit d then i / 128 * pitch + i % 64 * (128 * dstEs d) + (if 64 ≤ i % 128 then berthBytes else 0) else i * pitch

def dstAddr (d : List Byte) (i c : Nat) : Nat := bdDst d + rowPlace d i (bdDstPitch d) + linePos d i c * dstEs d
def loAddr (d : List Byte) (i c : Nat) : Nat := bdDstScale d + rowPlace d i (bdDstSpitch d) + linePos d i c * 2
def dstScaleAddr (d : List Byte) (i q : Nat) : Nat :=
  if bdSplit d then bdDstScale d + i / 128 * bdDstSpitch d + i % 128 * (128 / dstBlk d) + q else bdDstScale d + i * bdDstSpitch d + q

/-! Checks (R295), in the order of their causes. -/

/-- The pairs of Table 06-10. -/
def pairKnown (sf df : Nat) : Bool :=
  (decide (sf ≤ 1) && decide (df = 2 ∨ df = 3)) || decide (sf = 2 ∧ (df = 3 ∨ df ≤ 1)) || decide (sf = 3 ∧ (df = 2 ∨ df = 5 ∨ df ≤ 1))

/-- Reserved fields, invalid values, unused fields and the alignment of used ones (cause 1). -/
def formOk (d : List Byte) : Bool :=
  decide (bdSrcKind d ≠ 3 ∧ bdDstKind d ≤ 1 ∧ at_ d 0x78 8 = 0 ∧ at_ d 0x4F 1 = 0 ∧ bdGeom d < 64 ∧
    at_ d 0x53 1 < 4) &&
  decide (bdSrc d < (if bdSrcKind d = 1 then 2 ^ 16 else 2 ^ 48) ∧ bdDst d < (if bdDstKind d = 1 then 2 ^ 16 else 2 ^ 48)) &&
  (!bdRotate d || bdSplit d) &&
  (if bdConvert d then
     decide (bdSrcFmt d ≤ 5 ∧ bdDstFmt d ≤ 5 ∧ bdGeom d % 4 = 0) && (src8 d || decide (bdSrcScale d = 0 ∧ bdGeom d / 4 % 4 = 0)) &&
       (dst8 d || decide (bdGeom d / 16 = 0)) && (dst8 d || dstPair d || decide (bdDstScale d = 0))
   else decide (bdSrcScale d = 0 ∧ bdDstScale d = 0 ∧ bdGeom d / 4 = 0)) &&
  (decide (bdSrcKind d = 0) || decide (bdSrcPitch d = 0)) && (decide (bdDstKind d = 0) || decide (bdDstPitch d = 0)) &&
  (src8 d || decide (bdSrcSpitch d = 0)) && (dst8 d || dstPair d || decide (bdDstSpitch d = 0)) &&
  ((bdConvert d && decide (bdDstFmt d = 1)) || decide (at_ d 0x40 8 = 0 ∧ at_ d 0x48 7 = 0)) &&
  decide (bdNsr d % 32 = 0 ∧ bdDone d % 8 = 0) &&
  (if bdGated d then decide (bdGate d % 8 = 0) else decide (bdGate d = 0 ∧ at_ d 0x68 8 = 0 ∧ at_ d 0x70 8 = 0))

/-- A tile area of split: 64 lines of each tile lie in the Berth of its base, which is not the last of its die. -/
def tilesFit (d : List Byte) (base pitch : Nat) : Bool :=
  decide (windowOf base = .berth ∧ base % dieBytes / berthBytes ≠ 63 ∧
    base % berthBytes + (dstRows d / 128 - 1) * pitch + 8192 * dstEs d ≤ berthBytes)

/-- The geometry of R290 and R291 (cause 3). No pitch is smaller than its row; the pitch between tiles counts where there is more
than one tile. -/
def geometryOk (d : List Byte) : Bool :=
  decide (1 ≤ bdRows d ∧ bdRows d ≤ 2 ^ 24 ∧ 1 ≤ bdCols d ∧ bdCols d ≤ 2 ^ 24) &&
  (decide (bdSrcKind d ≠ 0) || decide (bdCols d * srcEs d ≤ bdSrcPitch d)) &&
  (!src8 d || decide (bdCols d % srcBlk d = 0 ∧ bdCols d / srcBlk d ≤ bdSrcSpitch d)) &&
  (!dst8 d || decide (dstCols d % dstBlk d = 0)) &&
  (if bdSplit d then
     decide (bdDstKind d = 0 ∧ dstCols d = 128 ∧ dstEs d ≤ 2 ∧ dstRows d % 128 = 0) && tilesFit d (bdDst d) (bdDstPitch d) &&
     (!dstPair d || tilesFit d (bdDstScale d) (bdDstSpitch d)) &&
     (decide (dstRows d = 128) || (decide (8192 * dstEs d ≤ bdDstPitch d) && (!dst8 d || decide (128 * (128 / dstBlk d) ≤ bdDstSpitch d)) &&
       (!dstPair d || decide (16384 ≤ bdDstSpitch d))))
   else
     (decide (bdDstKind d ≠ 0) || decide (dstCols d * dstEs d ≤ bdDstPitch d)) &&
     (!dst8 d || decide (dstCols d / dstBlk d ≤ bdDstSpitch d)) && (!dstPair d || decide (2 * dstCols d ≤ bdDstSpitch d)))

/-- A storage source's extent record fits its stream (R343, cause 3). -/
def extentOk (s : State) (d : List Byte) : Bool :=
  let e := readBytes s (bdSrc d) 64
  let tgt := at_ e 0 1
  let lba := Config.lbaSize tgt (at_ e 4 4)
  targetConnected s tgt && decide (at_ e 0x10 8 % lba = 0) &&
  decide (at_ e 8 8 * lba + at_ e 0x10 8 ≤ Config.namespaceBytes tgt (at_ e 4 4)) &&
  decide (at_ e 0x10 8 = bdRows d * bdCols d * srcEs d)

/-- Every byte that a stream reads or writes: device ranges (R295). -/
def streamFoot (d : List Byte) : List Foot :=
  (if bdSrcKind d = 0 then (List.range (bdRows d)).map (fun r => ⟨srcAddr d r 0, bdCols d * srcEs d, false⟩)
   else if bdSrcKind d = 2 then [⟨bdSrc d, 64, false⟩] else []) ++
  (if src8 d then (List.range (bdRows d)).map (fun r => ⟨srcScaleAddr d r 0, bdCols d / srcBlk d, false⟩) else []) ++
  (if bdDstKind d = 0 then (List.range (dstRows d)).map (fun i => ⟨bdDst d + rowPlace d i (bdDstPitch d), dstCols d * dstEs d, true⟩) else []) ++
  (if dst8 d then (List.range (dstRows d)).map (fun i => ⟨dstScaleAddr d i 0, dstCols d / dstBlk d, true⟩) else []) ++
  (if dstPair d then (List.range (dstRows d)).map (fun i => ⟨bdDstScale d + rowPlace d i (bdDstSpitch d), dstCols d * 2, true⟩) else []) ++
  (if bdConvert d && decide (bdNsr d ≠ 0) then [⟨bdNsr d, 32, true⟩] else []) ++
  (if bdDone d ≠ 0 then [⟨bdDone d, 8, true⟩] else []) ++ (if bdGated d then [⟨bdGate d, 8, false⟩] else [])

/-- The cause for which a stream is rejected; 0 for none. -/
def streamCause (s : State) (b : Nat) (x : BargeStart) (d : List Byte) : Nat :=
  if !formOk d then 1
  else if bdConvert d && !pairKnown (bdSrcFmt d) (bdDstFmt d) then 2
  else if !geometryOk d || (decide (bdSrcKind d = 2) && !extentOk s d) then 3
  else if (streamFoot d).any (fun f => !populatedRange s f.addr f.len) then 4
  else if !fwStream x.stream && (streamFoot d).any (fun f => !regionOk s (b / 32) (if f.wr then .write else .read) f.addr f.len) then 5
  else if x.job && (fwStream x.stream || decide (s.job.streams ≤ x.stream)) then 6
  else 0

/-- A rejection: the first one on the die is captured, and one of a job stream is a program fault (R295). -/
def rejectStream (s : State) (b : Nat) (x : BargeStart) (cause : Nat) : State :=
  let die := b / 32
  let s := countEvent s 2 b 5 1 0
  let s := if fwStream x.stream then s else { s with job := { s.job with rejected := s.job.rejected ++ [die] } }
  if flag s (F.bargeFaultValid die) then s
  else
    fput (fputBool (fput (fput (fput s (F.bargeFaultStream die) x.stream) (F.bargeFaultBarge die) (b % 32))
      (F.bargeFaultCause die) cause) (F.bargeFaultFw die) (fwStream x.stream)) (F.bargeFaultValid die) 1

/-! The values a stream writes. -/

/-- Where a stream's source bytes come from: memory, or a byte sequence in source row-major order. -/
abbrev Source := Option (List Byte)

def elemSrc (s : State) (d : List Byte) (src : Source) (r c : Nat) : List Byte :=
  match src with
  | none => readBytes s (srcAddr d r c) (srcEs d)
  | some bs => (bs.drop ((r * bdCols d + c) * srcEs d)).take (srcEs d)

/-- The source bytes of destination element (i, j) are poisoned. -/
def elemPoison (s : State) (d : List Byte) (src : Source) (i j : Nat) : Bool :=
  let (r, c) := if bdTranspose d then (j, i) else (i, j)
  (src.isNone && poisonedRange s (srcAddr d r c) (srcEs d)) || (src8 d && poisoned s (srcScaleAddr d r c))

def elemRaw (s : State) (d : List Byte) (src : Source) (i j : Nat) : List Byte :=
  if bdTranspose d then elemSrc s d src j i else elemSrc s d src i j

def elemScale (s : State) (d : List Byte) (i j : Nat) : Byte :=
  if bdTranspose d then memByte s (srcScaleAddr d j i) else memByte s (srcScaleAddr d i j)

/-- The value of an element as a converting stream reads it. -/
def elemValue (s : State) (d : List Byte) (src : Source) (i j : Nat) : Num :=
  let raw := elemRaw s d src i j
  if src8 d then scaled8 (decide (bdSrcFmt d = 1)) (elemScale s d i j) (raw.getD 0 0)
  else if bdSrcFmt d = 2 then decode bf16 (natOfBytes raw) else decode f32 (natOfBytes raw)

/-- An element for the converter; YF8G rounds stochastically (Tables 05-4, 06-6). -/
def elemC (s : State) (d : List Byte) (src : Source) (i j : Nat) : CElem :=
  let n := i * dstCols d + j
  ⟨elemValue s d src i j, false, n,
    if bdDstFmt d = 1 then .stoch (drawLow16 (draw s.job.seed (BitVec.ofNat 64 (at_ d 0x40 8)) 1 (at_ d 0x48 7 + n))) else .odd⟩

/-- What is formed of a stretch of a destination row: element bytes, poison flags, E8 bytes with their poison or lo bytes, and
the counts. -/
structure Stretch where
  codes : List (List Byte)
  poison : List Bool
  extra : List (Byte × Bool)
  nsr : Nsr

/-- Elements from poisoned sources count as written only (R381). -/
def onlyWritten (n m : Nsr) (k : Nat) : Nsr := { n with written := n.written + k, zeroBlocks := m.zeroBlocks }

/-- The blocks of a stretch into an 8-bit format. -/
def formBlocks (s : State) (d : List Byte) (src : Source) (i : Nat) : List (List Nat) → Nsr → Stretch
  | [], n => ⟨[], [], [], n⟩
  | js :: rest, n =>
    let p := js.any (elemPoison s d src i)
    let (e8, cs, m) := convBlock (decide (bdDstFmt d = 1)) (js.map (elemC s d src i)) n
    let r := formBlocks s d src i rest (if p then onlyWritten n m js.length else m)
    ⟨cs.map (fun c => [c]) ++ r.codes, js.map (fun _ => p) ++ r.poison, (BitVec.ofNat 8 e8, p) :: r.extra, r.nsr⟩

/-- The elements of a stretch into a format without blocks. A pair is counted by its hi part: its largest magnitude is that
of bfloat16 (Table 05-1, R166). -/
def formScalars (s : State) (d : List Byte) (src : Source) (i : Nat) : List Nat → Nsr → Stretch
  | [], n => ⟨[], [], [], n⟩
  | j :: rest, n =>
    let p := elemPoison s d src i j
    let x := elemC s d src i j
    let f := if bdDstFmt d = 3 then f32 else bf16
    let (c, m) := convScalar f x n
    let r := formScalars s d src i rest (if p then onlyWritten n m 1 else m)
    let lo := if dstPair d then (bytesOfNat 2 (encode bf16 (loPart .odd x.val))).map (fun b => (b, p)) else []
    ⟨bytesOfNat (dstEs d) c :: r.codes, p :: r.poison, lo ++ r.extra, r.nsr⟩

/-- A stretch of row i over columns js. -/
def formStretch (s : State) (d : List Byte) (src : Source) (i : Nat) (js : List Nat) (n : Nsr) : Stretch :=
  if !bdConvert d then ⟨js.map (elemRaw s d src i), js.map (elemPoison s d src i), [], n⟩
  else if dst8 d then formBlocks s d src i (chunks (dstBlk d) (js.length + 1) js) n
  else formScalars s d src i js n

/-- Contiguous writes of one poison joined. -/
def joinWrites : List BWrite → List BWrite
  | [] => []
  | w :: rest =>
    match joinWrites rest with
    | [] => [w]
    | x :: more =>
      if w.addr + w.bytes.length = x.addr ∧ w.poison = x.poison then
        ⟨w.addr, w.bytes ++ x.bytes, w.poison, w.old ++ x.old⟩ :: more
      else w :: x :: more

def mkWrite (s : State) (a : Nat) (bs : List Byte) (p : Bool) : BWrite := ⟨a, bs, p, readBytes s a bs.length⟩

/-- Columns of a stretch in the order of their addresses. -/
def placeOrder (d : List Byte) (i : Nat) (js : List Nat) : List Nat :=
  if bdRotate d then (List.range 128).filterMap (fun q => js.find? (fun j => decide (linePos d i j = q))) else js

/-- The writes of a stretch: element bytes, then E8 bytes or lo bytes. -/
def stretchWrites (s : State) (d : List Byte) (i : Nat) (js : List Nat) (x : Stretch) : List BWrite :=
  let j0 := js.headD 0
  let order := placeOrder d i js
  (if bdDstKind d = 0 then
     order.map (fun j => mkWrite s (dstAddr d i j) (x.codes.getD (j - j0) []) (x.poison.getD (j - j0) false)) else []) ++
  (if dst8 d then
     (List.range x.extra.length).map (fun q =>
       mkWrite s (dstScaleAddr d i (j0 / dstBlk d + q)) [(x.extra.getD q (0, false)).1] (x.extra.getD q (0, false)).2)
   else if dstPair d then
     order.map (fun j => mkWrite s (loAddr d i j) (((x.extra.drop (2 * (j - j0))).take 2).map (·.1)) (x.poison.getD (j - j0) false))
   else [])

/-- The stretches of a stream in its write order: row and columns (R292). -/
def writeOrder (d : List Byte) : List (Nat × List Nat) :=
  if bdTranspose d then
    (List.range ((dstRows d + 127) / 128)).flatMap (fun bi => (List.range ((dstCols d + 127) / 128)).flatMap (fun bj =>
      ((List.range 128).map (fun r => bi * 128 + r)).filterMap (fun i =>
        if i < dstRows d then
          some (i, ((List.range 128).map (fun c => bj * 128 + c)).filter (fun j => decide (j < dstCols d)))
        else none)))
  else (List.range (dstRows d)).map (fun i => (i, List.range (dstCols d)))

/-- All that a stream will write: memory writes in write order, bytes for a Quay, and the counts. -/
structure Formed where
  writes : List BWrite
  out : List Byte
  nsr : Nsr

def formAll (s : State) (d : List Byte) (src : Source) : List (Nat × List Nat) → Nsr → Formed
  | [], n => ⟨[], [], n⟩
  | x :: rest, n =>
    let y := formStretch s d src x.1 x.2 n
    let r := formAll s d src rest y.nsr
    ⟨stretchWrites s d x.1 x.2 y ++ r.writes, y.codes.flatten ++ r.out, r.nsr⟩

def form (s : State) (d : List Byte) (src : Source) : Formed :=
  let r := formAll s d src (writeOrder d) {}
  let out := (List.range (dstRows d)).flatMap (fun i => (formStretch s d src i (List.range (dstCols d)) {}).codes.flatten)
  ⟨joinWrites r.writes, if bdDstKind d = 1 then out else [], r.nsr⟩

/-- Some source byte of the stream is poisoned. -/
def sourcePoison (s : State) (d : List Byte) : Bool :=
  (streamFoot d).any (fun f => !f.wr && decide (f.addr ≠ bdGate d ∨ bdGated d = false) && poisonedRange s f.addr f.len)

/-- Some E8 byte of the source is 0xFF (R187). -/
def sourceReserved (s : State) (d : List Byte) : Bool :=
  src8 d && (List.range (bdRows d)).any (fun r => (List.range (bdCols d / srcBlk d)).any (fun q =>
    decide (memByte s (bdSrcScale d + r * bdSrcSpitch d + q) = 0xFF)))

/-- The record of a converting stream (R188); with poison its class counts cover the clean elements (R381). -/
def streamRecord (s : State) (d : List Byte) (n : Nsr) : List Byte :=
  if bdConvert d && decide (bdNsr d ≠ 0) then
    let bs := nsrBytes n (bdDstFmt d) (sourceReserved s d) (decide (bdDstFmt d = 1)) false false 0
    if sourcePoison s d then bs.take 0x19 ++ [bs.getD 0x19 0 ||| 16#8] ++ bs.drop 0x1A else bs
  else []

/-! A panel's gather image on its way to a Quay (R266). -/

/-- The owned panel whose image slots hold the source of a stream to a Quay: its Ledger record, and how far into a slot. -/
def imageSource (s : State) (d : List Byte) : Option (Nat × Panel × Nat) :=
  if bdSrcKind d = 0 ∧ bdDstKind d = 1 then
    (List.range (ownedPanels s).length).findSome? (fun k => (recordPanel s k).bind (fun pn =>
      let a := imageSlot s pn 0
      if lyEmit pn.layer = true ∧ a ≤ bdSrc d ∧ bdSrc d < a + 2 * imageBytes 16 then some (k, pn, (bdSrc d - a) % imageBytes 16)
      else none))
  else none

/-- The flip that makes the image of this step live has been performed: that of the step before. -/
def imageReady (s : State) (d : List Byte) : Bool :=
  match imageSource s d with
  | some (k, _, _) => decide ((recordStep s k + 1).toNat = s.job.curStep)
  | none => true

/-- The descriptor with its source in the image slot that the record names as live. -/
def liveImage (s : State) (d : List Byte) : List Byte :=
  match imageSource s d with
  | some (k, pn, o) => bytesOfNat 8 (imageSlot s pn (liveSlot s k) + o) ++ d.drop 8
  | none => d

/-! Running (R293, R294). -/

/-- The gate of a stream in its current run is open, and an image that it carries is live. -/
def streamGateOpen (s : State) (d : List Byte) : Bool :=
  imageReady s d && (!bdGated d || decide ((at_ d 0x68 8 + bdRuns d * at_ d 0x70 8) % 2 ^ 64 ≤ readNat s (bdGate d) 8))

/-- The lines that a stream reads, or writes, pass their home cache (R275). -/
def bargeHome (s : State) (d : List Byte) (write : Bool) : State :=
  ((streamFoot d).filter (fun f => decide (f.wr = write))).foldl (fun t f => hcRange t f.addr f.len write (bdHc d)) s

/-- Each poisoned line that the stream reads is one consumption event of the Barge (R381, R382). -/
def bargeConsume (s : State) (b : Nat) (d : List Byte) : State :=
  ((streamFoot d).flatMap (fun f => if f.wr then [] else touchedLines f.addr f.len)).foldl (fun t l =>
    if poisoned t (l * 128) then consumePoison t (l * 128) 1 (decide (bdDstKind d = 0)) (b / 32) (b % 32) else t) s

/-- Source bytes that have not arrived yet: free values, so that what a cancelled or failed stream leaves is free. -/
def awaited (s : State) (d : List Byte) : List Byte :=
  (List.range (bdRows d * bdCols d * srcEs d)).map (fun i => (freeAt s i).setWidth 8)

/-! The Reads of a storage stream (R340, R342, R343). -/

/-- Bytes of an extent, and of one of the Reads of 1 MiB, the last of them shorter, that it is asked for in. -/
def extentBytes (d : List Byte) : Nat := bdRows d * bdCols d * srcEs d
def readLimit : Nat := 0x100000
def readSize (d : List Byte) (i : Nat) : Nat :=
  if extentBytes d - i * readLimit < readLimit then extentBytes d - i * readLimit else readLimit

/-- The port that reaches a target: the wanted one where the target is connected there, else the other one. -/
def portTo (s : State) (tgt want : Nat) : Nat :=
  if (Tab.get 0 s.storConn want).getLsbD tgt then want
  else if (Tab.get 0 s.storConn (1 - want)).getLsbD tgt then 1 - want else want

/-- Every Read of the extent asked for, first on the port of the Barge's die (assumption 87). -/
def askReads (s : State) (b : Nat) (d : List Byte) : List StorRead :=
  List.replicate ((extentBytes d + readLimit - 1) / readLimit) { port := portTo s (at_ (readBytes s (bdSrc d) 64) 0 1) (b / 32) }

/-- The stream begins: it reads its memory source, or asks storage for its extent. -/
def beginStream (s : State) (b : Nat) (r : BargeRun) : State :=
  let d := liveImage s r.desc
  let src : Source := if bdSrcKind d = 0 then none else some (awaited s d)
  let f := form s d src
  let r := { r with
    desc := d
    phase := if bdSrcKind d = 2 then .storage (askReads s b d) false else .ready
    writes := f.writes
    out := f.out
    record := streamRecord s d f.nsr }
  spendFree (bargeHome (bargeConsume (setBarge s b { bargeSt s b with cur := some r }) b d) d false)

/-- The descriptor of a starting stream: as it was read ahead, with its runs as the Barge keeps them now. -/
def startDesc (s : State) (x : BargeStart) : List Byte :=
  let now := readBytes s (bargeDescAddr s x.stream) 128
  match x.desc with
  | none => now
  | some d => d.take 0x54 ++ (now.drop 0x54).take 4 ++ d.drop 0x58

/-- The next queued stream starts and is checked. -/
def execBargeStreamStart (b : BargeIx) (errs : List MemErr) (s : State) : Out :=
  let y := bargeSt s b.val
  match y.queue with
  | [] => turnedAway s
  | x :: rest =>
    let m := meetErrors s errs
    let d := startDesc m x
    let s1 := setBarge m b.val { y with queue := rest }
    let cause := streamCause m b.val x d
    let r : BargeRun := { start := x, desc := d, phase := .gate }
    let s2 := countEvent s1 2 b.val 3 1 0
    let t := if streamGateOpen m d then beginStream s2 b.val r else setBarge s2 b.val { bargeSt s2 b.val with cur := some r }
    whenever (decide (y.cur = none)) (if cause ≠ 0 then rejectStream s1 b.val x cause else readAhead t b.val) s

def execBargeGatePoll (b : BargeIx) (errs : List MemErr) (s : State) : Out :=
  match (bargeSt s b.val).cur with
  | none => turnedAway s
  | some r => whenever (decide (r.phase = .gate) && streamGateOpen s r.desc) (beginStream (meetErrors s errs) b.val r) s

/-- The received bytes that a Quay source has ready for the stream (Table 11-9). -/
def quayBytes (s : State) (d : List Byte) : Option (Nat × List Byte) :=
  (List.range 32).findSome? (fun p =>
    match (port s p).rx.find? (fun r => r.closed && decide (r.stream = bdSrc d)) with
    | some r => if r.data.length = bdRows d * bdCols d * srcEs d then some (p, r.data) else none
    | none => none)

/-- The first closed run of a stream leaves a port. -/
def removeClosed (stream : Nat) : List RxRun → List RxRun
  | [] => []
  | r :: rest => if r.closed = true ∧ r.stream = stream then rest else r :: removeClosed stream rest

/-- A write as it ends up: where the source has changed while the stream ran the bytes are free values; where the destination
has, each aligned 8-byte word holds one of the two writes (R297). -/
def settle (s : State) (w now : BWrite) : BWrite :=
  let bytes := if w.bytes = now.bytes then w.bytes else (List.range w.bytes.length).map (fun i => (freeAt s (w.addr + i)).setWidth 8)
  let cur := readBytes s w.addr w.bytes.length
  if cur = w.old then { w with bytes := bytes }
  else
    { w with bytes := (List.range w.bytes.length).map (fun i =>
        if (List.range 8).any (fun k => decide (w.addr ≤ (w.addr + i) / 8 * 8 + k ∧
              cur.getD ((w.addr + i) / 8 * 8 + k - w.addr) 0 ≠ w.old.getD ((w.addr + i) / 8 * 8 + k - w.addr) 0)) &&
            freeChoice s ((w.addr + i) / 8)
        then cur.getD i 0 else bytes.getD i 0) }

def settleAll (s : State) : List BWrite → List BWrite → List BWrite
  | w :: ws, n :: ns => settle s w n :: settleAll s ws ns
  | ws, [] => ws
  | [], _ => []

/-- A drop record of the ward has arrived whole in its entry of the ward log: it gets its final flag (R383). -/
def sealWard (s : State) (d : List Byte) : State :=
  let n := dropRecordBytes s.job.m
  if bdSrcKind d = 1 ∧ bdDstKind d = 0 ∧ jobLive s = true ∧ s.job.wardLog ≤ bdDst d ∧ bdDst d < s.job.wardLog + 512 * n ∧
      (bdDst d - s.job.wardLog) % n = 0 then
    writeBytes s (bdDst d + 12) [memByte s (bdDst d + 12) ||| 2#8]
  else s

/-- The stream has performed its last write: its record, its done word and its run count (R293). -/
def finishStream (s : State) (b : Nat) (r : BargeRun) (ws : List BWrite) (out record : List Byte) : State :=
  let d := r.desc
  let n := readNat s (bargeDescAddr s r.start.stream + 0x54) 4
  let s := sealWard (bargeHome (performWrites s ws) d true) d
  let s := if bdDstKind d = 1 then (byteCells (bdDst d) out).foldl (fun t c => stageCell t 0 c) s else s
  let s := if record = [] then s else writeBytes s (bdNsr d) record
  let s := if bdDone d = 0 then s else writeNat s (bdDone d) 8 (n + 1)
  let s := writeNat s (bargeDescAddr s r.start.stream + 0x54) 4 (n + 1)
  let s := countLatency (countLatency (countEvent (setBarge s b { bargeSt s b with cur := none }) 2 b 4 1 0) 2 b 0) 3 b 0
  spendFree s

def execBargeStreamComplete (b : BargeIx) (s : State) : Out :=
  match (bargeSt s b.val).cur with
  | none => turnedAway s
  | some r =>
    if r.phase ≠ .ready then turnedAway s
    else if bdSrcKind r.desc = 1 then
      match quayBytes s r.desc with
      | none => turnedAway s
      | some (p, bs) =>
        let f := form s r.desc (some bs)
        let t := setPort s p { port s p with rx := removeClosed (bdSrc r.desc) (port s p).rx }
        .next (finishStream t b.val r f.writes f.out (streamRecord s r.desc f.nsr))
    else if bdSrcKind r.desc = 0 then
      .next (finishStream s b.val r (settleAll s r.writes (form s r.desc none).writes) r.out r.record)
    else .next (finishStream s b.val r r.writes r.out r.record)

/-! Storage failures (R343, R344). -/

def extentOf (s : State) (r : BargeRun) : List Byte := readBytes s (bdSrc r.desc) 64

/-- STOR_FAULT captures the first fault. -/
def captureStorage (s : State) (stream port cause : Nat) : State :=
  if flag s F.storFaultValid then s
  else fput (fput (fput (fput s F.storFaultStream stream) F.storFaultPort port) F.storFaultCause cause) F.storFaultValid 1

/-- A storage stream ends with a fault: its destination is left undefined, and a job stream's read fault is step-fatal. -/
def storageFault (s : State) (b : Nat) (r : BargeRun) (port cause : Nat) : State :=
  let s := setBarge (performWrites s r.writes) b { bargeSt s b with cur := none }
  let s := captureStorage s r.start.stream port cause
  if fwStream r.start.stream then s
  else if cause = 3 then { s with job := { s.job with digestFault := true } }
  else fatal s 0x24 port 0

/-- The Reads of a running stream replaced. -/
def putReads (s : State) (b : Nat) (r : BargeRun) (reads : List StorRead) (second : Bool) : State :=
  setBarge s b { bargeSt s b with cur := some { r with phase := .storage reads second } }

/-- An attempt of Read i failed: it is tried again on the other port where the target is reachable there, and after the fifth
attempt the stream has failed. -/
def readFailed (s : State) (b : Nat) (r : BargeRun) (reads : List StorRead) (second : Bool) (i : Nat) (x : StorRead) (cause : Nat) :
    State :=
  let tgt := at_ (extentOf s r) 0 1
  if 4 ≤ x.failed then storageFault s b r x.port (if targetConnected s tgt then cause else 4)
  else
    corrected (fcount (putReads s b r (reads.set i { x with port := portTo s tgt (1 - x.port), failed := x.failed + 1 }) second)
      F.storRetryRetries 1)

/-- The whole extent has arrived, the last of it through a port: verified, read once more, or failed. -/
def extentArrived (s : State) (b : Nat) (r : BargeRun) (data : List Byte) (second : Bool) (port : Nat) : State :=
  let e := extentOf s r
  if at_ e 1 1 % 2 = 1 ∧ digest data ≠ e.drop 32 then
    if second then storageFault s b r port 3 else putReads s b r (askReads s b r.desc) true
  else
    let f := form s r.desc (some data)
    let r := { r with phase := .ready, writes := f.writes, out := f.out, record := streamRecord s r.desc f.nsr }
    setBarge s b { bargeSt s b with cur := some r }

/-- Read i has delivered its data; the data of Reads are held until all have come (R343). -/
def readDone (s : State) (b : Nat) (r : BargeRun) (reads : List StorRead) (second : Bool) (i : Nat) (x : StorRead) (data : List Byte) :
    State :=
  let s := fcount s F.storBytesBytes data.length
  let reads := reads.set i { x with data := some data }
  if reads.all (·.data.isSome) then extentArrived s b r (reads.flatMap (fun y => y.data.getD [])) second x.port
  else putReads s b r reads second

/-- What becomes of outstanding Read i of a Barge. -/
def onRead (b : BargeIx) (i : Nat) (f : BargeRun → List StorRead → Bool → StorRead → Out) (s : State) : Out :=
  match (bargeSt s b.val).cur with
  | none => turnedAway s
  | some r =>
    match r.phase with
    | .storage reads second =>
      match reads[i]? with
      | none => turnedAway s
      | some x => if x.data.isSome then turnedAway s else f r reads second x
    | _ => turnedAway s

/-- Read i completes with its bytes of the extent, or with an error status. -/
def execStorageReadComplete (b : BargeIx) (read : Nat) (ok : Bool) (data : List Byte) (s : State) : Out :=
  onRead b read (fun r reads second x =>
    if !ok then .next (readFailed s b.val r reads second read x 1)
    else whenever (decide (data.length = readSize r.desc read)) (readDone s b.val r reads second read x data) s) s

/-- Read i has not completed within 1 s. -/
def execStorageReadTimeout (b : BargeIx) (read : Nat) (s : State) : Out :=
  onRead b read (fun r reads second x => .next (readFailed s b.val r reads second read x 2)) s

/-! Connections (R342). -/

/-- Target record i is in the table at STOR_TGT and is reachable from a port. -/
def reaches (s : State) (port i : Nat) : Bool :=
  decide (i ≤ fget s F.storTgtCountM1) && (readNat s (fget s F.storTgtBase * 512 + 512 * i + 0x12) 1).testBit port

/-- The targets of the table that a port reaches, as a mask. -/
def reachMask (s : State) (port : Nat) : BitVec 16 :=
  (List.range 16).foldl (fun m i => if reaches s port i then m ||| (1#16 <<< i) else m) 0

/-- The host NQN under which the module connects (R342): a fixed name and 32 hexadecimal digits of the ident field. -/
def hexDigit (n : Nat) : Byte := BitVec.ofNat 8 (if n < 10 then 0x30 + n else 0x57 + n)
def hostNqn (s : State) : List Byte :=
  "nqn.2030-06.delfel.yeldarex:gb4:".toList.map (fun c => BitVec.ofNat 8 c.toNat) ++
    ((digest s.sec.identKey).take 16).flatMap (fun x => [hexDigit (x.toNat / 16), hexDigit (x.toNat % 16)])

/-- Targets connected in a mask. -/
def connCount (c : BitVec 16) : Nat := ((List.range 16).filter (fun i => c.getLsbD i)).length

/-- A storage port's link or connections change (R342, Table 12-8): a connection stands only to a target of the table that the port
reaches. -/
def execStorageLinkChange (port : Fin 2) (linkUp : Bool) (connected : BitVec 16) (reconnected : Nat) (s : State) : Out :=
  let c : BitVec 16 := if linkUp then connected &&& reachMask s port.val else 0
  let t := { s with storConn := Tab.set 0 s.storConn port.val c }
  let t := fputBool (fputBool t (F.storPortLinkUp port.val) linkUp) (F.storPortRoceReady port.val) (decide (c ≠ 0))
  .next (fcount (fput t (F.storPortConns port.val) (connCount c)) F.storRetryReconnects reconnected)

end Sys2Proof.Machine
end

