-- ==== Sys2Proof/Machine/PerfCtl.lean ====
section
/-! DEFINITION. What is written to the PERF block to snap, clear, arm and sample (R405 to R407, R412 to R420). -/

namespace Sys2Proof.Machine

def setPerf (s : State) (p : PerfSt) : State := { s with perf := p }

/-- Every programmable counter and every cycle counter copied, with the instant t (R418). -/
def snapAt (s : State) (t : Nat) : State :=
  fput (setPerf s { s.perf with snapCtr := s.perf.ctr, snapCc := s.perf.cc, snapTc := s.perf.tc }) F.perfSnapTideT t

/-- Every programmable counter, bin and ovf flag zeroed. -/
def clearPerf (s : State) : State := setPerf s { s.perf with ctr := [], bins := [], ovf := [] }

/-- A snap without an arm takes the present instant. -/
def execPerfSnap (s : State) : Out := .next (snapAt s s.tide.now)

def execPerfClear (s : State) : Out := .next (clearPerf s)

/-- An action armed for PERF_SNAP_AT, or refused as late; the reserved action 3 arms nothing (R418, R419). -/
def armPerf (s : State) (action : Nat) : State :=
  let t := fget s F.perfSnapAtAtNs
  if 3 ≤ action then s
  else if s.tide.now + 1024 ≤ t then
    fput (setPerf s { s.perf with armedAction := action, armedAt := t }) F.perfCtlArmed 1
  else fput s F.perfCtlLate 1

def execPerfArm (action : BitVec 2) (s : State) : Out :=
  .next (armPerf (fput s F.perfCtlAction action.toNat) action.toNat)

/-- The armed action is due. -/
def actionDue (s : State) (action : Nat) : Bool :=
  s.tide.running && flag s F.perfCtlArmed && decide (s.perf.armedAction = action) && decide (s.perf.armedAt ≤ s.tide.now)

def disarm (s : State) : State := fput s F.perfCtlArmed 0

def execSnapAction (s : State) : Out := whenever (actionDue s 0) (snapAt (disarm s) s.perf.armedAt) s

def execStartAction (s : State) : Out :=
  let t := clearPerf (disarm s)
  whenever (actionDue s 1) (setPerf t { t.perf with run := true }) s

def execStopAction (s : State) : Out :=
  let t := snapAt (disarm s) s.perf.armedAt
  whenever (actionDue s 2) (setPerf t { t.perf with run := false }) s

/-- The written value is kept and no flag is set (R407). -/
def writeCtr (s : State) (n v : Nat) : State := setPerf s { s.perf with ctr := Tab.set 0 s.perf.ctr n (v % 2 ^ 48) }

def execPerfCtrWrite (n : Fin 8) (value : BitVec 48) (s : State) : Out := .next (writeCtr s n.val value.toNat)

/-- An increment carries a counter to its maximum: the rising flag is an event and may stop all counting (R405, R406). -/
def overflowBy (s : State) (n inc : Nat) : State :=
  let r := addCounter s s.perf n inc
  let t := setPerf s r.1
  if r.2 then
    let t := countEvent t 7 0 5 1 0
    if flag s F.perfCtlFreezeOnOvf then setPerf t { t.perf with run := false } else t
  else t

def execCounterOverflow (n : Fin 8) (inc : Nat) (s : State) : Out :=
  whenever (s.perf.run && flag s (F.perfSelEn n.val) && !selBad s n.val && decide (inc ≤ 1020) &&
    decide (countMax < Tab.get 0 s.perf.ctr n.val + inc)) (overflowBy s n.val inc) s

/-! Sampling. -/

def ringBase (s : State) : Nat := fget s F.perfSampBaseBase * 4096
def ringBytes (s : State) : Nat := 2 ^ fget s F.perfSampBaseK * 4096
/-- Records that the ring holds. -/
def ringRecords (s : State) : Nat := 2 ^ fget s F.perfSampBaseK * 64

/-- The ring lies in the populated Hold, outside the reserved areas and every enabled region that grants write; the codes
k = 13 to 15 are reserved (R415). -/
def ringOk (s : State) : Bool :=
  decide (fget s F.perfSampBaseK ≤ 12) && decide (windowOf (ringBase s) = .hold) &&
  populatedRange s (ringBase s) (ringBytes s) && !touchesReserved (ringBase s) (ringBytes s) &&
  (List.range 16).all (fun n => [0, 1].all (fun d => !(flag s (F.tugRegionBaseEn d n) && flag s (F.tugRegionBaseWr d n) &&
    decide (ringBase s < fget s (F.tugRegionLimitLast d n) * 4096 + 4096) &&
    decide (fget s (F.tugRegionBaseBase d n) * 4096 < ringBase s + ringBytes s))))

/-- The Tug down-counter of a core takes period + r, r drawn below 2^jitter (R412). -/
def reloadTug (s : State) (k n : Nat) : State :=
  let left := fget s F.perfSampCtlPeriod + (freeAt s n).toNat % 2 ^ fget s F.perfSampCtlJitter
  setPerf s { s.perf with tugLeft := Tab.set 0 s.perf.tugLeft k left }

def reloadCrane (s : State) (c : Nat) : State :=
  setPerf s { s.perf with craneLeft := Tab.set 0 s.perf.craneLeft c (fget s F.perfSampCtlCranePeriod) }

/-- All down-counters loaded as sampling is enabled. -/
def loadSampling (s : State) (tug cr : Bool) : State :=
  let s := if tug then tookFree ((List.range 128).foldl (fun s k => reloadTug s k k) s) 128 else s
  if cr then (List.range 16).foldl reloadCrane s else s

/-- The enables written; an enabling with a ring misplaced is refused (R415). -/
def enableSampling (s : State) (tug cr : Bool) : State :=
  let wasTug := flag s F.perfSampCtlTugEn
  let wasCrane := flag s F.perfSampCtlCraneEn
  if !tug && !cr then fputBool (fputBool s F.perfSampCtlTugEn false) F.perfSampCtlCraneEn false
  else if ringOk s then
    loadSampling (fput (fputBool (fputBool s F.perfSampCtlTugEn tug) F.perfSampCtlCraneEn cr) F.perfCtlSampRefused 0)
      (tug && !wasTug) (cr && !wasCrane)
  else fput (fputBool (fputBool s F.perfSampCtlTugEn (tug && wasTug)) F.perfSampCtlCraneEn (cr && wasCrane)) F.perfCtlSampRefused 1

def execSamplingEnable (tugEn craneEn : Bool) (s : State) : Out := .next (enableSampling s tugEn craneEn)

/-- A record lost: counted, and the next one written says so. -/
def loseRecord (s : State) : State :=
  let s := countEvent (fcount s F.perfSampHeadLost 1) 7 0 7 1 0
  setPerf s { s.perf with lostFlag := true }

/-- A core's down-counter is at zero: the thread's next instruction is tagged, or skipped while an earlier one is held. -/
def selectTug (s : State) (k : Nat) (tag : Tag) : State :=
  let t := match Tab.get none s.perf.tugTag k with
    | some _ => loseRecord s
    | none => setPerf s { s.perf with tugTag := Tab.set none s.perf.tugTag k (some tag) }
  tookFree (reloadTug t k 0) 1

def execTugSampleSelect (tug : Fin 128) (t : Tid) (word : BitVec 32) (addr : Word) (tier : Nat) (s : State) : Out :=
  whenever (flag s F.perfSampCtlTugEn && decide (fget s F.perfSampCtlPeriod ≠ 0) && decide (tugOf t.val = tug.val) &&
      (isJobThread t.val || flag s F.perfSampCtlFwIncl) && decide ((thread s t.val).st = .run) &&
      decide (Tab.get 0 s.perf.tugLeft tug.val = 0) && decide (tier ≤ 7))
    (selectTug s tug.val ⟨t.val, !isJobThread t.val, (thread s t.val).pc, word, addr, tier, false, false, 0, none⟩) s

/-- The word that a Crane's queue accepted last. -/
def lastAccepted (x : Crane) : Queue → Option (BitVec 32 × Word)
  | .fg => (x.fgq ++ x.flight).getLast?
  | .bg => x.bgq.getLast?

def selectCrane (s : State) (c : Nat) (tag : Tag) : State :=
  let t := match Tab.get none s.perf.craneTag c with
    | some _ => loseRecord s
    | none => setPerf s { s.perf with craneTag := Tab.set none s.perf.craneTag c (some tag) }
  reloadCrane t c

/-- The command accepted at zero is tagged: the one that the queue accepted last (R413). -/
def execCraneSampleSelect (c : CraneIx) (q : Queue) (s : State) : Out :=
  match lastAccepted (crane s c.val) q with
  | none => turnedAway s
  | some (seq, w) =>
    whenever (flag s F.perfSampCtlCraneEn && decide (fget s F.perfSampCtlCranePeriod ≠ 0) &&
        (decide (q = .fg) || flag s F.perfSampCtlFwIncl) && decide (Tab.get 0 s.perf.craneLeft c.val = 0))
      (selectCrane s c.val ⟨seq.toNat, isBg q, 0, 0, w, w.toNat / 2 ^ 56 % 64, false, false, 0, none⟩) s

/-- The ring is full (R416). -/
def ringFull (s : State) : Bool :=
  !flag s F.perfSampCtlWrap && decide (ringRecords s ≤ (fget s F.perfSampHeadHead + 2 ^ 32 - fget s F.perfSampTailTail) % 2 ^ 32)

/-- A Tug record (Table 15-5); the cycle counts are what the surroundings measured. -/
def tugRecord (s : State) (unit : Nat) (t : Tag) (latency stalled : BitVec 32) (flags : BitVec 8) : List Byte :=
  bytesOfNat 1 1 ++ bytesOfNat 1 ((if t.low then 1 else 0) + (if s.perf.lostFlag then 2 else 0)) ++ bytesOfNat 2 unit ++
  bytesOfNat 4 t.idx ++ bytesOfNat 8 s.tide.now ++ bytesOfNat 8 t.pc.toNat ++ bytesOfNat 4 t.word.toNat ++
  bytesOfNat 4 latency.toNat ++ bytesOfNat 8 t.addr.toNat ++ bytesOfNat 1 t.tier ++ bytesOfNat 1 (flags.toNat % 8) ++
  bytesOfNat 2 0 ++ bytesOfNat 4 stalled.toNat ++ List.replicate 16 0

/-- A Crane record; the cycles of the stall causes are free values (assumption 7). -/
def craneRecord (s : State) (unit : Nat) (t : Tag) (latency stalled : BitVec 32) : List Byte :=
  bytesOfNat 1 2 ++ bytesOfNat 1 ((if t.low then 1 else 0) + (if s.perf.lostFlag then 2 else 0)) ++ bytesOfNat 2 unit ++
  bytesOfNat 4 t.idx ++ bytesOfNat 8 (t.doneAt.getD 0) ++ bytesOfNat 8 t.addr.toNat ++ bytesOfNat 4 stalled.toNat ++
  bytesOfNat 4 latency.toNat ++ bytesOfNat 8 (berthAddr (dieOfCrane unit) (cwDesc t.addr)) ++ bytesOfNat 1 t.tier ++
  bytesOfNat 1 ((if t.rejected then 1 else 0) + (if t.spilled then 2 else 0)) ++ bytesOfNat 2 0 ++ bytesOfNat 4 t.steps ++
  (List.range 4).flatMap (fun i => bytesOfNat 4 ((freeAt s i).toNat % 2 ^ 32))

/-- A record written to its slot of the ring, then head raised; or lost because the ring is full (R416). -/
def writeRecord (s : State) (r : List Byte) : State :=
  if ringFull s then loseRecord s
  else
    let a := ringBase s + fget s F.perfSampHeadHead % ringRecords s * 64
    let t := if populatedRange s a 64 then writeBytes s a r else countNowin s
    let t := countEvent (fput t F.perfSampHeadHead ((fget s F.perfSampHeadHead + 1) % 2 ^ 32)) 7 0 6 1 0
    setPerf t { t.perf with lostFlag := false }

/-- The tagged item of a unit completes: `kind` false for a Tug, true for a Crane. -/
def execSampleRecordWrite (kind : Bool) (unit : Nat) (latency : BitVec 32) (stalled : BitVec 32) (flags : BitVec 8) (s : State) : Out :=
  if kind then
    match Tab.get none s.perf.craneTag unit with
    | none => turnedAway s
    | some t =>
      let t1 := tookFree (writeRecord s (craneRecord s unit t latency stalled)) 4
      whenever t.doneAt.isSome (setPerf t1 { t1.perf with craneTag := Tab.set none t1.perf.craneTag unit none }) s
  else
    match Tab.get none s.perf.tugTag unit with
    | none => turnedAway s
    | some t =>
      let t1 := writeRecord s (tugRecord s unit t latency stalled flags)
      .next (setPerf t1 { t1.perf with tugTag := Tab.set none t1.perf.tugTag unit none })

end Sys2Proof.Machine
end

