-- ==== Sys2Proof/Machine/TugSys.lean ====
section
/-! DEFINITION. State registers, fences, waits, thread control and Crane queue issue (R70 to R74, R92 to R98, Tables 03-4,
03-11 to 03-13), and the events that end a wait. -/

namespace Sys2Proof.Machine

/-! State registers (R74, Table 03-4). -/

def diagOf (s : State) (t : Nat) : Bool := flag s (F.tugViolCountDiag (dieOfThread t))

/-- The value of a state register that the thread may read. -/
def srValue (s : State) (t n : Nat) : Option Word :=
  let th := thread s t
  if n = 0 then some (BitVec.ofNat 64 t)
  else if n = 1 then some (BitVec.ofNat 64 ((if th.fw then 1 else 0) + (if diagOf s t then 2 else 0)))
  else if n = 2 then some (th.fstat.setWidth 64)
  else if n = 3 then some th.skey
  else if n = 0x10 then some (BitVec.ofNat 64 s.tide.now)
  else if n = 0x11 then some s.perf.tc
  else if n = 0x12 then some (BitVec.ofNat 64 (fget s F.tideSchedSlot))
  else if n = 0x20 then some th.issued
  else if 0x100 ≤ n ∧ n < 0x110 ∧ th.fw = true then some (Tab.get 0 th.scratch (n - 0x100))
  else if n = 0x110 ∧ th.fw = true then some (freeAt s 0)
  else none

/-- A state register written, if the thread may write it. -/
def srWrite (s : State) (t n : Nat) (x : Word) : Option State :=
  let th := thread s t
  if n = 2 then some (setThread s t { th with fstat := x.setWidth 4 })
  else if n = 3 then some (setThread s t { th with skey := x })
  else if 0x100 ≤ n ∧ n < 0x110 ∧ th.fw = true then
    some (setThread s t { th with scratch := Tab.set 0 th.scratch (n - 0x100) x })
  else none

/-- ENTROPY takes a free value; each read returns fresh bits. -/
def execRdsr (t : Tid) (rd : RegIx) (imm : BitVec 12) (s : State) : Out :=
  fetching (.rdsr t rd imm) t (fun s =>
    issueWith t.val [] [] (fun s =>
      match srValue s t.val imm.toNat with
      | some x => retire (setG (if imm.toNat = 0x110 then tookFree s 1 else s) t.val rd.val x) t.val
      | none => retire (setG (violation s t.val 4 imm.toNat) t.val rd.val 0) t.val) s) s

def execWrsr (t : Tid) (ra : RegIx) (imm : BitVec 12) (s : State) : Out :=
  fetching (.wrsr t ra imm) t (fun s =>
    issueWith t.val [ra.val] [] (fun s =>
      match srWrite s t.val imm.toNat (g s t.val ra.val) with
      | some s' => retire s' t.val
      | none => retire (violation s t.val 4 imm.toNat) t.val) s) s

/-! Fences (R92): the thread stays at the fence until what it orders has been performed. -/

/-- No earlier load or atomic of the thread is outstanding. -/
def loadsDone (s : State) (t : Nat) : Bool := (outstanding s t).all (fun a => !isLoadLike a.kind)

/-- What a fence with these bits waits for; a cissue counts as a store (R92, R93). -/
def fenceReady (s : State) (t : Nat) (imm : BitVec 12) : Bool :=
  (!imm.getLsbD 0 || loadsDone s t) &&
  (!imm.getLsbD 1 || (storesDone s t && wordsArrived s t)) &&
  (!imm.getLsbD 2 || (storesDone s t && wordsArrived s t)) &&
  (!imm.getLsbD 4 || (outstanding s t).isEmpty)

/-- Caches a fence empties: the data cache for acq, the instruction cache for i. -/
def fenceCaches (s : State) (t : Nat) (imm : BitVec 12) : State :=
  let c := core s (tugOf t)
  let c := if imm.getLsbD 0 then { c with dcache := [] } else c
  setCore s (tugOf t) (if imm.getLsbD 3 then { c with icache := [] } else c)

def execFence (t : Tid) (imm : BitVec 12) (s : State) : Out :=
  fetching (.fence t imm) t (fun s =>
    if 32 ≤ imm.toNat then whenever (mayIssue s t.val) (illegal s t.val 1) s
    else whenever (mayIssue s t.val && fenceReady s t.val imm) 
      (retire (fenceCaches (countEvent (countIssue s t.val) 1 (tugOf t.val) 0xA 1 (t.val % 4)) t.val imm) t.val) s) s

/-! Waits. -/

/-- tidewait of an instant that has passed completes at once (R96). -/
def execTidewait (t : Tid) (ra : RegIx) (s : State) : Out :=
  fetching (.tidewait t ra) t (fun s =>
    issueWith t.val [ra.val] [] (fun s =>
      let at_ := g s t.val ra.val
      if at_.toNat ≤ s.tide.now then retire s t.val else giveUp (retire s t.val) t.val .wait (some (.tide at_))) s) s

def execSlotwait (t : Tid) (ra : RegIx) (s : State) : Out :=
  fetching (.slotwait t ra) t (fun s =>
    issueWith t.val [ra.val] [] (fun s =>
      giveUp (retire s t.val) t.val .wait (some (.slot ((g s t.val ra.val).setWidth 32) s.tide.lastBoundary))) s) s

/-- The awaited instant was reached at least 1 Tide ns ago; `tick` ends the wait after 3 (R44, R96). -/
def execTidewaitComplete (t : Tid) (s : State) : Out :=
  match (thread s t.val).waitOn with
  | some (.tide at_) => whenever (decide (at_.toNat + 1 ≤ s.tide.now)) (makeReady s t.val) s
  | _ => turnedAway s

/-- A boundary after the wait began has made the slot counter the awaited value. -/
def execSlotwaitComplete (t : Tid) (s : State) : Out :=
  match (thread s t.val).waitOn with
  | some (.slot x since) =>
    whenever (decide (fget s F.tideSchedSlot = x.toNat) && s.tide.lastBoundary.isSome &&
      decide (s.tide.lastBoundary ≠ since)) (makeReady s t.val) s
  | _ => turnedAway s

/-! Thread control. -/

/-- Another thread of the core is READY. -/
def othersReady (s : State) (t : Nat) : Bool :=
  (switchOrder t).any (fun u => decide (u ≠ t) && decide ((thread s u).st = .ready))

def execYield (t : Tid) (s : State) : Out :=
  fetching (.yield t) t (fun s =>
    issueWith t.val [] [] (fun s =>
      if othersReady s t.val then giveUp (retire s t.val) t.val .ready none else retire s t.val) s) s

def execHalt (t : Tid) (s : State) : Out :=
  fetching (.halt t) t (issueWith t.val [] [] (fun s => park (retire s t.val) t.val)) s

/-- The core's owner has issued for 4,096 tc while another thread is READY (R71). -/
def execTimesliceExpiry (t : Tid) (s : State) : Out :=
  whenever (decide ((thread s t.val).st = .run) && othersReady s t.val) (giveUp s t.val .ready none) s

/-- Outstanding accesses of a thread lose their destinations. -/
def loseDests (s : State) (t : Nat) : State :=
  let c := core s (tugOf t)
  setCore s (tugOf t) { c with slots := c.slots.map (fun p =>
    if p.2.t = t ∧ isLoadLike p.2.kind = true then (p.1, { p.2 with rd := if isSimd p.2.kind then 32 else 0 }) else p) }

/-- A thread started at an aligned word with cleared registers, at job privilege (R73, R98). -/
def startThread (s : State) (u : Nat) (pc : Word) : State :=
  let s := loseDests (park s u) u
  makeReady (setThread s u { pc := pc &&& ~~~3#64, scratch := (thread s u).scratch }) u

/-- Firmware starts a thread; at job privilege it is a violation with no effect. -/
def execTstart (t : Tid) (ra rb : RegIx) (s : State) : Out :=
  fetching (.tstart t ra rb) t (fun s =>
    issueWith t.val [ra.val, rb.val] [] (fun s =>
      let u := (g s t.val ra.val).toNat % 512
      let pc := g s t.val rb.val
      if (thread s t.val).fw then startThread (retire s t.val) u pc else retire (violation s t.val 5 0) t.val) s) s

def execTstop (t : Tid) (ra : RegIx) (s : State) : Out :=
  fetching (.tstop t ra) t (fun s =>
    issueWith t.val [ra.val] [] (fun s =>
      let u := (g s t.val ra.val).toNat % 512
      if (thread s t.val).fw then park (retire s t.val) u else retire (violation s t.val 5 0) t.val) s) s

/-! Crane queues (R94, R95). -/

/-- The thread is bound to a module Crane's foreground queue. -/
def boundTo (s : State) (t c : Nat) : Bool :=
  flag s (F.tugCqBindEn (c / 8) (c % 8)) && decide (fget s (F.tugCqBindThread (c / 8) (c % 8)) = t)

/-- Free entries that the bound thread's Tug counts. -/
def fgFree (s : State) (c : Nat) : Nat := 64 - (crane s c).flight.length - (crane s c).fgq.length

/-- A command word accepted: it takes the next sequence number and one entry, and leaves for the Crane. -/
def acceptWord (s : State) (t c rd : Nat) (word : Word) : State :=
  let s := countEvent (sampleCrane (countEvent s 0 c 3 1 0) c false) 1 (tugOf t) 9 1 (t % 4)
  let x := crane s c
  retire (setG (setCrane s c { x with flight := x.flight ++ [(x.fgSeq, word)], fgSeq := x.fgSeq + 1 }) t rd
    (x.fgSeq.setWidth 64)) t

def execCissue (t : Tid) (rd ra rb : RegIx) (s : State) : Out :=
  fetching (.cissue t rd ra rb) t (fun s =>
    memIssue t.val [ra.val, rb.val] [] (fun _ => false) (fun s =>
      let c := (g s t.val ra.val).toNat % 16
      if !boundTo s t.val c then retire (setG (violation (countIssue s t.val) t.val 6 c) t.val rd.val 0) t.val
      else if fgFree s c = 0 then giveUp s t.val .wait (some (.queue c (g s t.val rb.val) rd.val))
      else acceptWord (countIssue s t.val) t.val c rd.val (g s t.val rb.val)) s) s

/-- An entry has freed and the waiting cissue is accepted. -/
def execCissueAccept (t : Tid) (s : State) : Out :=
  match (thread s t.val).waitOn with
  | some (.queue c word rd) =>
    whenever (decide (0 < fgFree s c)) (makeReady (acceptWord (countIssue s t.val) t.val c rd word) t.val) s
  | _ => turnedAway s

/-- The Crane's retirements have reached a sequence number (R95). -/
def retiredTo (s : State) (c : Nat) (seq : BitVec 32) : Bool :=
  decide ((BitVec.ofNat 32 (fget s (F.craneStatusFgRetired c)) - seq).toNat < 2 ^ 31)

/-- Acquire semantics: the core's data cache is emptied (R92, R93). -/
def acquire (s : State) (t : Nat) : State :=
  setCore s (tugOf t) { core s (tugOf t) with dcache := [] }

def execCwait (t : Tid) (ra rb : RegIx) (s : State) : Out :=
  fetching (.cwait t ra rb) t (fun s =>
    issueWith t.val [ra.val, rb.val] [] (fun s =>
      let c := (g s t.val ra.val).toNat % 16
      let seq := (g s t.val rb.val).setWidth 32
      if retiredTo s c seq then retire (acquire (noteWaited s c seq) t.val) t.val
      else giveUp (retire s t.val) t.val .wait (some (.crane c seq))) s) s

def execCwaitComplete (t : Tid) (s : State) : Out :=
  match (thread s t.val).waitOn with
  | some (.crane c seq) => whenever (retiredTo s c seq) (makeReady (acquire (noteWaited s c seq) t.val) t.val) s
  | _ => turnedAway s

def execCqdepth (t : Tid) (rd ra : RegIx) (s : State) : Out :=
  fetching (.cqdepth t rd ra) t (fun s =>
    issueWith t.val [ra.val] [] (fun s =>
      retire (setG s t.val rd.val (BitVec.ofNat 64 (fgFree s ((g s t.val ra.val).toNat % 16)))) t.val) s) s

end Sys2Proof.Machine
end

