-- ==== Sys2Proof/Machine/Launch.lean ====
section
/-! DEFINITION. The launch commands and the life of a job (R216, R245, R262, R287, R321, R333, R345 to R348, R363 to R371, R394,
R449). -/

namespace Sys2Proof.Machine

/-! The launch page (Table 13-3), as the poll read it. -/

def lpSeq (p : List Byte) : BitVec 32 := BitVec.ofNat 32 (at_ p 8 4)
def lpCmd (p : List Byte) : Nat := at_ p 6 1
def lpDiag (p : List Byte) : Bool := decide (at_ p 7 1 % 2 = 1)
def lpJobId (p : List Byte) : Word := BitVec.ofNat 64 (at_ p 0x10 8)
def lpAt (p : List Byte) : Nat := at_ p 0x50 8

/-- Magic and format are valid and check matches (R365). -/
def lpValid (p : List Byte) : Bool :=
  decide (at_ p 0 4 = 0x4C584759 ∧ at_ p 4 2 = 1 ∧ shake256 16 (p.take 0xF0) = p.drop 0xF0)

/-- A launch command of a code is being carried out. -/
def carrying (s : State) (code : Nat) : Bool := decide (s.job.cmd = some code) && !s.job.ramping

/-- The command acted on has finished in launch state st with a result (Table 13-6). -/
def ack (s : State) (st result groupFail : Nat) : State :=
  setJob s { s.job with st := st, result := result, groupFail := groupFail, acked := lpSeq s.job.page, cmd := none, ramping := false }

/-- A settings group is being checked or is armed (R461). -/
def stagingBusy (s : State) : Bool := decide (stageState s = 1 ∨ stageState s = 4)

/-! PREPARE (R367). -/

/-- The stream tables copied: Barge descriptors outside the firmware entries, and Quay descriptors (R287, R321). -/
def copyTables (s : State) (a : Nat) : State :=
  let (nb, ob) := sect s a 5
  let (nq, oq) := sect s a 6
  let t := (List.range (if nb < 65536 then nb else 65536)).foldl (fun t k =>
    if fwStream k then t else putMem t (bargeDescAddr s k) (readBytes s (a + ob + 128 * k) 128)) s
  (List.range (if nq < 65536 then nq else 65536)).foldl (fun t k => putMem t (streamAddr s k) (readBytes s (a + oq + 128 * k) 128)) t

/-- One Crane's binding. -/
def bindCrane (s : State) (w c : Nat) : State :=
  fput (fput s (F.tugCqBindThread (c / 8) (c % 8)) (w % 512)) (F.tugCqBindEn (c / 8) (c % 8)) (w / 2 ^ 15 % 2)

/-- One region's descriptor, in both TUG blocks (R103). -/
def putRegion (s : State) (b l n : Nat) : State :=
  [0, 1].foldl (fun s d =>
    let s := fput (fput (fput s (F.tugRegionBaseRd d n) (b % 2)) (F.tugRegionBaseWr d n) (b / 2 % 2)) (F.tugRegionBaseEx d n) (b / 4 % 2)
    fput (fput (fput s (F.tugRegionBaseEn d n) (b / 8 % 2)) (F.tugRegionBaseBase d n) (b / 4096 % 2 ^ 36))
      (F.tugRegionLimitLast d n) (l / 4096 % 2 ^ 36)) s

/-- The bindings and regions of the image written (R104). -/
def putBindings (s : State) (a : Nat) : State :=
  let t := (List.range 16).foldl (fun t c => bindCrane t (bindWord s a c) c) s
  (List.range 16).foldl (fun t n => putRegion t (regionWord s a n 0) (regionWord s a n 1) n) t

/-- The values of the image, its recovery table and its Manifest that the job keeps. -/
def jobOf (s : State) (a rank : Nat) (m : List Byte) : Job :=
  let p := s.job.page
  { s.job with
    seed := BitVec.ofNat 64 (at_ p 0x18 8), diag := lpDiag p, m := imM s a, s := imS s a, rank := rank
    wardRank := ((List.range (imP s a)).find? (fun r => decide (pmapEntry s a r % 65536 = rank))).getD 0
    extents := recv s a 0x78 4, resumeStep := BitVec.ofNat 32 (recv s a 0x18 4)
    threads := (List.range (sect s a 0xD).1).map (fun k =>
      (im s a (threadOff s a k) 2, BitVec.ofNat 64 (im s a (threadOff s a k + 8) 8)))
    areas := (List.range (recv s a 0x58 4)).map (fun k =>
      let o := recv s a 0x60 8 + 32 * k
      ⟨im s a o 8, im s a (o + 8) 8, im s a (o + 16) 8⟩)
    replay := (List.range (recv s a 0x5C 4)).map (fun k =>
      let o := recv s a 0x68 8 + 16 * k
      (im s a o 4, im s a (o + 4) 2, im s a (o + 8) 4))
    homeArea := recv s a 0x28 8, wardArea := recv s a 0x30 8, genBytes := recv s a 0x38 8, dropLog := recv s a 0x40 8
    dropGate := recv s a 0x48 8, wardLog := recv s a 0x50 8
    streams := (sect s a 5).1, p := imP s a, layers := imLayers s a m, cycles := [], modelTag := im s a 0x10 8, mf0 := mfHead m, mf1 := [] }

/-- The image is a resume's (R394). -/
def isResume (s : State) (a : Nat) : Bool := decide (recv s a 0x18 4 ≠ 0xFFFFFFFF)

/-- A Warehouse port has failed (R472). -/
def anyWhseFailed (s : State) : Bool := (List.range 4).any (whseFailed s)

/-- The version slots and the state of the layers lie in memory that the module has: its Warehouse is as large as the image was
compiled for (R398). -/
def statePlaced (s : State) (a : Nat) (m : List Byte) : Bool :=
  let n := sumOf ((gatheredEntries s.job.layers m).map mfImageBytes)
  populatedRange s (recv s a 8 8) n && populatedRange s (recv s a 0x10 8) n &&
  s.job.layers.all (fun l => lyFrozen l || (populated s l.set0 && populated s l.set1)) &&
  (ownedPanels s).all (fun pn => populatedRange s (stateSlot s pn 0) (panelBytes pn) &&
    (!lyEmit pn.layer || populatedRange s (imageSlot s pn 0) (2 * imageBytes 16)) &&
    (!lyEfEn pn.layer || populatedRange s (residualAddr pn.layer pn.f pn.g) 2097152))

/-- The Manifest that the launch page names is at its place, its Reads complete, and it passes its checks; every extent that the
module loads agrees with its digest (R338, R345), and there is memory for it (R398). A resume loads nothing (R394). -/
def manifestLoads (s : State) (o : LoadObs) (a rank : Nat) : Bool :=
  let p := s.job.page
  let m := o.manifest
  o.readsOk && mfSourceOk s (p.drop 0x60) m.length && manifestOk m (im s a 0x10 8) ((p.drop 0x70).take 32) && layersNamed s a m &&
  (let t := setJob s (jobOf s a rank m)
   statePlaced t a m && (isResume s a || (slotExtentsOk (imLayers s a m) m && panelExtentsOk t m)))

/-- The first failure of steps 1 to 4, or 0. -/
def prepareFailure (s : State) (o : LoadObs) : Nat :=
  let p := s.job.page
  let a := at_ p 0x20 8
  let len := at_ p 0x28 8
  if lockState s ≠ 2 ∨ jobLive s = true then 8
  else if !imagePlaced s a len then 1
  else if digest (readBytes s a len) ≠ (p.drop 0x30).take 32 then 2
  else if !(imageForm s a len (lpJobId p) && ranksOk s a && layersForm s a) then 1
  else
    match myRank s a with
    | none => 5
    | some rank =>
      if !descriptorsOk s a then 3
      else if !ringsOk s a rank then 4
      else if !(threadsOk s a && imRegionsOk s a && recoveryOk s a len rank) then 3
      else if anyWhseFailed s || !manifestLoads s o a rank then 6
      else 0

/-- Version slots and the Ledger base (R347, R345). -/
def putSlots (s : State) (a ver records : Nat) (resume : Bool) : State :=
  let s1 := fput (fput s (F.manifestSlotBase 0) (recv s a 8 8 / 4096)) (F.manifestSlotBase 1) (recv s a 0x10 8 / 4096)
  let s2 := fput (fput s1 (F.manifestSlotState 0) (if resume then 0 else 2)) (F.manifestSlotState 1) 0
  let s3 := fput (fput s2 F.manifestVerVer0 (if resume then 0 else ver)) F.manifestVerVer1 0
  fput (fput s3 F.ledgerBaseBase (recv s a 0 8 / 64)) F.ledgerBaseRecordsM1 (records - 1)

/-- The routing settings and the Tide Table of an image staged from a job image (R371). -/
def stageImage (s : State) (tableAddr : Nat) (routing : Nat → Nat) : State :=
  let s := stageReg (stageReg (stageReg s 0x600308 (routing 0)) 0x600300 (routing 1)) 0x100030 tableAddr
  (List.range 32).foldl (fun s n => stageReg s (0x600200 + 8 * n) (routing (2 + n))) s

/-- The Ledger records of the launch, one per owned panel in ascending q (R262, R346). -/
def launchLedger (s : State) : List (Nat × List Byte) :=
  let ps := ownedPanels s
  (List.range ps.length).filterMap (fun k => (ps[k]?).map (fun pn => (ledgerRecord s k, launchRecord pn)))

/-- The Manifest-gathered layers into version slot 0, and the launch state of the owned panels (R333, R345, R346). -/
def loadJob (s : State) (m : List Byte) : State :=
  putAll s (slotLoads m (fget s (F.manifestSlotBase 0) * 4096) (gatheredEntries s.job.layers m) ++
    (ownedPanels s).flatMap (panelLaunch s m) ++ launchLedger s)

/-- Steps 4 to 6 carried out: what was loaded, the tables, bindings and regions, and the two groups checked. -/
def stageJob (s : State) (o : LoadObs) (a rank : Nat) : State :=
  let resume := isResume s a
  let t := setJob s { jobOf s a rank o.manifest with image := a, imageBytes := at_ s.job.page 0x28 8 }
  let t := putSlots t a (at_ o.manifest 8 4) (ownedPanels t).length resume
  let t := if resume then t else loadJob t o.manifest
  let t := putBindings (copyTables t a) a
  checkImage (stageImage t (a + (sect s a 2).2) (imRouting s a))

/-- A staged pass of firmware thrown away (R367, R369). -/
def discardStage (s : State) : State :=
  let t := { s with stage := {} }
  if stageState s = 2 ∨ stageState s = 4 then setStage t 0 else t

/-- PREPARE fails: everything it wrote is released, and the status of the check stays to be read. -/
def rejectPrepare (s t : State) (code : Nat) : State :=
  let gf := if code = 7 then fget t F.tideStageStatusFailCode else 0
  let s := if code = 7 then
    setStage (fput (fput s F.tideStageStatusFailCode gf) F.tideStageStatusFailedGroups (fget t F.tideStageStatusFailedGroups)) 3
    else s
  ack (rampDown (setJob s { s.job with jobId := lpJobId s.job.page })) 3 code gf

/-- PASS is shown once every Crane's level has reached the floor (R432). -/
def settlePass (s : State) : State :=
  if pwrState s = 1 && atFloor s then
    let s := setPwr s 2
    if s.job.ramping then ack s 2 0 0 else s
  else s

/-- Step 6 passed: M3 is extended (R450) and the module ramps up. -/
def passPrepare (s : State) : State :=
  let p := s.job.page
  let s := extendM (extendM s 3 ((p.drop 0x30).take 32)) 3 ((p.drop 0x70).take 32)
  settlePass (rampUp (setJob s { s.job with ramping := true }))

def execPrepare (o : LoadObs) (s : State) : Out :=
  let p := s.job.page
  let a := at_ p 0x20 8
  let s0 := setJob s { s.job with st := 1, jobId := lpJobId p }
  let code := prepareFailure s0 o
  let t := stageJob s0 o a ((myRank s0 a).getD 0)
  whenever (carrying s 1)
    (if stagingBusy s then ack s s.job.st 3 0
     else if code ≠ 0 then rejectPrepare s s code
     else if stageState t = 2 then passPrepare t
     else rejectPrepare s t 7) s

/-! ARM, ABORT, END. -/

/-- The pass that PREPARE obtained stands. -/
def passStands (s : State) : Bool := decide (stageState s = 2) && ownedBy s .fw && decide (s.stage.groups = 3#5)

def execArm (s : State) : Out :=
  let at_ := lpAt s.job.page
  whenever (carrying s 2)
    (if stagingBusy s then ack s 2 3 0
     else if at_ % 16384 ≠ 0 ∨ at_ < s.tide.now + 16384 then ack s 2 0xA 0
     else if passStands s then
       let t := armStage (fput s F.tideCommitAtCommitNs at_) .fw
       ack (setJob t { t.job with commitNs := BitVec.ofNat 64 at_ }) 4 0 0
     else ack (rampDown s) 3 7 (fget s F.tideStageStatusFailCode)) s

/-- Regions and bindings released. -/
def releaseJob (s : State) : State :=
  let s := (List.range 16).foldl (fun s n => putRegion s 0 0 n) s
  (List.range 16).foldl (fun s c => bindCrane s 0 c) s

/-- A prepared, armed or rejected job is discarded; within 16,384 Tide ns of the commit it is too late (R369). -/
def execAbort (s : State) : Out :=
  whenever (carrying s 3)
    (if s.job.st = 4 ∧ s.job.commitNs.toNat < s.tide.now + 16384 then ack s 4 0xB 0
     else if s.job.st = 3 then ack (rampDown s) 0 0 0
     else ack (rampDown (releaseJob (if ownedBy s .fw then discardStage s else s))) 0 0 0) s

/-- END is scheduled for at_ns, or for 16,384 Tide ns from now (R370). -/
def execEndCmd (s : State) : Out :=
  let at_ := lpAt s.job.page
  whenever (carrying s 4)
    (ack (setJob s { s.job with endAt := some (if s.tide.now + 16384 ≤ at_ then at_ else s.tide.now + 16384) }) 5 0 0) s

/-! The launch commit (R368). -/

/-- Fields zeroed. -/
def zeroFields (s : State) : List Field → State
  | [] => s
  | f :: rest => zeroFields (fput s f 0) rest

/-- Counters and captures that return to zero at each launch commit (R103, R136, R298, R332, R353, R354, R400, and the
LEDGER registers). -/
def launchZeros : List Field :=
  [0, 1].flatMap (fun d => [F.tugViolCountCount d, F.tugViolFirstAddr d, F.tugViolFirstTug d, F.tugViolFirstThread d,
    F.tugViolFirstKind d, F.tugViolFirstValid d, F.tugFaultPc d, F.tugFaultTug d, F.tugFaultThread d, F.tugFaultCause d, F.tugFaultValid d]) ++
  (List.range 16).flatMap (fun c => [F.craneStateFgStopped c, F.craneStateBgEntry c, F.craneRejectSeq c, F.craneRejectOpcode c,
    F.craneRejectCause c, F.craneRejectBg c, F.craneRejectValid c]) ++
  [0, 1].flatMap (fun d => [F.bargeFaultStream d, F.bargeFaultBarge d, F.bargeFaultCause d, F.bargeFaultFw d, F.bargeFaultValid d]) ++
  [F.quayFaultStream, F.quayFaultPort, F.quayFaultCause, F.quayFaultValid, F.storFaultStream, F.storFaultPort, F.storFaultCause,
    F.storFaultValid, F.errDropDropped, F.errDropForced, F.errFirstSource, F.errFirstDie, F.errFirstUnit, F.errFirstStep,
    F.errFirstValid, F.errPoisonAddr, F.errPoisonConsumer, F.errPoisonContained, F.errPoisonValid, F.errFatalsFatals,
    F.ledgerStatusFlips, F.ledgerStatusPending, F.ledgerDoneDone0, F.ledgerDoneDone1, F.manifestPinEffStep, F.manifestPinEffMbatch,
    F.manifestPinBeforeSlot, F.manifestPinAfterSlot, F.manifestResultAccepted]

/-- A Crane's queues, counters and banks for a new job (R95, R122, R136; banks as start-up leaves them, R4, assumption 79). -/
def resetCrane (s : State) (c : Nat) : State :=
  let x := crane s c
  let s := setCrane s c
    { act := x.act, ebb1 := x.ebb1, heldAct := x.heldAct, ballast := x.ballast, ballastLast := x.ballastLast, level := x.level }
  fput (fput (fput s (F.craneStatusFgRetired c) 0xFFFFFFFF) (F.craneStatusBgRetired c) 0xFFFFFFFF) (F.craneStateBgFree c) 64

/-- Sampling stops when a region of the job overlaps its ring (R415). -/
def stopSampling (s : State) : State :=
  let a := fget s F.perfSampBaseBase * 4096
  let n := 2 ^ fget s F.perfSampBaseK * 4096
  if (flag s F.perfSampCtlTugEn || flag s F.perfSampCtlCraneEn) && touchesRegion s 0 a n then
    fput (fput (fput s F.perfSampCtlTugEn 0) F.perfSampCtlCraneEn 0) F.perfCtlSampOff 1
  else s

/-- The job as it begins to run. -/
def runningJob (j : Job) : Job :=
  { j with
    st := 5, result := j.result, endCause := 0, endDetail := 0, step := 0xFFFFFFFF, curStep := (j.resumeStep + 1).toNat
    restored := false, endAt := none, stopped := false, cutoff := false, dropped := [], gateWritten := false, runsCopied := []
    ledgerCopied := [], ledgerCopiedStep := 0xFFFFFFFF, homeDone := 0xFFFFFFFF, confirmed := 0xFFFFFFFF, switchReq := false
    switchPage := [], switchLog := [], cycles := [], rejected := [], digestFault := false }

/-- A Tug's caches as start-up leaves them (R4, assumption 79). -/
def resetCaches (s : State) (k : Nat) : State := setCore s k { core s k with dcache := [], icache := [] }

/-- The registers, queues, banks, caches and the Ledger engine at a launch commit. -/
def launchReset (s : State) : State :=
  let s := (List.range 16).foldl resetCrane (zeroFields s launchZeros)
  let s := (List.range 128).foldl resetCaches { s with ledger := {}, hcache := [], strides := [] }
  let s := fputBool (fputBool s (F.tugViolCountDiag 0) s.job.diag) (F.tugViolCountDiag 1) s.job.diag
  let fresh := decide (s.job.resumeStep = 0xFFFFFFFF)
  let s := if fresh then fput (fput s F.errSecureSecuredStep 0xFFFFFFFF) F.errSecureWardStep 0xFFFFFFFF else s
  let s := if fresh then fput s (F.manifestSlotState 0) 3 else s
  stopSampling s

/-- Fuses may be blown once an advancing bundle has seen a launch commit (R449). -/
def noteLaunch (s : State) : State := setSec s { s.sec with advancePending := true }

/-- Identity roots in both sets and both replicas of every layer (R216). -/
def launchAllRoots (s : State) : State := (s.job.layers.filter (fun l => !lyFrozen l)).foldl launchRoots s

/-- At commit_ns, once the groups have become active, counters return to zero, the stream tables hold the image's descriptors
(R287, R321), the roots are written, and firmware starts every job thread. -/
def execLaunchCommit (s : State) : Out :=
  let t := noteLaunch (launchReset s)
  let t := setJob t (runningJob t.job)
  let t := launchAllRoots (copyTables t t.job.image)
  whenever (s.tide.running && decide (s.job.st = 4) && decide (s.job.commitNs.toNat = s.tide.now) && decide (stageState s = 5))
    (t.job.threads.foldl (fun s p => startThread s p.1 p.2) t) s

/-! The end of a job. -/

/-- END takes effect: threads parked, no new entry and no new flip; started work goes on (R370). -/
def stopByEnd (s : State) (cause : Nat) (detail : Word) : State :=
  let s := parkJobThreads s
  let s := { s with tide := { s.tide with due := [], dls := [] }, ledger := { s.ledger with flips := [] } }
  let s := abortArmed (fput s F.ledgerStatusPending 0)
  setJob s { s.job with st := 6, endCause := cause, endDetail := detail, stopped := true, endAt := none }

def execEndInstant (s : State) : Out :=
  match s.job.endAt with
  | none => turnedAway s
  | some t => whenever (decide (s.job.st = 5) && decide (t ≤ s.tide.now)) (stopByEnd s 1 0) s

/-- The capture register of a program fault, and its cause (Table 13-5). -/
def faultFields : ProgFault → List Field
  | .tug d => [F.tugFaultPc d.val, F.tugFaultTug d.val, F.tugFaultThread d.val, F.tugFaultCause d.val, F.tugFaultValid d.val]
  | .crane c => craneRejectFields c.val
  | .barge d => [F.bargeFaultStream d.val, F.bargeFaultBarge d.val, F.bargeFaultCause d.val, F.bargeFaultFw d.val, F.bargeFaultValid d.val]
  | .storageDigest => []

def faultCause : ProgFault → Nat
  | .tug _ => 2
  | .crane _ => 3
  | .barge _ => 4
  | .storageDigest => 5

/-- A fault of the job has occurred. -/
def faultCaptured (s : State) : ProgFault → Bool
  | .tug d => flag s (F.tugFaultValid d.val)
  | .crane c => flag s (F.craneRejectValid c.val)
  | .barge d => s.job.rejected.contains d.val
  | .storageDigest => s.job.digestFault

/-- The Harbourmaster ends the job after a program fault (R102, R118, R295, R344), as END does. -/
def execProgramFaultEnd (f : ProgFault) (s : State) : Out :=
  whenever (decide (s.job.st = 5) && faultCaptured s f)
    (stopByEnd s (faultCause f) (match f with | .storageDigest => 0 | g => regWord s (faultFields g))) s

/-- Started work has retired: Crane queues empty, Barges idle, no run on a port, no access of a job thread outstanding. -/
def quiet (s : State) : Bool :=
  (List.range 16).all (fun c => let x := crane s c; x.flight.isEmpty && x.fgq.isEmpty && x.fgCmds.isEmpty && x.bgCmds.isEmpty) &&
  (List.range 64).all (fun b => let x := bargeSt s b; x.cur.isNone && x.queue.isEmpty && x.held.isEmpty) &&
  (List.range 32).all (fun p => (port s p).tx.isNone && (port s p).rx.all (·.closed)) &&
  (List.range 128).all (fun k => decide (k % 64 = 0) || (core s k).slots.isEmpty)

/-- A Crane's activation tables and their flags as start-up leaves them (R4, R185, assumption 79). -/
def resetTables (s : State) (c : Nat) : State :=
  let s := setCrane s c { crane s c with act := [], ebb1 := [], heldAct := [] }
  zeroFields s [F.craneActGenGen0 c, F.craneActGenGen1 c, F.craneActGenGen2 c, F.craneActGenGen3 c, F.craneActGenDirty c,
    F.craneActGenFloodValid c]

/-- ENDED: the module ramps down (R432). What the job left in the activation tables goes with it (R4). -/
def execJobEnded (s : State) : Out :=
  whenever (decide (s.job.st = 6) && quiet s)
    (rampDown (writeFound (setJob ((List.range 16).foldl resetTables s) { s.job with st := 7 }))) s

end Sys2Proof.Machine
end

