-- ==== Sys2Proof/Machine/Secure.lean ====
section
/-! DEFINITION. The Manifest switch, securing, and the restore phase of a resume (R338, R347, R350 to R352, R388 to R395). -/

namespace Sys2Proof.Machine

/-! The Manifest switch (R350, Table 12-5). -/

/-- The tables kept of the Manifest in a slot. -/
def slotHead (s : State) (slot : Nat) : List Byte := if slot = 0 then s.job.mf0 else s.job.mf1
def setSlotHead (s : State) (slot : Nat) (m : List Byte) : State :=
  setJob s (if slot = 0 then { s.job with mf0 := m } else { s.job with mf1 := m })

/-- A slot's version register, and its state. -/
def putSlotVersion (s : State) (slot v : Nat) : State := fput s (if slot = 0 then F.manifestVerVer0 else F.manifestVerVer1) v

/-- The Manifest of a slot names every gathered layer with the dimensions and block size of the Manifest pinned now. -/
def switchLayersOk (s : State) (slot : Nat) : Bool :=
  let now := slotHead s (fget s F.manifestPinAfterSlot)
  (s.job.layers.filter lyGathered).all (fun l => match mfEntry now l.num, mfEntry (slotHead s slot) l.num with
    | some e, some x => decide (at_ x 4 4 = at_ e 4 4 ∧ at_ x 8 4 = at_ e 8 4 ∧ at_ x 0xC 1 = at_ e 0xC 1)
    | _, _ => false)

/-- Its model tag is the job's and its header digest the one that the request names. -/
def switchTagOk (s : State) (slot : Nat) : Bool :=
  let m := slotHead s slot
  decide (at_ m 0x10 8 = s.job.modelTag) && mfDigestOk m ((s.job.switchPage.drop 0x20).take 32)

/-- Code of a switch, the first check of the table that fails; 0 accepted. -/
def switchCause (s : State) (effStep effMb slot : Nat) : Nat :=
  if effStep < s.job.curStep + 2 then 1
  else if fget s (F.manifestSlotState slot) ≠ 2 then 2
  else if !switchLayersOk s slot then 3
  else if !switchTagOk s slot then 4
  else if s.job.m ≤ effMb then 5
  else if fget s F.manifestPinBeforeSlot ≠ fget s F.manifestPinAfterSlot ∧
      fget s (F.manifestSlotState (fget s F.manifestPinBeforeSlot)) = 3 then 6
  else 0

/-- The pin updated at once, and the switch logged (R352). -/
def acceptSwitch (s : State) (effStep effMb slot : Nat) : State :=
  let m := slotHead s slot
  let r : SwitchRec := ⟨BitVec.ofNat 32 effStep, BitVec.ofNat 16 effMb, BitVec.ofNat 32 (at_ m 8 4), (m.drop 0x40).take 32⟩
  let s := setJob s { s.job with switchLog := s.job.switchLog ++ [r] }
  let s := fput (fput s F.manifestPinBeforeSlot (fget s F.manifestPinAfterSlot)) F.manifestPinAfterSlot slot
  let s := fput (fput s F.manifestPinEffStep effStep) F.manifestPinEffMbatch effMb
  fcount (fput s (F.manifestSlotState slot) 3) F.manifestResultAccepted 1

/-- A write of MANIFEST_SWITCH with go. -/
def writeSwitch (s : State) (effStep effMb slot : Nat) : State :=
  let code := switchCause s effStep effMb slot
  let t := fput (fput (fput s F.manifestSwitchEffStep effStep) F.manifestSwitchEffMbatch effMb) F.manifestSwitchSlot slot
  let t := fput t F.manifestSwitchGo 1
  let t := fput (if code = 0 then acceptSwitch t effStep effMb slot else t) F.manifestResultCode code
  if s.job.switchReq then setJob t { t.job with switchReq := false, switchCode := code } else t

/-- A Manifest's header, directory and layer tables have their forms. -/
def mfFormOk (m : List Byte) : Bool := mfHeaderOk m (at_ m 0x10 8) && mfDirOk m && mfPlacesOk m

/-- The gathered layers of a Manifest loaded into a slot, which takes a state (R333, R347). -/
def loadSlot (s : State) (m : List Byte) (slot state : Nat) : State :=
  let t := putAll s (slotLoads m (fget s (F.manifestSlotBase slot) * 4096) (gatheredEntries s.job.layers m))
  putSlotVersion (fput (setSlotHead t slot (mfHead m)) (F.manifestSlotState slot) state) slot (at_ m 8 4)

/-- The load of a switch request ends: the slot is ready once every Read has completed and every extent agrees with its digest
(R338, R344); else it is empty. -/
def loadSwitch (s : State) (o : LoadObs) (slot : Nat) : State :=
  let m := o.manifest
  if o.readsOk && mfSourceOk s s.job.switchPage m.length && mfFormOk m && slotExtentsOk s.job.layers m then loadSlot s m slot 2
  else putSlotVersion (fput (setSlotHead s slot []) (F.manifestSlotState slot) 0) slot 0

/-- The Harbourmaster loads the Manifest of the request it has read into the free slot, and writes MANIFEST_SWITCH. -/
def execManifestSwitch (o : LoadObs) (s : State) : Out :=
  let slot := 1 - fget s F.manifestPinAfterSlot
  whenever (jobLive s && s.job.switchReq)
    (writeSwitch (loadSwitch s o slot) (at_ s.job.switchPage 0x10 4) (at_ s.job.switchPage 0x14 2) slot) s

/-- The before slot is freed once a step at or after the effective step has been secured (R351). -/
def freeSlotAfter (s : State) (step : Nat) : State :=
  let b := fget s F.manifestPinBeforeSlot
  if b ≠ fget s F.manifestPinAfterSlot ∧ fget s F.manifestPinEffStep ≤ step ∧ fget s (F.manifestSlotState b) = 3 then
    putSlotVersion (fput s (F.manifestSlotState b) 0) b 0
  else s

/-! Generations (R389 to R391). -/

/-- A generation's base address for step st. -/
def genBase (s : State) (ward : Bool) (st : Nat) : Nat :=
  (if ward then s.job.wardArea else s.job.homeArea) + st / s.job.s % 2 * s.job.genBytes

/-- Extents of a generation: the job's, or as many as the ward says. -/
def genExtents (s : State) (ward : Bool) (st : Nat) : Nat :=
  if ward then readNat s (genBase s ward st + 0x18) 4 else s.job.extents

/-- Every extent agrees with the digest that its table entry gives (Table 14-7). -/
def extentsMatch (s : State) (base n : Nat) : Bool :=
  (List.range n).all (fun k =>
    let e := readBytes s (base + 64 + 48 * k) 48
    decide (digest (readBytes s (base + at_ e 0 8) (at_ e 8 8)) = (e.drop 16).take 32))

/-- A generation's header (Table 14-6), its state 0 writing or 1 complete; the entries of the extent table follow it. -/
def genHeader (s : State) (ward : Bool) (st state : Nat) : List Byte :=
  let n := genExtents s ward st
  let h := bytesOfNat 4 0x43535859 ++ bytesOfNat 2 1 ++ bytesOfNat 1 (st / s.job.s % 2) ++ bytesOfNat 1 state ++
    bytesOfNat 4 (if ward then s.job.wardRank else s.job.rank) ++ bytesOfNat 4 st ++ bytesOfNat 8 s.job.jobId.toNat ++
    bytesOfNat 4 n ++ bytesOfNat 4 0
  h ++ digest (h ++ readBytes s (genBase s ward st + 64) (48 * n))

/-- secured_step takes s when the home copy is complete and the confirmation has arrived (R391). -/
def updateSecured (s : State) : State :=
  if s.job.homeDone = s.job.confirmed ∧ s.job.homeDone ≠ 0xFFFFFFFF then
    freeSlotAfter (fput s F.errSecureSecuredStep s.job.homeDone.toNat) s.job.homeDone.toNat
  else s

/-- Every extent of a generation has been written: its header is written with state 1. An extent that does not match leaves the
generation at state 0 and counts as corrected (R390). -/
def execSecureGenerationComplete (ward : Bool) (step : BitVec 32) (s : State) : Out :=
  let st := step.toNat
  let put := fun (state : Nat) => writeBytes s (genBase s ward st) (genHeader s ward st state)
  let t := put 1
  whenever (jobLive s && decide (st % s.job.s = 0) && decide (st < s.job.curStep))
    (if !extentsMatch s (genBase s ward st) (genExtents s ward st) then corrected (put 0)
     else if ward then fput t F.errSecureWardStep st
     else updateSecured { t with job := { t.job with homeDone := step } }) s

/-- The Partner's confirmation of a step arrives. -/
def execPartnerConfirmation (step : BitVec 32) (s : State) : Out :=
  whenever (jobLive s && decide (step.toNat % s.job.s = 0) && decide (step.toNat < s.job.curStep))
    (updateSecured { s with job := { s.job with confirmed := step } }) s

/-! The restore phase (R394, R395). -/

/-- A generation verifies: its header has state 1, the step and the job, its digest agrees, and every extent does. -/
def genVerifies (s : State) (st : Nat) : Bool :=
  let base := genBase s false st
  let h := readBytes s base 64
  let n := at_ h 0x18 4
  decide (at_ h 0 4 = 0x43535859 ∧ at_ h 4 2 = 1 ∧ at_ h 7 1 = 1 ∧ at_ h 0xC 4 = st ∧ at_ h 0x10 8 = s.job.jobId.toNat ∧ n = s.job.extents) &&
  decide (digest (h.take 0x20 ++ readBytes s (base + 64) (48 * n)) = (h.drop 0x20).take 32) && extentsMatch s base n

/-- Descriptor k of the restore list, its source in the generation made an address (Table 14-5). -/
def restoreDesc (s : State) (base k : Nat) : List Byte :=
  let a := s.job.image
  let d := readBytes s (a + recv s a 0x70 8 + 128 * k) 128
  bytesOfNat 8 (base + bdSrc d) ++ d.drop 8

/-- An extent that holds Ledger records. -/
def ledgerExtent (s : State) (d : List Byte) : Bool :=
  decide (ledgerRecord s 0 ≤ bdDst d ∧ bdDst d < ledgerRecord s (ownedPanels s).length)

/-- The extents copied to their destinations, the Ledger records last. -/
def restoreExtents (s : State) (base : Nat) : State :=
  let ds := (List.range s.job.extents).map (restoreDesc s base)
  (ds.filter (fun d => !ledgerExtent s d) ++ ds.filter (ledgerExtent s)).foldl (fun t d => performWrites t (form t d none).writes) s

/-- A refresh cycle that was in progress at the end of step st runs again from its input copy (R217). -/
def reopenCycle (st : Nat) (s : State) (l : Layer) : State :=
  let start := readNat s (floodOf s l + 8) 4
  if 1 ≤ start ∧ start ≤ st ∧ st < start + lyLag l then openCycle s l start else s

/-- The images of the panels emitted anew from the restored masters (R388, R394). -/
def reemitImages (s : State) : State :=
  let ps := ownedPanels s
  putAll s ((List.range ps.length).filterMap (fun k => (ps[k]?).bind (fun pn =>
    if lyEmit pn.layer then
      some (imageSlot s pn (liveSlot s k), emittedImage s pn (stateSlot s pn (liveSlot s k)) (readNat s (ledgerRecord s k + 0x20) 4))
    else none)))

/-- The pin that a switch log gives. Slot 0 holds the launch's Manifest, and each accepted switch took the other slot. -/
def pinOf (log : List SwitchRec) : Nat × Nat × Nat × Nat :=
  match log.getLast? with
  | none => (0, 0, 0, 0)
  | some r => (r.effStep.toNat, r.effMbatch.toNat, (log.length + 1) % 2, log.length % 2)

/-- Digest of the n-th Manifest of the job, the launch's first. -/
def versionDigest (s : State) (log : List SwitchRec) (n : Nat) : List Byte :=
  if n = 0 then (s.job.mf0.drop 0x40).take 32
  else match log[n - 1]? with
    | some r => r.digest
    | none => []

/-- A micro-batch of step st or later is pinned to the slot before the last switch (R348, R352). -/
def beforePinned (log : List SwitchRec) (st : Nat) : Bool :=
  match log.getLast? with
  | none => false
  | some r => decide (st < r.effStep.toNat ∨ (st = r.effStep.toNat ∧ 0 < r.effMbatch.toNat))

/-- A Manifest passes R338 for a restored pin. -/
def pinnedOk (s : State) (o : LoadObs) (expected : List Byte) : Bool :=
  o.readsOk && manifestOk o.manifest s.job.modelTag expected && slotExtentsOk s.job.layers o.manifest

/-- The pin set from the restored log, and the Manifests it needs loaded. -/
def restorePins (s : State) (log : List SwitchRec) (before after : LoadObs) (needBefore : Bool) : State :=
  let (step, mb, b, a) := pinOf log
  let s := setJob s { s.job with switchLog := log }
  let s := fput (fput s F.manifestPinEffStep step) F.manifestPinEffMbatch mb
  let s := fput (fput s F.manifestPinBeforeSlot b) F.manifestPinAfterSlot a
  let s := if needBefore then loadSlot s before.manifest b 3 else s
  loadSlot s after.manifest a 3

/-- The restore phase of a resume: the home generation verified and copied, the pin and the Manifests, the cycles, the images,
ERR_SECURE and the drop gate (R394); a copy that fails verification is step-fatal (R395). -/
def execRestoreComplete (log : List SwitchRec) (before after : LoadObs) (s : State) : Out :=
  let st := s.job.resumeStep.toNat
  let needBefore := beforePinned log (st + 1)
  let t := restorePins (restoreExtents s (genBase s false st)) log before after needBefore
  let t := reemitImages (t.job.layers.foldl (reopenCycle st) t)
  let t := fput (fput t F.errSecureSecuredStep st) F.errSecureWardStep st
  let t := writeNat t s.job.dropGate 8 (st + 1)
  let loaded := pinnedOk s after (versionDigest s log log.length) &&
    (!needBefore || pinnedOk s before (versionDigest s log (log.length - 1)))
  if !(jobLive s && !s.job.restored && decide (s.job.resumeStep ≠ 0xFFFFFFFF)) then turnedAway s
  else if !genVerifies s st then .next (fatal s 0x25 0 0)
  else whenever loaded (spendFree (setJob t { t.job with restored := true, step := s.job.resumeStep })) s

end Sys2Proof.Machine
end

