-- ==== Sys2Proof/Machine/CtlWrite.lean ====
section
/-! DEFINITION. A write to control space with everything it starts: plain fields by their access codes (R12, R15), shadow
fields (R61), and the registers whose write is a command. -/

namespace Sys2Proof.Machine

/-- A write as it reaches its register: the register's byte offset, the 64-bit image of the value, the mask of the bits
written, and the bits that hardware sets or clears in the same cycle. -/
structure CtlAcc where
  x : Nat
  img : Nat
  mask : Nat
  hwSet : Nat
  hwClear : Nat
  deriving DecidableEq, Repr

/-- A write of the n low bytes of v at byte offset x. -/
def ctlAcc (x n v hwSet hwClear : Nat) : CtlAcc :=
  ⟨x / 8 * 8, imageOf x (v % 2 ^ (8 * n)), maskOf x n, hwSet, hwClear⟩

/-- Bit i is written with 1. -/
def writes1 (w : CtlAcc) (i : Nat) : Bool := decide (w.img / 2 ^ i % 2 = 1 ∧ w.mask / 2 ^ i % 2 = 1)
/-- Some bit of [lo, lo + n) is written. -/
def writesBits (w : CtlAcc) (lo n : Nat) : Bool := decide (w.mask / 2 ^ lo % 2 ^ n ≠ 0)
/-- The written value of a field's bits, the others keeping a value of their own. -/
def written (w : CtlAcc) (lo n old : Nat) : Nat := mergeBits old (w.img / 2 ^ lo) (w.mask / 2 ^ lo) n

/-- The plain fields of the register. -/
def plainPart (s : State) (who : Agent) (w : CtlAcc) : State :=
  writePerf (writeFields s (isFw who) w.img w.mask w.hwSet w.hwClear (plainFields w.x)) w.x w.img w.mask w.hwSet

/-- TIDE_STAGE_CTRL: the groups, then check, arm and abort in that order (assumption 26); ignored as a whole where the bits
that the job or the host writes select another group than the Drain tables (R63). A write that is refused changes nothing but
busy (R60), so its groups are not stored either. -/
def writeStageCtrl (s : State) (who : Agent) (w : CtlAcc) : State :=
  let groups := written w 0 5 (fget s F.tideStageCtrlGroups)
  if !isFw who && decide (written w 0 5 0 % 16 ≠ 0) then ignoredCtrl s who
  else if writes1 w 8 && checkRefused s then refuseStage s
  else if !writes1 w 8 && writes1 w 9 && armRefused s who then refuseStage s
  else if !writes1 w 8 && !writes1 w 9 && writes1 w 10 && abortRefused s who then refuseStage s
  else
    let s := fput s F.tideStageCtrlGroups groups
    let s := if writes1 w 8 then startCheck s who (BitVec.ofNat 5 groups) else s
    let s := if writes1 w 9 then armStage s who else s
    if writes1 w 10 then abortStage s who else s

/-- PERF_CTL: run, freeze_on_ovf, action and late, then snap, clear and arm in that order. -/
def writePerfCtl (s : State) (who : Agent) (w : CtlAcc) : State :=
  let s := plainPart s who w
  let s := if writes1 w 2 then snapAt s s.tide.now else s
  let s := if writes1 w 3 then clearPerf s else s
  if writes1 w 6 then armPerf s (fget s F.perfCtlAction) else s

/-- PERF_CTRn (R407). -/
def writePerfCtr (s : State) (n : Nat) (w : CtlAcc) : State := writeCtr s n (written w 0 48 (Tab.get 0 s.perf.ctr n))

/-- PERF_SAMP_CTL: the plain fields, then the enables where they are written. -/
def writeSampCtl (s : State) (who : Agent) (w : CtlAcc) : State :=
  let s := plainPart s who w
  if writesBits w 0 2 then
    let en := written w 0 2 ((if flag s F.perfSampCtlTugEn then 1 else 0) + (if flag s F.perfSampCtlCraneEn then 2 else 0))
    enableSampling s (decide (en % 2 = 1)) (decide (en / 2 = 1))
  else s

/-- The activation table word pair that an offset names. -/
def actSlotOf (x : Nat) : Option (Nat × Nat × Nat) :=
  let i := x / 0x100000
  let o := x % 0x100000
  if 8 ≤ i ∧ i < 0x18 ∧ 0x1800 ≤ o ∧ o < 0x3800 ∧ (o - 0x1800) % 0x800 / 8 < 193 then
    some (i - 8, (o - 0x1800) / 0x800, (o - 0x1800) % 0x800 / 8)
  else none

/-- Registers that only firmware writes and whose write is a command of its own; an action bit is an FW field, so it keeps what
was written (R12). -/
def writeFwCommand (s : State) (w : CtlAcc) : State :=
  let i := w.x / 0x100000
  let o := w.x % 0x100000
  let full := fun fs => written w 0 64 (assemble s fs)
  if i = 2 ∧ o = 0x30 then
    (if writes1 w 0 then writeStanddown s else fput s F.pwrCmdStanddown (written w 0 1 (fget s F.pwrCmdStanddown)))
  else if i = 3 ∧ o = 0x220 then
    let k := written w 0 2 (fget s F.secExtGoIndex)
    if writes1 w 8 then writeExtGo s k
    else fput (fput s F.secExtGoIndex k) F.secExtGoGo (written w 8 1 (fget s F.secExtGoGo))
  else if 0x1C ≤ i ∧ i < 0x1E ∧ o = 8 then
    let d := i - 0x1C
    let page := written w 12 36 (fget s (F.holdRemapPage d))
    if writes1 w 63 then writeRemap s d page
    else fput (fput s (F.holdRemapPage d) page) (F.holdRemapGo d) (written w 63 1 (fget s (F.holdRemapGo d)))
  else if i = 0x20 ∧ o = 8 then
    let k := written w 0 16 (fget s F.ledgerFlipIndex)
    if mayFlip s k then acceptFlip s k else s
  else if i = 0x20 ∧ o = 0x18 then issueUpd s 0 (full [F.ledgerUpdDesc 0] / 64 % 2 ^ 42 * 64)
  else if i = 0x20 ∧ o = 0x20 then issueUpd s 1 (full [F.ledgerUpdDesc 1] / 64 % 2 ^ 42 * 64)
  else if i = 0x21 ∧ o = 0x20 then
    let step := written w 0 32 (fget s F.manifestSwitchEffStep)
    let mb := written w 32 16 (fget s F.manifestSwitchEffMbatch)
    let slot := written w 48 1 (fget s F.manifestSwitchSlot)
    if writes1 w 63 then writeSwitch s step mb slot
    else fput (fput (fput (fput s F.manifestSwitchEffStep step) F.manifestSwitchEffMbatch mb) F.manifestSwitchSlot slot)
      F.manifestSwitchGo (written w 63 1 (fget s F.manifestSwitchGo))
  else s

/-- The registers of `writeFwCommand`. -/
def fwCommandReg (x : Nat) : Bool :=
  let i := x / 0x100000
  let o := x % 0x100000
  (decide (i = 2) && decide (o = 0x30)) || (decide (i = 3) && decide (o = 0x220)) ||
  (decide (0x1C ≤ i ∧ i < 0x1E) && decide (o = 8)) || (decide (i = 0x20) && (decide (o = 8 ∨ o = 0x18 ∨ o = 0x20))) ||
  (decide (i = 0x21) && decide (o = 0x20))

/-- A write carried out by an agent that may make it. -/
def ctlWrite (s : State) (who : Agent) (w : CtlAcc) : State :=
  let i := w.x / 0x100000
  let o := w.x % 0x100000
  if groupOf w.x < 5 then (if isFw who then writeShadow s w.x w.img w.mask else s)
  else if i = 1 ∧ o = 0x40 then writeStageCtrl s who w
  else if i = 4 ∧ o = 0 then writePerfCtl s who w
  else if i = 4 ∧ 0x80 ≤ o ∧ o < 0xC0 then writePerfCtr s (o / 8 - 0x10) w
  else if i = 4 ∧ o = 0x300 then writeSampCtl s who w
  else if 0x1A ≤ i ∧ i < 0x1C ∧ o = 8 then
    writeBargeStart s who (i - 0x1A) (written w 0 16 0) (32 * (i - 0x1A) + written w 16 5 0)
  else if fwCommandReg w.x then (if isFw who then writeFwCommand s w else s)
  else
    match actSlotOf w.x with
    | some (c, slot, n) => writeAct s c ⟨slot, n, BitVec.ofNat 64 w.img, BitVec.ofNat 64 w.mask⟩
    | none => plainPart s who w

/-- The write waits at its register with the store that makes it: a full Barge queue (R288), 16 update operations
outstanding (R268), or a Flood bank in use (R183). -/
def ctlHeld (s : State) (who : Agent) (w : CtlAcc) : Bool :=
  let i := w.x / 0x100000
  let o := w.x % 0x100000
  if 0x1A ≤ i ∧ i < 0x1C ∧ o = 8 then
    let b := 32 * (i - 0x1A) + written w 16 5 0
    !startDenied s who (written w 0 16 0) b && (decide (8 ≤ (bargeSt s b).queue.length) || !(bargeSt s b).held.isEmpty)
  else if i = 0x20 ∧ (o = 0x18 ∨ o = 0x20) ∧ isFw who = true then
    let d : Die := if o = 0x18 then 0 else 1
    decide (16 ≤ (updOps s d).length) || !(updHeld s d).isEmpty
  else
    match actSlotOf w.x with
    | some (c, slot, _) => floodInUse (crane s c) slot || (crane s c).heldAct.any (fun y => decide (y.slot = slot))
    | none => false

/-- REGISTER_WRITE: a job's write that can act on no touched bit is a violation (R99); any other acts on the bits it may. -/
def execRegisterWrite (who : Agent) (off : BitVec 26) (bytes : Nat) (value hwSet hwClear : Word) (s : State) : Out :=
  let x := off.toNat
  let w := ctlAcc x bytes value.toNat hwSet.toNat hwClear.toNat
  if accessOk who x bytes then
    match who with
    | .job t => if jobMayWrite s x bytes then .next (ctlWrite s who w) else .next (violation s t.val 1 (ctlBase + x))
    | _ => .next (ctlWrite s who w)
  else turnedAway s

end Sys2Proof.Machine
end

