-- ==== Sys2Proof/Machine/Entries.lean ====
section
/-! DEFINITION. The entries of the Tide Table as they start (R50, R51, R121 to R123, Table 02-6). -/

namespace Sys2Proof.Machine

/-- Earlier work on the resource of an entry is over (R51). -/
def resourceFree (s : State) (kind res : Nat) : Bool :=
  match kind with
  | 1 => decide ((port s res).tx = none)
  | 2 => (port s res).rx.all (·.closed)
  | 3 => decide ((bargeSt s res).cur = none) && decide ((bargeSt s res).queue = [])
  | 4 => decide ((crane s res).bgLast = none) && (!(crane s res).bgPast || decide ((crane s res).bgCmds = []))
  | _ => true

/-- Slots of an entry's window after the present one; none when its last slot has passed already. -/
def slotsLeft (s : State) (e : Entry) : Option Nat :=
  if fget s F.tideSchedSlot < e.start + e.len then some (e.start + e.len - 1 - fget s F.tideSchedSlot) else none

/-- Entry `stream` of the background job table (CRANE_BGQ_BASE, R122): Berth offset and words of a command list. -/
def bgJob (s : State) (c stream : Nat) : Nat × Nat :=
  let a := berthAddr (dieOfCrane c) (fget s (F.craneBgqBaseBase c) * 16 + 16 * stream)
  (readNat s a 4, readNat s (a + 4) 2)

/-- The commands of the background job appended; a stream beyond the table queues nothing and is counted as an overrun
(Table 04-10). -/
def appendJob (s : State) (c stream : Nat) : State :=
  if stream < fget s (F.craneBgqBaseCount c) then
    fetchLists (setCrane s c { crane s c with lists := (crane s c).lists ++ [bgJob s c stream] }) c
  else countOverrun s

/-- A CRANE_BG entry grants the background slots and bank 1 until its last slot (R121) and queues its job (R122). -/
def startBg (s : State) (e : Entry) : State :=
  let s := setCrane s e.res { crane s e.res with bgLast := slotsLeft s e, bgPast := decide (slotsLeft s e = none), bgBallastOk := e.ballastOk }
  appendJob (fput s (F.craneStateBgEntry e.res) 1) e.res e.stream

/-- A BALLAST entry sets its Crane's level until its last slot (R123). -/
def startBallast (s : State) (e : Entry) : State :=
  match slotsLeft s e with
  | none => s
  | some n => setCrane s e.res { crane s e.res with ballast := e.stream, ballastLast := some n }

/-- The named work starts (R50). A firmware entry of the stream table that the Tide Table places runs at firmware privilege (R287,
R387). -/
def startEntry (s : State) (e : Entry) : State :=
  match e.kind with
  | 1 => startTx s e.res e.stream
  | 2 => startRx s e.res e.stream
  | 3 => enqueueStart s e.res { stream := e.stream, job := !fwStream e.stream }
  | 4 => startBg s e
  | 5 => startBallast s e
  | 6 => passMarker s e
  | _ => s

/-- The first waiting entry of a resource in its first slot: started if the resource is free, else late from now on. -/
def reachEntry (kind res : Nat) (s : State) : Out :=
  match dueFor s kind res with
  | none => turnedAway s
  | some d =>
    if !entriesRun s || d.late then turnedAway s
    else if resourceFree s kind res then .next (startEntry (dropDue s kind res) d.entry)
    else .next (markLate s kind res)

def execQuayTx (port : PortIx) (s : State) : Out := reachEntry 1 port.val s
def execQuayRx (port : PortIx) (s : State) : Out := reachEntry 2 port.val s
def execBarge (b : BargeIx) (s : State) : Out := reachEntry 3 b.val s
def execCraneBg (c : CraneIx) (s : State) : Out := reachEntry 4 c.val s
def execBallast (c : CraneIx) (s : State) : Out := reachEntry 5 c.val s
def execMarker (s : State) : Out := reachEntry 6 0 s

/-- A late entry starts as soon as its resource is free, counted as a local overrun (R51). -/
def execEntryLateStart (kind : EntryKind) (unit : Nat) (s : State) : Out :=
  match dueFor s (entryCode kind) unit with
  | none => turnedAway s
  | some d =>
    whenever (entriesRun s && d.late && resourceFree s (entryCode kind) unit)
      (startEntry (countOverrun (dropDue s (entryCode kind) unit)) d.entry) s

end Sys2Proof.Machine
end

