-- ==== Sys2Proof/Machine/Host.lean ====
section
/-! DEFINITION. The host link: CXL.mem accesses of the Hold (R357, R360, R361), the mailbox (Table 13-1), and the Warehouse
ports at start-up and when they fail (R280, R281, R372 to R374). -/

namespace Sys2Proof.Machine

def setHostSt (s : State) (h : HostSt) : State := { s with host := h }

/-! CXL.mem. -/

/-- The Hold byte of a host physical address, when the committed decoder maps n bytes from it. -/
def hostAddr (s : State) (hpa n : Nat) : Option Nat :=
  match s.host.hdm with
  | some h => if h ≤ hpa ∧ hpa + n ≤ h + holdSize ∧ n ≠ 0 then some (holdBase + (hpa - h)) else none
  | none => none

/-- [a, a + n) lies in [lo, lo + len). -/
def within (a n lo len : Nat) : Bool := decide (lo ≤ a ∧ a + n ≤ lo + len)

/-- The host may read: outside the reserved areas, or all of the launch area (R361). -/
def hostMayRead (a n : Nat) : Bool := !touchesReserved a n || within a n launchArea 0x10000

/-- The host may write: outside the reserved areas, or the launch page or the switch page (R361). -/
def hostMayWrite (a n : Nat) : Bool := !touchesReserved a n || within a n launchArea 0x1000 || within a n switchPage 0x1000

/-- A host access performed at the home Harbour Cache bank. -/
def countHost (s : State) (a n : Nat) (write : Bool) : State := countEvent (hcRange s a n write true) 5 (hcBank s a) 7 1 0

/-- The answer of a read. -/
def answerRead (s : State) (bs : List Byte) (poison : Bool) : State :=
  setHostSt s { s.host with readData := bs, readPoison := poison }

/-- A permitted read: its bytes, those of a poisoned line being free, and whether the data are poisoned. -/
def hostRead (s : State) (a n : Nat) : State :=
  let p := poisonedRange s a n
  let t := answerRead (countHost s a n false) (srcBytes s a n) p
  if p then spendFree t else t

def execHostMemRead (hpa : BitVec 52) (len : Nat) (errs : List MemErr) (s : State) : Out :=
  match hostAddr s hpa.toNat len with
  | none => turnedAway s
  | some a =>
    whenever s.tide.running
      (if hostMayRead a len then hostRead (meetErrors s errs) a len else countHostDenied (answerRead s (List.replicate len 0#8) false)) s

/-- A permitted write; a poisoned one poisons its lines. -/
def hostWrite (s : State) (a : Nat) (data : List Byte) (poison : Bool) : State :=
  let t := countHost s a data.length true
  if poison then writePoison t 0 a data else writeBytes t a data

def execHostMemWrite (hpa : BitVec 52) (data : List Byte) (poisoned : Bool) (s : State) : Out :=
  match hostAddr s hpa.toNat data.length with
  | none => turnedAway s
  | some a =>
    whenever s.tide.running (if hostMayWrite a data.length then hostWrite s a data poisoned else countHostDenied s) s

def execHdmDecoderCommit (base : BitVec 52) (s : State) : Out :=
  .next (fput (setHostSt s { s.host with hdm := some base.toNat }) F.modHostlinkHdmCommitted 1)

/-- A hot reset, link-down or retrain of the upstream port (R357). -/
def execHostLinkReset (s : State) : Out :=
  .next (fcount (fput (setHostSt s { s.host with hdm := none }) F.modHostlinkHdmCommitted 0) F.modHostlinkResets 1)

/-! The mailbox. Codes and layouts are those of CXL 2.0: PRESUMED, assumption 16. -/

/-- A command completes with a return code and data. -/
def mailbox (s : State) (code : Nat) (bs : List Byte) : State := setHostSt s { s.host with mboxCode := code, mboxData := bs }

/-- Firmware serves the mailbox. -/
def served (s t : State) : Out := whenever (firmwareUp s) t s

/-- n bytes of which the manual states nothing. -/
def freeData (s : State) (n : Nat) : List Byte := (List.range n).map (fun i => (freeAt s i).setWidth 8)

def succeed (s : State) (bs : List Byte) : State := mailbox s 0 bs

/-- Total and volatile capacity in units of 256 MiB: 576, 144 GiB. -/
def identifyData (s : State) : List Byte :=
  freeData s 16 ++ bytesOfNat 8 576 ++ bytesOfNat 8 576 ++ bytesOfNat 8 0 ++ bytesOfNat 8 0 ++ freeData (tookFree s 16) 19

def execIdentifyMemoryDevice (s : State) : Out := served s (tookFree (succeed s (identifyData s)) 35)

/-- UUID of the Command Effects Log. -/
def celUuid : List Byte :=
  [0x0d, 0xa9, 0xc0, 0xb5, 0xbf, 0x41, 0x4b, 0x78, 0x8f, 0x79, 0x96, 0xb1, 0x62, 0x3b, 0x3f, 0x17]

/-- Opcodes of the commands of Table 13-1. -/
def mailboxOpcodes : List Nat := [0x0100, 0x0101, 0x0300, 0x0301, 0x0400, 0x0401, 0x4000, 0x4200]

/-- One log, of four bytes for each command. -/
def execGetSupportedLogs (s : State) : Out :=
  served s (succeed s (bytesOfNat 2 1 ++ bytesOfNat 6 0 ++ celUuid ++ bytesOfNat 4 (4 * mailboxOpcodes.length)))

/-- The Command Effects Log: each opcode with its effects, which the manual does not state. -/
def celData (s : State) : List Byte :=
  (List.range 8).flatMap (fun i => bytesOfNat 2 (mailboxOpcodes.getD i 0) ++ bytesOfNat 2 ((freeAt s i).toNat % 2 ^ 16))

def execGetLog (s : State) : Out := served s (tookFree (succeed s (celData s)) 8)
def execGetHealthInfo (s : State) : Out := served s (tookFree (succeed s (freeData s 18)) 18)
def execGetEventRecords (s : State) : Out := served s (tookFree (succeed s (freeData s 32)) 32)
def execClearEventRecords (s : State) : Out := served s (succeed s [])
def execGetTimestamp (s : State) : Out := served s (succeed s (bytesOfNat 8 s.host.timestamp.toNat))
def execSetTimestamp (ts : Word) (s : State) : Out :=
  served s (succeed (setHostSt s { s.host with timestamp := ts }) [])

/-- A command of Table 13-1 has a row of its own; every other opcode completes with Unsupported. -/
def execUnsupportedMailboxCommand (opcode : BitVec 16) (s : State) : Out :=
  if mailboxOpcodes.contains opcode.toNat then turnedAway s else served s (mailbox s 3 [])

/-! Warehouse ports. -/

/-- The cause for which a port is not used (Table 13-10); 0 for an expander that passes. -/
def rejectCause (o : ExpanderObs) : Nat :=
  if !o.l0In100ms then 1
  else if o.width ≠ 16 ∨ o.speed ≠ 3 then 2
  else if !o.isCxl then 3
  else if !o.sldType3 then 4
  else if o.capGib < 1 then 5
  else 0

def whseInUse (s : State) (p : Nat) : Bool := decide (fget s (F.whsePortState (p / 2) (p % 2)) = 2)
def whseCap (s : State) (p : Nat) : Nat := fget s (F.whsePortCapGib (p / 2) (p % 2))

/-- W (R280). -/
def mapWidth (s : State) : Nat :=
  if (List.range 4).all (whseInUse s) then 4
  else if whseInUse s 0 && whseInUse s 2 then 2 else 0

/-- C in GiB (R281): the smallest capacity of the expanders in use, at most 2 TiB. -/
def mapCap (s : State) : Nat :=
  let ports := if mapWidth s = 4 then [0, 1, 2, 3] else if mapWidth s = 2 then [0, 2] else []
  match ports with
  | [] => 0
  | p :: rest => rest.foldl (fun m q => Nat.min m (whseCap s q)) (Nat.min (whseCap s p) 2048)

/-- WHSE_MAP of both blocks set from the ports. -/
def setWhseMap (s : State) : State :=
  let (w, c) := (mapWidth s, mapCap s)
  [0, 1].foldl (fun s u => fput (fput s (F.whseMapW u) w) (F.whseMapCGib u) c) s

/-- A port reported with what it found. -/
def qualify (s : State) (p : Nat) (o : ExpanderObs) : State :=
  let (u, n) := (p / 2, p % 2)
  let c := rejectCause o
  let s := fput (fput s (F.whsePortState u n) (if c = 0 then 2 else 3)) (F.whsePortReject u n) c
  let s := fput (fput s (F.whsePortWidth u n) o.width) (F.whsePortSpeed u n) o.speed
  let s := fputBool s (F.whsePortLaneReversed u n) o.reversed
  setWhseMap (fput s (F.whsePortCapGib u n) (Nat.min o.capGib 0xFFFF))

/-- In start-up only: fitted expanders change nothing once the module is ready (R374). -/
def execWarehousePortQualify (p : Fin 4) (o : ExpanderObs) (s : State) : Out :=
  whenever (decide (5 ≤ s.sec.phase) && decide (bootStageOf s < 7) && !s.sec.halted) (qualify s p.val o) s

/-- A port in use fails: its accesses return poison from now on, and source 0x31 is raised or recorded (R374, R472). -/
def execWarehouseLinkFailure (p : Fin 4) (s : State) : Out :=
  let (u, n) := (p.val / 2, p.val % 2)
  whenever (whseInUse s p.val) (fatal (fput s (F.whsePortState u n) 4) 0x31 u n) s

end Sys2Proof.Machine
end

