-- ==== Sys2Proof/Machine/Service.lean ====
section
/-! DEFINITION. The polls of the Harbourmaster, the service commands, the signing engine, optical engines and the Ballast
levels (R365, R350, R429, R430, R432, R453, R454, R459 to R468). -/

namespace Sys2Proof.Machine

def setSvc (s : State) (x : Svc) : State := { s with svc := x }

/-! The answer (R462). -/

def runningOf (s : State) (f : Bundle → Nat) : Nat :=
  match s.sec.running with
  | some b => f b
  | none => 0

/-- Status page bytes 0x400 to 0x42F. -/
def svcBytes (s : State) : List Byte :=
  bytesOfNat 4 s.svc.acked.toNat ++ bytesOfNat 1 s.svc.result ++ bytesOfNat 1 s.svc.cmd ++ bytesOfNat 2 s.svc.detail ++
  bytesOfNat 8 s.svc.doneAt ++ bytesOfNat 8 (runningOf s (fun b => b.version.toNat)) ++ bytesOfNat 8 (runningOf s (fun b => b.rcompat.toNat)) ++
  bytesOfNat 4 (runningOf s (fun b => b.svn)) ++ bytesOfNat 4 (fuseCount s) ++
  bytesOfNat 8 (match s.sec.pending with | some p => p.1.version.toNat | none => 0)

def writeSvc (s : State) : State := writeBytes s (statusPage + 0x400) (svcBytes s)

/-! The request (R459). -/

def svSeq (p : List Byte) : BitVec 32 := BitVec.ofNat 32 (at_ p 8 4)
def svCmd (p : List Byte) : Nat := at_ p 4 1
def svAddr (s : State) : Nat := at_ s.svc.page 0x10 8
def svLen (s : State) : Nat := at_ s.svc.page 0x18 8
def svAt (s : State) : Nat := at_ s.svc.page 0x20 8
def svArg (s : State) : Nat := at_ s.svc.page 0x28 8
def svDigest (s : State) : List Byte := (s.svc.page.drop 0x30).take 32

def svValid (p : List Byte) : Bool := decide (at_ p 0 4 = 0x53525859 ∧ shake256 16 (p.take 0xF0) = p.drop 0xF0)

/-- The command being carried out completes with a result (Table 17-10). -/
def finishSvc (s : State) (result detail : Nat) : State :=
  writeSvc (setSvc s { s.svc with
    acked := svSeq s.svc.page, cmd := svCmd s.svc.page, result := result, detail := detail, doneAt := s.tide.now, req := none })

/-- A service command of a code is being carried out. -/
def serving (s : State) (code : Nat) : Bool := decide (s.svc.req = some code)

/-- A command is permitted in the present state (Table 17-9, R461, R463). -/
def svcPermitted (s : State) (code : Nat) : Bool :=
  match code with
  | 1 => betweenJobs s && !stagingBusy s
  | 2 => true
  | 3 => s.sec.pending.isNone
  | 4 => decide (s.job.st = 5) && !stagingBusy s
  | 5 => s.svc.drainPass && decide (stageState s = 2) && ownedBy s .fw
  | 6 => true
  | 7 => true
  | 8 => betweenJobs s && decide (pwrState s = 0)
  | _ => false

/-- [a, a + n) is a range of the populated Hold that touches no reserved area, not the job image and no enabled region
(R461). -/
def svcAddrOk (s : State) (a n : Nat) : Bool :=
  decide (windowOf a = .hold) && populatedRange s a n && !touchesReserved a n &&
  (decide (s.job.imageBytes = 0) || decide (a + n ≤ s.job.image ∨ s.job.image + s.job.imageBytes ≤ a)) &&
  !touchesRegion s 0 a n && !touchesRegion s 1 a n

/-! The polls (R365, R350, R459). -/

/-- Permitted launch states (Table 13-4). -/
def launchPermitted (s : State) (code : Nat) : Bool :=
  match code with
  | 1 => betweenJobs s
  | 2 => decide (s.job.st = 2)
  | 3 => decide (s.job.st = 2 ∨ s.job.st = 3 ∨ s.job.st = 4)
  | 4 => decide (s.job.st = 5)
  | _ => false

/-- A new valid launch page is taken, or refused at once in a state that does not permit it. -/
def pollLaunch (s : State) : State :=
  let p := readBytes s launchArea 256
  if s.job.cmd ≠ none ∨ lpValid p = false ∨ lpSeq p = s.job.acked then s
  else
    let t := { s with job := { s.job with page := p, cmd := some (lpCmd p) } }
    if launchPermitted s (lpCmd p) then t else ack t s.job.st 9 0

/-- The same for the service request; a command of no known code is malformed. -/
def pollService (s : State) : State :=
  let p := readBytes s (switchPage + 0x400) 256
  if s.svc.req ≠ none ∨ svValid p = false ∨ svSeq p = s.svc.acked then s
  else
    let t := setSvc s { s.svc with page := p, req := some (svCmd p) }
    if svCmd p = 0 ∨ 8 < svCmd p then finishSvc t 1 0
    else if svcPermitted s (svCmd p) then t
    else finishSvc t 3 0

/-- A new switch request of a live job: refused with code 0x06 while an earlier switch still holds its slot, else the free
slot is loading (R350, R351). -/
def pollSwitch (s : State) : State :=
  let seq := BitVec.ofNat 32 (readNat s (switchPage + 0x18) 4)
  let after := fget s F.manifestPinAfterSlot
  let free := 1 - after
  if s.job.st ≠ 5 ∨ s.job.switchReq = true ∨ seq = s.job.switchSeq then s
  else if fget s (F.manifestSlotState free) = 3 then setJob s { s.job with switchSeq := seq, switchCode := 6 }
  else setJob (fput s (F.manifestSlotState free) 1)
    { s.job with switchSeq := seq, switchReq := true, switchPage := readBytes s switchPage 64 }

/-- The pages are loaded by the Harbourmaster's Tug, which consumes poison (R381). -/
def execLaunchPagePoll (s : State) : Out :=
  let t := consumeRange (consumeRange s launchArea 256 2 false 0 0) switchPage 0x500 2 false 0 0
  whenever (atMultiple s 1000 && decide (bootStageOf s = 7) && decide (pwrState s < 4))
    (pollSwitch (pollService (pollLaunch t))) s

/-! HALL, ATTEST and the drains (R460). -/

def execHall (s : State) : Out :=
  let a := svAddr s
  let r := readBytes s a 288
  let c := commitHall s r
  let t := setSec c.1 { c.1.sec with engine := c.1.sec.engine ++ [.flashWrite configArea r] }
  whenever (serving s 1)
    (if !svcAddrOk s a 288 then finishSvc s 4 0
     else if digest r ≠ svDigest s then finishSvc s 2 0
     else if !hallForm r then finishSvc s 1 0
     else if c.2 = 0 then finishSvc t 0 0
     else finishSvc c.1 8 c.2) s

/-- The report is asked of the signing engine (R453). -/
def execAttest (s : State) : Out :=
  whenever (serving s 2 && !s.sec.engine.any (fun r => match r with | .attest _ _ => true | _ => false))
    (if svLen s < 30304 then finishSvc s 1 0
     else if !svcAddrOk s (svAddr s) (svLen s) then finishSvc s 4 0
     else setSec s { s.sec with engine := s.sec.engine ++ [.attest (svAddr s) (svDigest s)] }) s

/-- Bytes of the pair at o in section 0x03 before its routing settings, and of the whole pair; each pair begins at a
64-byte boundary (DESIGN CHOICE, assumption 15). -/
def pairTable (s : State) (a o : Nat) : Nat := 64 + 16 * im s a (o + 0xC) 4
def pairBytes (s : State) (a o : Nat) : Nat := (pairTable s a o + 272 + 63) / 64 * 64

/-- Offset of pair n. -/
def pairOff (s : State) (a : Nat) : Nat → Nat
  | 0 => (sect s a 3).2
  | n + 1 => pairOff s a n + pairBytes s a (pairOff s a n)

/-- A fallback pair, or the job's own epoch and routing, staged and checked. -/
def stageDrain (s : State) (arg : Nat) : State :=
  let a := s.job.image
  let t := if arg = 0xFE then stageImage s (a + (sect s a 2).2) (imRouting s a)
    else stageImage s (a + pairOff s a arg) (fun k => im s a (pairOff s a arg + pairTable s a (pairOff s a arg) + 8 * k) 8)
  checkImage t

def execSvcDrain (s : State) : Out :=
  let arg := svArg s
  let t := stageDrain s arg
  whenever (serving s 4)
    (if arg ≠ 0xFE ∧ (sect s s.job.image 3).1 ≤ arg then finishSvc s 1 0
     else if stageState t = 2 then finishSvc (setSvc t { t.svc with drainPass := true }) 0 0
     else finishSvc t 8 (fget t F.tideStageStatusFailCode)) s

/-- The en bits that ports hold now and that the staged routing clears (R468). -/
def drainedPorts (s : State) : List (Nat × Nat) :=
  ((List.range 32).filter (fun p => decide (fget s (F.quayExpectEn p) = 1) && decide (routed s (F.quayExpectEn p) = 0))).map (fun p => (p, 1))

def execDrainArm (s : State) : Out :=
  let t := armStage (fput s F.tideCommitAtCommitNs (svAt s)) .fw
  whenever (serving s 5)
    (if stageState t = 4 then
       finishSvc (setSvc t { t.svc with drainPass := false, savedEn := t.svc.savedEn ++ drainedPorts s }) 0 0
     else finishSvc t 8 (fget t F.tideStageStatusFailCode)) s

/-! Firmware update (R463 to R465). -/

def listImage (l : List Byte) : Image := fun i => l.getD i 0

/-- FWUPDATE takes the bundle and asks the engine to verify it. -/
def execFwupdate (s : State) : Out :=
  whenever (serving s 3 && !s.sec.engine.any (fun r => decide (r = .verify ∨ r = .flashRead)))
    (if svLen s < 0x8000 ∨ 0x3000000 < svLen s then finishSvc s 1 0
     else if !svcAddrOk s (svAddr s) (svLen s) then finishSvc s 4 0
     else setSec s { s.sec with received := readBytes s (svAddr s) (svLen s), engine := s.sec.engine ++ [.verify] }) s

/-- The bank that is not running. -/
def otherBank (s : State) : Bool :=
  match s.sec.running with
  | some b => !b.bank
  | none => true

/-- The received bundle with seq set to the running seq plus one. -/
def reseq (s : State) : List Byte :=
  s.sec.received.take 0xC ++ bytesOfNat 4 (runningOf s (fun b => b.seq) + 1) ++ s.sec.received.drop 0x10

/-- A bundle verified: 5 or 6 on a failure, else it is written to the other bank and read back. -/
def verifyReceived (s : State) : State :=
  let b := listImage s.sec.received
  if !(bundleVerified b && runtimeOk b && decide (digest (imBytes b 0x70 64) = digest s.sec.rootKey)) then finishSvc s 5 0
  else if !bundleFused s b then finishSvc s 6 0
  else setSec s { s.sec with engine := s.sec.engine ++ [.flashWrite (bankBase (otherBank s)) (reseq s), .flashRead] }

/-- The new bundle runs from now on (R464, R465). -/
def activateBundle (s : State) (b : Bundle) : State :=
  let s := fput (extendM s 1 b.rtDigest) F.secArbSvn b.svn
  setSec s { s.sec with running := some b, pending := none, advancePending := false }

/-- The bank is read back and checked: an eligible bundle activates at once or is scheduled. -/
def finishUpdate (s : State) : State :=
  let b := toBundle (listImage (reseq s)) (otherBank s)
  let back := flashBytes s (bankBase (otherBank s)) s.sec.received.length
  let t := setSec s { s.sec with received := [] }
  if back ≠ reseq s then finishSvc t 5 0
  else if !(b.inService && decide (runningOf s (fun r => r.rcompat.toNat) = b.rcompat.toNat)) then finishSvc t 7 0
  else if jobLive s then finishSvc (setSec t { t.sec with pending := some (b, BitVec.ofNat 64 (svAt s)) }) 0xB 0
  else finishSvc (activateBundle t b) 0 0

/-- The scheduled bundle activates when slot 0 begins at or after its instant, or once the job has ended (R464). -/
def execFirmwareActivation (s : State) : Out :=
  match s.sec.pending with
  | none => turnedAway s
  | some (b, at_) =>
    let t := activateBundle s b
    whenever (!jobLive s ||
        (decide (fget s F.tideSchedSlot = 0) && decide (s.tide.lastBoundary = some s.tide.now) && decide (at_.toNat ≤ s.tide.now)))
      (writeSvc (if t.svc.result = 0xB then setSvc t { t.svc with result := 0, doneAt := t.tide.now } else t)) s

/-! The signing engine (R453, R454). -/

/-- An attestation report (Table 17-7), signed with fresh randomness. -/
def report (s : State) (nonce : List Byte) : List Byte :=
  let body := bytesOfNat 4 0x54415859 ++ bytesOfNat 2 1 ++ bytesOfNat 2 0 ++ bytesOfNat 8 Config.serial.toNat ++ bytesOfNat 8 s.tide.now ++
    bytesOfNat 4 (fuseCount s) ++ bytesOfNat 4 (runningOf s (fun b => b.svn)) ++ bytesOfNat 8 (runningOf s (fun b => b.rcompat.toNat)) ++
    bytesOfNat 8 (runningOf s (fun b => b.version.toNat)) ++ nonce ++ (List.range 4).flatMap (measBytes s) ++ s.sec.identKey ++
    List.replicate 240 0#8
  body ++ Config.sigSign identitySecret (freeAt s 0) body

/-- What a completed request leaves. -/
def completeRequest (s : State) : EngineReq → State
  | .verify => verifyReceived s
  | .attest a nonce => finishSvc (tookFree (writeBytes s a (report s nonce)) 1) 0 0
  | .flashWrite a bs => putFlash s a bs
  | .flashRead => finishUpdate s

def execSigningEngineRequestComplete (s : State) : Out :=
  match s.sec.engine with
  | [] => turnedAway s
  | r :: rest => .next (completeRequest (setSec s { s.sec with engine := rest }) r)

/-! Optical engines (R466 to R468). -/

def enginePorts (e : Nat) : List Nat := (List.range 4).map (fun k => 4 * e + k)

/-- Every port of the engine is DISABLED, and dark. -/
def engineIdle (s : State) (e : Nat) : Bool := (enginePorts e).all (fun p => decide (portState s p = 6))
def engineDark (s : State) (e : Nat) : Bool := (enginePorts e).all (fun p => !(port s p).lit)

/-- The engine's power is cut and its SERVICE lamp lit. -/
def powerOffEngine (s : State) (e : Nat) : State :=
  setSec s { s.sec with
    enginePower := Tab.set false s.sec.enginePower e false, lampService := Tab.set false s.sec.lampService e true }

/-- ENGINE_OUT finishes once the engine's optics have gone off at slew boundaries. -/
def settleEngineOut (s : State) : State :=
  match s.svc.engineOut with
  | none => s
  | some e =>
    if engineDark s e then finishSvc (powerOffEngine (setSvc s { s.svc with engineOut := none }) e) 0 0 else s

def execEngineOut (s : State) : Out :=
  let e := svArg s
  whenever (serving s 6 && s.svc.engineOut.isNone)
    (if 8 ≤ e then finishSvc s 1 0
     else if !engineIdle s e then finishSvc s 9 0
     else settleEngineOut (setSvc s { s.svc with engineOut := some e })) s

/-- The en bits of an engine's ports restored in the routing group's shadow set; its other settings stay. -/
def stageEn (s : State) (e : Nat) : State :=
  ((enginePorts e).filter (fun p => s.svc.savedEn.any (fun x => decide (x = (p, 1))))).foldl
    (fun s p => stageReg s (0x600200 + 8 * p) (assemble s (regFields (0x600200 + 8 * p)) % 2 ^ 21 + 2 ^ 21)) s

/-- ENGINE_IN: a failed calibration leaves the engine off; else its lamp goes dark and its ports are enabled again. -/
def execEngineIn (serial : Word) (calibrated : Bool) (s : State) : Out :=
  let e := svArg s
  let t := setSec s { s.sec with lampService := Tab.set false s.sec.lampService e false, enginePower := Tab.set false s.sec.enginePower e true }
  let t := setSvc t { t.svc with savedEn := t.svc.savedEn.filter (fun x => !(enginePorts e).contains x.1) }
  let c := firmwareCommit (stageEn (fitEngine { t with svc := s.svc } e serial) e) 1#5
  whenever (serving s 7 && !stagingBusy s)
    (if 8 ≤ e then finishSvc s 1 0
     else if !calibrated then finishSvc s 0xA 0
     else if c.2 = 0 then finishSvc (setSvc c.1 { c.1.svc with savedEn := t.svc.savedEn }) 0 0
     else finishSvc c.1 8 c.2) s

/-- A latch opened with the SERVICE lamp dark: the engine loses power at once (R467). -/
def execEngineLatchOpen (e : Fin 8) (s : State) : Out :=
  whenever (Tab.get false s.sec.enginePower e.val && !Tab.get false s.sec.lampService e.val) (dropEngine s e.val) s

def execStanddown (s : State) : Out := whenever (serving s 8) (startStanddown (finishSvc s 0 0)) s

/-! Ballast levels and optics at a slew boundary (R429, R430). -/

/-- The target of a Crane's level. -/
def levelTarget (s : State) (c : Nat) : Nat :=
  let x := crane s c
  let floor := fget s F.pwrRampFloor
  if pwrState s = 1 ∨ pwrState s = 2 then
    if x.bgLast.isSome && !x.bgBallastOk then floor
    else if x.ballastLast.isSome && decide (floor < x.ballast) then x.ballast else floor
  else 0

/-- One step towards the target; during a hold every Crane keeps its level. -/
def slewLevel (s : State) (c : Nat) : State :=
  let x := crane s c
  let t := levelTarget s c
  if inHold s then s
  else if x.level < t then setCrane s c { x with level := x.level + 1 }
  else if t < x.level then setCrane s c { x with level := x.level - 1 }
  else s

/-- Cranes whose level changes at this boundary. -/
def changing (s : State) : Nat :=
  if inHold s then 0 else ((List.range 16).filter (fun c => decide ((crane s c).level ≠ levelTarget s c))).length

/-- Ports that the remaining sum of 51.4 W lets switch: 48.1 / 15 W for each level step and 11.25 W for each port. -/
def portBudget (n : Nat) : Nat := (77100 - 4810 * n) / 16875

/-- The optics that a port should have: lit unless it is DISABLED, dark in an engine without power. -/
def wantsLight (s : State) (p : Nat) : Bool := decide (portState s p ≠ 6) && Tab.get false s.sec.enginePower (p / 4)

def pendingPorts (s : State) : List Nat := (List.range 32).filter (fun p => decide ((port s p).lit ≠ wantsLight s p))

def switchOptics (s : State) (p : Nat) : State := setPort s p { port s p with lit := wantsLight s p }

/-- PWR_STATE's levels and pending ports. -/
def showLevels (s : State) : State :=
  let ls := (List.range 16).map (fun c => (crane s c).level)
  let lo := ls.foldl (fun a x => if x < a then x else a) 15
  let hi := ls.foldl (fun a x => if a < x then x else a) 0
  let n := (pendingPorts s).length
  fput (fput (fput s F.pwrStateLevelMin lo) F.pwrStateLevelMax hi) F.pwrStatePortsPending (if n < 31 then n else 31)

/-- All level steps and as many optical switches as the sum allows, in port order. -/
def slew (s : State) : State :=
  let k := portBudget (changing s)
  let t := (List.range 16).foldl slewLevel s
  showLevels (((pendingPorts s).take k).foldl switchOptics t)

/-- A slew boundary, taken once at its instant (R23, R430). -/
def execBallastSlewBoundary (s : State) : Out :=
  let t := setSec s { s.sec with lastSlew := some s.tide.now }
  whenever (atMultiple s (fget s F.pwrRampStepUs * 1000) && decide (pwrState s < 4) && decide (s.sec.lastSlew ≠ some s.tide.now))
    (settleEngineOut (endRampDown (settlePass (slew t)))) s

end Sys2Proof.Machine
end

