-- ==== Sys2Proof/Machine/TugDone.lean ====
section
/-! DEFINITION. Tug accesses performed: the data of loads and atomics returned, stores accepted at their coherence point,
the data cache filled (R80, R87 to R91, R282, R284, R285, R381). -/

namespace Sys2Proof.Machine

/-! Order within a thread (R90, R91). -/

/-- Two accesses meet in an 8-byte word. -/
def sameWord (a b : Access) : Bool :=
  decide (a.addr / 8 ≤ (b.addr + accBytes b.kind - 1) / 8 ∧ b.addr / 8 ≤ (a.addr + accBytes a.kind - 1) / 8)

/-- An earlier access of the same thread must be performed first: both address control space, or one word. A prefetch stands in no
order. -/
def before (a b : Access) : Bool :=
  decide (a.t = b.t) && !isPrefetch a.kind && !isPrefetch b.kind &&
    ((decide (windowOf a.addr = .control) && decide (windowOf b.addr = .control)) || sameWord a b)

/-- The accesses that entered the slots before slot k. -/
def earlierThan (k : Nat) (sl : List (Nat × Access)) : List Access := (sl.takeWhile (fun p => decide (p.1 ≠ k))).map (·.2)

/-- The access of slot k may be performed now. -/
def inTurn (k : Nat) (sl : List (Nat × Access)) (b : Access) : Bool := (earlierThan k sl).all (fun a => !before a b)

def slotAccess (s : State) (tug k : Nat) : Option Access :=
  ((core s tug).slots.find? (fun p => decide (p.1 = k))).map (·.2)

/-- A slot released (R282). -/
def freeTheSlot (s : State) (tug k : Nat) : State :=
  let c := core s tug
  setCore s tug { c with slots := c.slots.filter (fun p => decide (p.1 ≠ k)) }

/-- The agent of a thread's control-space access. -/
def agentOf (s : State) (t : Nat) : Agent := if (thread s t).fw then .fw else .job (Fin.ofNat 512 t)

/-! The data cache (R65, R89, R284, R285). -/

/-- Lines that 64 KiB hold. -/
def dcacheLines : Nat := 512

/-- A line enters the data cache; the line used longest ago leaves a full one. -/
def fillDCache (c : Core) (l : Nat) (x : BitVec 1024) : Core :=
  { c with dcache := ((l, x) :: c.dcache.filter (fun p => decide (p.1 ≠ l))).take dcacheLines }

/-- A store of this core to the line is outstanding. -/
def storePending (s : State) (tug l : Nat) : Bool :=
  (core s tug).slots.any (fun p => isStoreLike p.2.kind && decide (lineOf p.2.addr = l))

/-- The line may enter the cache: Hold or Warehouse, not poisoned, no store of this core to it outstanding. -/
def cacheable (s : State) (tug l : Nat) : Bool :=
  (decide (windowOf (l * 128) = .hold) || decide (windowOf (l * 128) = .whse)) && !poisoned s (l * 128) && !storePending s tug l

def fillLine (s : State) (tug l : Nat) : State :=
  if cacheable s tug l then setCore s tug (fillDCache (core s tug) l (memLine s l)) else s

/-- A prefetched line lies in the declared region of the demand access: one enabled region of a job thread that covers the
line's whole page, or the populated Hold and Warehouse. -/
def prefetchIn (s : State) (t l from_ : Nat) : Bool :=
  let page := l * 128 / 4096 * 4096
  populatedRange s page 4096 && decide (windowOf (l * 128) = windowOf (from_ * 128)) &&
  ((thread s t).fw || (List.range 16).any (fun n =>
    regionGrants s (dieOfThread t) .read page 4096 n && regionGrants s (dieOfThread t) .read (from_ * 128) 128 n))

/-- One prefetch: dropped at a region or page edge, for lack of slots or by the cap, or issued with a slot of its own (R284,
R285). -/
def prefetch (s : State) (t l from_ : Nat) (home : Bool) : State :=
  let k := tugOf t
  let c := core s k
  if !prefetchIn s t l from_ then countEvent s 1 k 7 1 (t % 4)
  else if 35 < c.slots.length ∨ admits s t (l * 128) = false then countEvent s 1 k 6 1 (t % 4)
  else setCore (countEvent s 1 k 5 1 (t % 4)) k
    { c with slots := c.slots ++ [(freeSlot c.slots, ⟨t, .prefetch home, l * 128, 0, 0, 0⟩)] }

def prefetches (s : State) (t l : Nat) : Nat → State
  | 0 => s
  | n + 1 => prefetch (prefetches s t l n) t (l + n + 1) l false

/-! The home cache's own prefetcher (R284). -/

def strideKey (s : State) (t a : Nat) : Nat := homeDie s a * 512 + t

/-- The thread's accesses as the home cache sees them, one further. -/
def nextStride (x : Stride) (a : Nat) : Stride :=
  let d := (a : Int) - (x.last : Int)
  ⟨a, d, if d = x.step then x.times + 1 else 1⟩

/-- The lines n strides ahead of an address, the nearest first. -/
def strideLines (a : Nat) (d : Int) (n : Nat) : List Nat :=
  (((List.range n).map (fun i : Nat => lineOf ((a : Int) + d * ((i + 1 : Nat) : Int)).toNat)).filter
    (fun l => decide (l ≠ lineOf a))).eraseDups

/-- A stride seen three times in a row is fetched ahead along: over how many strides is free (assumption 84). -/
def strideAhead (s : State) (t a : Nat) : State :=
  let x := nextStride (Tab.get {} s.strides (strideKey s t a)) a
  let s := { s with strides := Tab.set {} s.strides (strideKey s t a) x }
  if x.step ≠ 0 ∧ 3 ≤ x.times then
    (strideLines a x.step (1 + (freeAt s 0).toNat % 36)).foldl (fun u l =>
      if hcHas u (l * 128) then u else prefetch u t l (lineOf a) true) (tookFree s 1)
  else s

/-- A thread's access at its home cache. -/
def homeAccess (s : State) (t a : Nat) (write : Bool) : State :=
  if hasHome a then strideAhead (hcAccess s a write true) t a else s

/-- A demand miss of a thread on line l: it fills, and after a miss on the line below the next one to four are fetched. -/
def missOn (s : State) (t l : Nat) : State :=
  let s := fillLine (countEvent s 1 (tugOf t) 3 1 (t % 4)) (tugOf t) l
  let ahead := (thread s t).lastMiss = some (l - 1) ∧ l ≠ 0
  let n := if ahead then 1 + (freeAt s 0).toNat % 4 else 0
  let s := setThread s t { thread s t with lastMiss := some l }
  if ahead then tookFree (prefetches s t l n) 1 else s

/-! Loads. -/

/-- What a load finds: control registers, or bytes of memory, a poisoned byte being free. -/
def loaded (s : State) (a : Access) : Nat :=
  if windowOf a.addr = .control then
    let fw := (thread s a.t).fw
    match a.kind with
    | .vload => (List.range 4).foldl (fun v i => v + ctlLoad s fw (a.addr - ctlBase + 8 * i) 8 i * 2 ^ (64 * i)) 0
    | k => ctlLoad s fw (a.addr - ctlBase) (accBytes k) 0
  else srcNat s a.addr (accBytes a.kind)

/-- The thread that waited on this register of Warehouse data becomes READY (R71). -/
def wakeReader (s : State) (a : Access) : State :=
  match (thread s a.t).waitOn with
  | some (.warehouse simd r) =>
    if simd = isSimd a.kind ∧ r = a.rd ∧ (thread s a.t).st = .wait then makeReady s a.t else s
  | _ => s

/-- Poison read by a Tug is consumed outside containment; the free values of its bytes, and of CXL registers, are taken. -/
def tugConsume (s : State) (a : Access) : State :=
  if decide (windowOf a.addr = .control) && isCxlBlock (a.addr - ctlBase) then tookFree s 4
  else if windowOf a.addr ≠ .control ∧ poisonedRange s a.addr (accBytes a.kind) = true then
    consumeRange (spendFree s) a.addr (accBytes a.kind) 2 false (dieOfThread a.t) (tugOf a.t % 64)
  else s

/-! Atomics (R80). -/

/-- The combined value of an atomic of w bits. -/
def amoResult (op : AmoOp) (w : Nat) (old new cmp : Nat) : Nat :=
  let so := signedElem w old
  let sn := signedElem w new
  match op with
  | .swap => new
  | .add => (old + new) % 2 ^ w
  | .and => old &&& new
  | .or => old ||| new
  | .max => if sn < so then old else new
  | .min => if so < sn then old else new
  | .maxu => if new < old then old else new
  | .minu => if old < new then old else new
  | .cas => if old = cmp then new else old

/-- An atomic writes its result; cas writes only on equality. -/
def amoWrite (s : State) (a : Access) (old : Nat) : State :=
  match a.kind with
  | .amo op sz _ =>
    let b := if sz = .w then 4 else 8
    let new := a.data.toNat % 2 ^ (8 * b)
    let cmp := a.cmp.toNat % 2 ^ (8 * b)
    if op = .cas ∧ old ≠ cmp then s else writeNat s a.addr b (amoResult op (8 * b) old new cmp)
  | _ => s

/-- Events of a memory access at its coherence point. -/
def countAtomic (s : State) (a : Access) : State :=
  if isAtomic a.kind && (decide (windowOf a.addr = .hold) || decide (windowOf a.addr = .whse)) then
    countEvent s 5 (hcBank s a.addr) 6 1 0
  else s

/-- Tier of an access by a thread (Table 15-5). -/
def tierOf (s : State) (t a : Nat) : Nat :=
  match windowOf a with
  | .berth => if homeDie s a = dieOfThread t then 2 else 3
  | .hold => if hcHas s a then 4 else 5
  | .whse => if hcHas s a then 4 else 6
  | .control => 7
  | .nowhere => 0

/-- A completed Tug load is an item of measure 0 (Table 15-4), of the tier that served it. -/
def countLoad (s : State) (a : Access) (tier : Nat) : State :=
  if isAtomic a.kind then s else countLatency s 0 (tugOf a.t) tier

/-- A load's line may enter the data cache; an atomic's may not (R80, R89). -/
def fillFor (s : State) (a : Access) : State :=
  if isAtomic a.kind || !(decide (windowOf a.addr = .hold) || decide (windowOf a.addr = .whse)) then s
  else missOn s a.t (lineOf a.addr)

/-- The fence after an acquiring atomic completes once no load of the thread is outstanding: the data cache is invalidated and
later accesses may issue (Tables 03-8, 03-13). -/
def acquireAmo (s : State) (a : Access) : State :=
  if (thread s a.t).acq && loadsDone s a.t then
    acquire (setThread s a.t { thread s a.t with acq := false }) a.t
  else s

/-- The access of slot k returns its data. -/
def returnData (s : State) (tug k : Nat) (a : Access) : State :=
  let x := loaded s a
  let t := amoWrite (countAtomic (homeAccess (freeTheSlot s tug k) a.t a.addr (isAtomic a.kind)) a) a x
  let t := wakeReader (writeDest (acquireAmo (fillFor t a) a) a x) a
  tugConsume (countLoad t a (tierOf s a.t a.addr)) a

/-- The line of a prefetch arrives at the home cache, and in the data cache when it was one of its own. -/
def returnPrefetch (s : State) (tug k : Nat) (home : Bool) (a : Access) : State :=
  let t := hcAccess (freeTheSlot s tug k) a.addr false true
  if home then t else fillLine t tug (lineOf a.addr)

def execLoadDataReturn (tug : Fin 128) (slot : Nat) (errs : List MemErr) (s : State) : Out :=
  match slotAccess s tug.val slot with
  | some a =>
    match a.kind with
    | .prefetch home => .next (returnPrefetch (meetErrors s errs) tug.val slot home a)
    | _ => whenever (isLoadLike a.kind && inTurn slot (core s tug.val).slots a) (returnData (meetErrors s errs) tug.val slot a) s
  | none => turnedAway s

/-! Stores. -/

/-- The control-space writes of a store: one register, or four for vst. -/
def storeAccs (a : Access) : List CtlAcc :=
  match a.kind with
  | .vstore => (List.range 4).map (fun i =>
      ctlAcc (a.addr - ctlBase + 8 * i) 8 (a.data.toNat / 2 ^ (64 * i) % 2 ^ 64) 0 0)
  | k => [ctlAcc (a.addr - ctlBase) (accBytes k) a.data.toNat 0 0]

/-- The store waits at a control register. -/
def storeHeld (s : State) (a : Access) : Bool :=
  decide (windowOf a.addr = .control) && (storeAccs a).any (ctlHeld s (agentOf s a.t))

/-- The store takes effect at its coherence point or its register. -/
def performStore (s : State) (a : Access) : State :=
  if windowOf a.addr = .control then (storeAccs a).foldl (fun s w => ctlWrite s (agentOf s a.t) w) s
  else writeNat s a.addr (accBytes a.kind) a.data.toNat

def execStorePerformed (tug : Fin 128) (slot : Nat) (s : State) : Out :=
  match slotAccess s tug.val slot with
  | some a =>
    whenever (isStoreLike a.kind && !isLoadLike a.kind && inTurn slot (core s tug.val).slots a && !storeHeld s a)
      (performStore (homeAccess (freeTheSlot s tug.val slot) a.t a.addr true) a) s
  | none => turnedAway s

end Sys2Proof.Machine
end

