-- ==== Sys2Proof/Machine/Dispatch.lean ====
section
/-! DEFINITION. One arm per command. -/

namespace Sys2Proof.Machine

def exec (i : Instr) (s : State) : Host.Outcome State Fault Refusal :=
  match i with
  | .registerWrite who off bytes value hwSet hwClear => Sys2Proof.Machine.execRegisterWrite who off bytes value hwSet hwClear s
  | .acquireEntry port parentTime parentHops => Sys2Proof.Machine.execAcquireEntry port parentTime parentHops s
  | .steerUpdate offset => Sys2Proof.Machine.execSteerUpdate offset s
  | .parentLinkFail port => Sys2Proof.Machine.execParentLinkFail port s
  | .tideLoss => Sys2Proof.Machine.execTideLoss s
  | .referenceLoss which standbyValid => Sys2Proof.Machine.execReferenceLoss which standbyValid s
  | .referenceRestored => Sys2Proof.Machine.execReferenceRestored s
  | .lighthouseTimeCellTimeout => Sys2Proof.Machine.execLighthouseTimeCellTimeout s
  | .lighthouseHandover => Sys2Proof.Machine.execLighthouseHandover s
  | .ptpMessageReceive valid tai => Sys2Proof.Machine.execPtpMessageReceive valid tai s
  | .timeCellSend port => Sys2Proof.Machine.execTimeCellSend port s
  | .timeCellReceive port wire fec rxPs => Sys2Proof.Machine.execTimeCellReceive port wire fec rxPs s
  | .slotBoundary => Sys2Proof.Machine.execSlotBoundary s
  | .quayTx port => Sys2Proof.Machine.execQuayTx port s
  | .quayRx port => Sys2Proof.Machine.execQuayRx port s
  | .barge b => Sys2Proof.Machine.execBarge b s
  | .craneBg c => Sys2Proof.Machine.execCraneBg c s
  | .ballast c => Sys2Proof.Machine.execBallast c s
  | .marker => Sys2Proof.Machine.execMarker s
  | .dropRecordFinal => Sys2Proof.Machine.execDropRecordFinal s
  | .entryLateStart kind unit => Sys2Proof.Machine.execEntryLateStart kind unit s
  | .holdRequestRaise kind unit stream predicted => Sys2Proof.Machine.execHoldRequestRaise kind unit stream predicted s
  | .holdCellReceive port wire fec => Sys2Proof.Machine.execHoldCellReceive port wire fec s
  | .holdLatch => Sys2Proof.Machine.execHoldLatch s
  | .holdStart => Sys2Proof.Machine.execHoldStart s
  | .holdEnd => Sys2Proof.Machine.execHoldEnd s
  | .shadowWrite off value => Sys2Proof.Machine.execShadowWrite off value s
  | .stageCheck who groups => Sys2Proof.Machine.execStageCheck who groups s
  | .stageCheckComplete => Sys2Proof.Machine.execStageCheckComplete s
  | .stageArm who => Sys2Proof.Machine.execStageArm who s
  | .stageAbort who => Sys2Proof.Machine.execStageAbort who s
  | .stageCommit => Sys2Proof.Machine.execStageCommit s
  | .ill t cause => Sys2Proof.Machine.execIll t cause s
  | .programFaultEnd f => Sys2Proof.Machine.execProgramFaultEnd f s
  | .add t rd ra rb => Sys2Proof.Machine.execAdd t rd ra rb s
  | .sub t rd ra rb => Sys2Proof.Machine.execSub t rd ra rb s
  | .and t rd ra rb => Sys2Proof.Machine.execAnd t rd ra rb s
  | .or t rd ra rb => Sys2Proof.Machine.execOr t rd ra rb s
  | .xor t rd ra rb => Sys2Proof.Machine.execXor t rd ra rb s
  | .sll t rd ra rb => Sys2Proof.Machine.execSll t rd ra rb s
  | .srl t rd ra rb => Sys2Proof.Machine.execSrl t rd ra rb s
  | .sra t rd ra rb => Sys2Proof.Machine.execSra t rd ra rb s
  | .slt t rd ra rb => Sys2Proof.Machine.execSlt t rd ra rb s
  | .sltu t rd ra rb => Sys2Proof.Machine.execSltu t rd ra rb s
  | .min t rd ra rb => Sys2Proof.Machine.execMin t rd ra rb s
  | .max t rd ra rb => Sys2Proof.Machine.execMax t rd ra rb s
  | .minu t rd ra rb => Sys2Proof.Machine.execMinu t rd ra rb s
  | .maxu t rd ra rb => Sys2Proof.Machine.execMaxu t rd ra rb s
  | .mul t rd ra rb => Sys2Proof.Machine.execMul t rd ra rb s
  | .mulh t rd ra rb => Sys2Proof.Machine.execMulh t rd ra rb s
  | .mulhu t rd ra rb => Sys2Proof.Machine.execMulhu t rd ra rb s
  | .div t rd ra rb => Sys2Proof.Machine.execDiv t rd ra rb s
  | .divu t rd ra rb => Sys2Proof.Machine.execDivu t rd ra rb s
  | .rem t rd ra rb => Sys2Proof.Machine.execRem t rd ra rb s
  | .remu t rd ra rb => Sys2Proof.Machine.execRemu t rd ra rb s
  | .addw t rd ra rb => Sys2Proof.Machine.execAddw t rd ra rb s
  | .subw t rd ra rb => Sys2Proof.Machine.execSubw t rd ra rb s
  | .clz t rd ra => Sys2Proof.Machine.execClz t rd ra s
  | .ctz t rd ra => Sys2Proof.Machine.execCtz t rd ra s
  | .popc t rd ra => Sys2Proof.Machine.execPopc t rd ra s
  | .addi t rd ra imm => Sys2Proof.Machine.execAddi t rd ra imm s
  | .andi t rd ra imm => Sys2Proof.Machine.execAndi t rd ra imm s
  | .ori t rd ra imm => Sys2Proof.Machine.execOri t rd ra imm s
  | .xori t rd ra imm => Sys2Proof.Machine.execXori t rd ra imm s
  | .slti t rd ra imm => Sys2Proof.Machine.execSlti t rd ra imm s
  | .shi t rd ra imm => Sys2Proof.Machine.execShi t rd ra imm s
  | .lui t rd imm => Sys2Proof.Machine.execLui t rd imm s
  | .lsh16 t rd ra imm => Sys2Proof.Machine.execLsh16 t rd ra imm s
  | .ld t rd ra imm => Sys2Proof.Machine.execLd t rd ra imm s
  | .lw t rd ra imm => Sys2Proof.Machine.execLw t rd ra imm s
  | .lwu t rd ra imm => Sys2Proof.Machine.execLwu t rd ra imm s
  | .lh t rd ra imm => Sys2Proof.Machine.execLh t rd ra imm s
  | .lhu t rd ra imm => Sys2Proof.Machine.execLhu t rd ra imm s
  | .lb t rd ra imm => Sys2Proof.Machine.execLb t rd ra imm s
  | .lbu t rd ra imm => Sys2Proof.Machine.execLbu t rd ra imm s
  | .sd t rs ra imm => Sys2Proof.Machine.execSd t rs ra imm s
  | .sw t rs ra imm => Sys2Proof.Machine.execSw t rs ra imm s
  | .sh t rs ra imm => Sys2Proof.Machine.execSh t rs ra imm s
  | .sb t rs ra imm => Sys2Proof.Machine.execSb t rs ra imm s
  | .amoswap t rd ra rb sz aq rl => Sys2Proof.Machine.execAmoswap t rd ra rb sz aq rl s
  | .amoadd t rd ra rb sz aq rl => Sys2Proof.Machine.execAmoadd t rd ra rb sz aq rl s
  | .amoand t rd ra rb sz aq rl => Sys2Proof.Machine.execAmoand t rd ra rb sz aq rl s
  | .amoor t rd ra rb sz aq rl => Sys2Proof.Machine.execAmoor t rd ra rb sz aq rl s
  | .amomax t rd ra rb sz aq rl => Sys2Proof.Machine.execAmomax t rd ra rb sz aq rl s
  | .amomin t rd ra rb sz aq rl => Sys2Proof.Machine.execAmomin t rd ra rb sz aq rl s
  | .amomaxu t rd ra rb sz aq rl => Sys2Proof.Machine.execAmomaxu t rd ra rb sz aq rl s
  | .amominu t rd ra rb sz aq rl => Sys2Proof.Machine.execAmominu t rd ra rb sz aq rl s
  | .amocas t rd ra rb sz aq rl => Sys2Proof.Machine.execAmocas t rd ra rb sz aq rl s
  | .beq t ra rb imm => Sys2Proof.Machine.execBeq t ra rb imm s
  | .bne t ra rb imm => Sys2Proof.Machine.execBne t ra rb imm s
  | .blt t ra rb imm => Sys2Proof.Machine.execBlt t ra rb imm s
  | .bge t ra rb imm => Sys2Proof.Machine.execBge t ra rb imm s
  | .bltu t ra rb imm => Sys2Proof.Machine.execBltu t ra rb imm s
  | .bgeu t ra rb imm => Sys2Proof.Machine.execBgeu t ra rb imm s
  | .j t imm => Sys2Proof.Machine.execJ t imm s
  | .jal t imm => Sys2Proof.Machine.execJal t imm s
  | .jalr t rd ra imm => Sys2Proof.Machine.execJalr t rd ra imm s
  | .fadd t sz rd ra rb => Sys2Proof.Machine.execFadd t sz rd ra rb s
  | .fsub t sz rd ra rb => Sys2Proof.Machine.execFsub t sz rd ra rb s
  | .fmul t sz rd ra rb => Sys2Proof.Machine.execFmul t sz rd ra rb s
  | .fdiv t sz rd ra rb => Sys2Proof.Machine.execFdiv t sz rd ra rb s
  | .fsqrt t sz rd ra => Sys2Proof.Machine.execFsqrt t sz rd ra s
  | .fmin t sz rd ra rb => Sys2Proof.Machine.execFmin t sz rd ra rb s
  | .fmax t sz rd ra rb => Sys2Proof.Machine.execFmax t sz rd ra rb s
  | .fmadd t sz rd ra rb => Sys2Proof.Machine.execFmadd t sz rd ra rb s
  | .fcvtSD t rd ra => Sys2Proof.Machine.execFcvtSD t rd ra s
  | .fcvtDS t rd ra => Sys2Proof.Machine.execFcvtDS t rd ra s
  | .fcvtLD t rd ra => Sys2Proof.Machine.execFcvtLD t rd ra s
  | .fcvtDL t rd ra => Sys2Proof.Machine.execFcvtDL t rd ra s
  | .fcvtBfS t rd ra => Sys2Proof.Machine.execFcvtBfS t rd ra s
  | .feqD t rd ra rb => Sys2Proof.Machine.execFeqD t rd ra rb s
  | .fltD t rd ra rb => Sys2Proof.Machine.execFltD t rd ra rb s
  | .fleD t rd ra rb => Sys2Proof.Machine.execFleD t rd ra rb s
  | .vadd o => Sys2Proof.Machine.execVadd o s
  | .vsub o => Sys2Proof.Machine.execVsub o s
  | .vmul o => Sys2Proof.Machine.execVmul o s
  | .vfma o => Sys2Proof.Machine.execVfma o s
  | .vmin o => Sys2Proof.Machine.execVmin o s
  | .vmax o => Sys2Proof.Machine.execVmax o s
  | .vdiv o => Sys2Proof.Machine.execVdiv o s
  | .vsqrt o => Sys2Proof.Machine.execVsqrt o s
  | .vand o => Sys2Proof.Machine.execVand o s
  | .vor o => Sys2Proof.Machine.execVor o s
  | .vxor o => Sys2Proof.Machine.execVxor o s
  | .vshl o => Sys2Proof.Machine.execVshl o s
  | .vshr o => Sys2Proof.Machine.execVshr o s
  | .vsra o => Sys2Proof.Machine.execVsra o s
  | .vceq o => Sys2Proof.Machine.execVceq o s
  | .vclt o => Sys2Proof.Machine.execVclt o s
  | .vcle o => Sys2Proof.Machine.execVcle o s
  | .vsel o => Sys2Proof.Machine.execVsel o s
  | .vredadd o => Sys2Proof.Machine.execVredadd o s
  | .vredmax o => Sys2Proof.Machine.execVredmax o s
  | .vcvt o => Sys2Proof.Machine.execVcvt o s
  | .vpack8e o => Sys2Proof.Machine.execVpack8e o s
  | .vpack8g o => Sys2Proof.Machine.execVpack8g o s
  | .vpack8gs o => Sys2Proof.Machine.execVpack8gs o s
  | .vunpack8e o => Sys2Proof.Machine.execVunpack8e o s
  | .vunpack8g o => Sys2Proof.Machine.execVunpack8g o s
  | .vperm o => Sys2Proof.Machine.execVperm o s
  | .vbcast o => Sys2Proof.Machine.execVbcast o s
  | .vext o => Sys2Proof.Machine.execVext o s
  | .vld t vd ra imm => Sys2Proof.Machine.execVld t vd ra imm s
  | .vst t vs ra imm => Sys2Proof.Machine.execVst t vs ra imm s
  | .rdsr t rd imm => Sys2Proof.Machine.execRdsr t rd imm s
  | .wrsr t ra imm => Sys2Proof.Machine.execWrsr t ra imm s
  | .fence t imm => Sys2Proof.Machine.execFence t imm s
  | .tidewait t ra => Sys2Proof.Machine.execTidewait t ra s
  | .slotwait t ra => Sys2Proof.Machine.execSlotwait t ra s
  | .yield t => Sys2Proof.Machine.execYield t s
  | .halt t => Sys2Proof.Machine.execHalt t s
  | .tstart t ra rb => Sys2Proof.Machine.execTstart t ra rb s
  | .tstop t ra => Sys2Proof.Machine.execTstop t ra s
  | .cissue t rd ra rb => Sys2Proof.Machine.execCissue t rd ra rb s
  | .cwait t ra rb => Sys2Proof.Machine.execCwait t ra rb s
  | .cqdepth t rd ra => Sys2Proof.Machine.execCqdepth t rd ra s
  | .tidewaitComplete t => Sys2Proof.Machine.execTidewaitComplete t s
  | .slotwaitComplete t => Sys2Proof.Machine.execSlotwaitComplete t s
  | .cwaitComplete t => Sys2Proof.Machine.execCwaitComplete t s
  | .cissueAccept t => Sys2Proof.Machine.execCissueAccept t s
  | .loadDataReturn tug slot errs => Sys2Proof.Machine.execLoadDataReturn tug slot errs s
  | .storePerformed tug slot => Sys2Proof.Machine.execStorePerformed tug slot s
  | .fetchMissFill t errs => Sys2Proof.Machine.execFetchMissFill t errs s
  | .requestSlotFree t => Sys2Proof.Machine.execRequestSlotFree t s
  | .timesliceExpiry t => Sys2Proof.Machine.execTimesliceExpiry t s
  | .commandWordArrival c => Sys2Proof.Machine.execCommandWordArrival c s
  | .craneCommandIssue c q => Sys2Proof.Machine.execCraneCommandIssue c q s
  | .craneDescriptorArrival c q errs => Sys2Proof.Machine.execCraneDescriptorArrival c q errs s
  | .mma c q => Sys2Proof.Machine.execMma c q s
  | .gather c q => Sys2Proof.Machine.execGather c q s
  | .spill c q => Sys2Proof.Machine.execSpill c q s
  | .zero c q => Sys2Proof.Machine.execZero c q s
  | .loadacc c q => Sys2Proof.Machine.execLoadacc c q s
  | .drain c q => Sys2Proof.Machine.execDrain c q s
  | .topk c q => Sys2Proof.Machine.execTopk c q s
  | .rootns c => Sys2Proof.Machine.execRootns c s
  | .chol c => Sys2Proof.Machine.execChol c s
  | .pivot c q => Sys2Proof.Machine.execPivot c q s
  | .mark c q => Sys2Proof.Machine.execMark c q s
  | .drainInterlockRelease c bank => Sys2Proof.Machine.execDrainInterlockRelease c bank s
  | .automaticSpill c q => Sys2Proof.Machine.execAutomaticSpill c q s
  | .craneRetire c q => Sys2Proof.Machine.execCraneRetire c q s
  | .bank1Release c => Sys2Proof.Machine.execBank1Release c s
  | .bgListFetch c => Sys2Proof.Machine.execBgListFetch c s
  | .actTableWrite who c slot n value => Sys2Proof.Machine.execActTableWrite who c slot n value s
  | .actTableWriteRelease c slot => Sys2Proof.Machine.execActTableWriteRelease c slot s
  | .factorMerge o => Sys2Proof.Machine.execFactorMerge o s
  | .refreshCycleStart layer step places => Sys2Proof.Machine.execRefreshCycleStart layer step places s
  | .rootBankSwap layer => Sys2Proof.Machine.execRootBankSwap layer s
  | .solveRetry layer slot => Sys2Proof.Machine.execSolveRetry layer slot s
  | .sketchRoot layer g => Sys2Proof.Machine.execSketchRoot layer g s
  | .diagonalRoot layer g => Sys2Proof.Machine.execDiagonalRoot layer g s
  | .gpack o => Sys2Proof.Machine.execGpack o s
  | .update o => Sys2Proof.Machine.execUpdate o s
  | .emit o => Sys2Proof.Machine.execEmit o s
  | .ledgerUpdRelease die => Sys2Proof.Machine.execLedgerUpdRelease die s
  | .updateOpRetire die => Sys2Proof.Machine.execUpdateOpRetire die s
  | .ledgerFlip index => Sys2Proof.Machine.execLedgerFlip index s
  | .flipPerformed => Sys2Proof.Machine.execFlipPerformed s
  | .bargeStart who die stream b => Sys2Proof.Machine.execBargeStart who die stream b s
  | .bargeStartRelease b => Sys2Proof.Machine.execBargeStartRelease b s
  | .bargeStreamStart b errs => Sys2Proof.Machine.execBargeStreamStart b errs s
  | .bargeGatePoll b errs => Sys2Proof.Machine.execBargeGatePoll b errs s
  | .bargeStreamComplete b => Sys2Proof.Machine.execBargeStreamComplete b s
  | .patrolScrub die corrected uncorrectable => Sys2Proof.Machine.execPatrolScrub die corrected uncorrectable s
  | .holdRemap die page => Sys2Proof.Machine.execHoldRemap die page s
  | .storageReadComplete b read ok data => Sys2Proof.Machine.execStorageReadComplete b read ok data s
  | .storageReadTimeout b read => Sys2Proof.Machine.execStorageReadTimeout b read s
  | .hostMemRead hpa len errs => Sys2Proof.Machine.execHostMemRead hpa len errs s
  | .hostMemWrite hpa data poisoned => Sys2Proof.Machine.execHostMemWrite hpa data poisoned s
  | .hdmDecoderCommit base => Sys2Proof.Machine.execHdmDecoderCommit base s
  | .hostLinkReset => Sys2Proof.Machine.execHostLinkReset s
  | .identifyMemoryDevice => Sys2Proof.Machine.execIdentifyMemoryDevice s
  | .getSupportedLogs => Sys2Proof.Machine.execGetSupportedLogs s
  | .getLog => Sys2Proof.Machine.execGetLog s
  | .getHealthInfo => Sys2Proof.Machine.execGetHealthInfo s
  | .getEventRecords => Sys2Proof.Machine.execGetEventRecords s
  | .clearEventRecords => Sys2Proof.Machine.execClearEventRecords s
  | .getTimestamp => Sys2Proof.Machine.execGetTimestamp s
  | .setTimestamp ts => Sys2Proof.Machine.execSetTimestamp ts s
  | .unsupportedMailboxCommand opcode => Sys2Proof.Machine.execUnsupportedMailboxCommand opcode s
  | .warehousePortQualify p o => Sys2Proof.Machine.execWarehousePortQualify p o s
  | .warehouseLinkFailure p => Sys2Proof.Machine.execWarehouseLinkFailure p s
  | .portSignalDetect p lanes => Sys2Proof.Machine.execPortSignalDetect p lanes s
  | .trainingComplete p fecLocked => Sys2Proof.Machine.execTrainingComplete p fecLocked s
  | .linkLoss p => Sys2Proof.Machine.execLinkLoss p s
  | .identSend p => Sys2Proof.Machine.execIdentSend p s
  | .identReceive p wire fec => Sys2Proof.Machine.execIdentReceive p wire fec s
  | .laneFault p lane sign spareHealthy => Sys2Proof.Machine.execLaneFault p lane sign spareHealthy s
  | .cellTransmit p => Sys2Proof.Machine.execCellTransmit p s
  | .dataCellReceive p wire fec buffer => Sys2Proof.Machine.execDataCellReceive p wire fec buffer s
  | .linkCellReceive p wire fec => Sys2Proof.Machine.execLinkCellReceive p wire fec s
  | .ackTimeout p => Sys2Proof.Machine.execAckTimeout p s
  | .quayGatePoll p => Sys2Proof.Machine.execQuayGatePoll p s
  | .manifestSwitch o => Sys2Proof.Machine.execManifestSwitch o s
  | .launchPagePoll => Sys2Proof.Machine.execLaunchPagePoll s
  | .prepare o => Sys2Proof.Machine.execPrepare o s
  | .arm => Sys2Proof.Machine.execArm s
  | .abort => Sys2Proof.Machine.execAbort s
  | .endCmd => Sys2Proof.Machine.execEndCmd s
  | .launchCommit => Sys2Proof.Machine.execLaunchCommit s
  | .endInstant => Sys2Proof.Machine.execEndInstant s
  | .jobEnded => Sys2Proof.Machine.execJobEnded s
  | .secureGenerationComplete ward step => Sys2Proof.Machine.execSecureGenerationComplete ward step s
  | .partnerConfirmation step => Sys2Proof.Machine.execPartnerConfirmation step s
  | .restoreComplete log before after => Sys2Proof.Machine.execRestoreComplete log before after s
  | .perfSnap => Sys2Proof.Machine.execPerfSnap s
  | .perfClear => Sys2Proof.Machine.execPerfClear s
  | .perfArm action => Sys2Proof.Machine.execPerfArm action s
  | .snapAction => Sys2Proof.Machine.execSnapAction s
  | .startAction => Sys2Proof.Machine.execStartAction s
  | .stopAction => Sys2Proof.Machine.execStopAction s
  | .perfCtrWrite n value => Sys2Proof.Machine.execPerfCtrWrite n value s
  | .counterOverflow n inc => Sys2Proof.Machine.execCounterOverflow n inc s
  | .samplingEnable tugEn craneEn => Sys2Proof.Machine.execSamplingEnable tugEn craneEn s
  | .tugSampleSelect tug t word addr tier => Sys2Proof.Machine.execTugSampleSelect tug t word addr tier s
  | .craneSampleSelect c q => Sys2Proof.Machine.execCraneSampleSelect c q s
  | .sampleRecordWrite kind unit latency stalled flags => Sys2Proof.Machine.execSampleRecordWrite kind unit latency stalled flags s
  | .powerApply centivolts => Sys2Proof.Machine.execPowerApply centivolts s
  | .powerPhaseAdvance => Sys2Proof.Machine.execPowerPhaseAdvance s
  | .inputUndervoltage centivolts => Sys2Proof.Machine.execInputUndervoltage centivolts s
  | .inputOvervoltage centivolts forOneMs => Sys2Proof.Machine.execInputOvervoltage centivolts forOneMs s
  | .reversePolarity centivolts => Sys2Proof.Machine.execReversePolarity centivolts s
  | .sensePinOpen watts => Sys2Proof.Machine.execSensePinOpen watts s
  | .railShort => Sys2Proof.Machine.execRailShort s
  | .dieOvertemp die celsius => Sys2Proof.Machine.execDieOvertemp die celsius s
  | .dieCriticalTemp die celsius => Sys2Proof.Machine.execDieCriticalTemp die celsius s
  | .coolantFlowLow flow => Sys2Proof.Machine.execCoolantFlowLow flow s
  | .coolantInletHigh celsius => Sys2Proof.Machine.execCoolantInletHigh celsius s
  | .thermalWarning celsius => Sys2Proof.Machine.execThermalWarning celsius s
  | .ballastSlewBoundary => Sys2Proof.Machine.execBallastSlewBoundary s
  | .pwrStanddown => Sys2Proof.Machine.execPwrStanddown s
  | .standdownStage => Sys2Proof.Machine.execStanddownStage s
  | .romCoreTestTimeout => Sys2Proof.Machine.execRomCoreTestTimeout s
  | .bootStage o => Sys2Proof.Machine.execBootStage o s
  | .fuseAdvance => Sys2Proof.Machine.execFuseAdvance s
  | .secExtGo index => Sys2Proof.Machine.execSecExtGo index s
  | .hall => Sys2Proof.Machine.execHall s
  | .attest => Sys2Proof.Machine.execAttest s
  | .fwupdate => Sys2Proof.Machine.execFwupdate s
  | .svcDrain => Sys2Proof.Machine.execSvcDrain s
  | .drainArm => Sys2Proof.Machine.execDrainArm s
  | .engineOut => Sys2Proof.Machine.execEngineOut s
  | .engineIn serial calibrated => Sys2Proof.Machine.execEngineIn serial calibrated s
  | .standdown => Sys2Proof.Machine.execStanddown s
  | .firmwareActivation => Sys2Proof.Machine.execFirmwareActivation s
  | .engineLatchOpen e => Sys2Proof.Machine.execEngineLatchOpen e s
  | .referenceInputChange which valid => Sys2Proof.Machine.execReferenceInputChange which valid s
  | .laneSwitchRetrainComplete p => Sys2Proof.Machine.execLaneSwitchRetrainComplete p s
  | .signingEngineRequestComplete => Sys2Proof.Machine.execSigningEngineRequestComplete s
  | .storageLinkChange port linkUp connected reconnected => Sys2Proof.Machine.execStorageLinkChange port linkUp connected reconnected s

end Sys2Proof.Machine
end

