-- ==== Sys2Proof/Laws/Tab.lean ====
section
/-! SUPPORT. The laws of sparse arrays: reading after writing, and the canonical form. -/

namespace Sys2Proof.Tab
variable {α : Type}

@[simp] theorem get_nil (d : α) (k : Nat) : get d [] k = d := rfl

@[simp] theorem get_erase_self (d : α) (t : Tab α) (k : Nat) : get d (erase t k) k = d := by
  induction t with
  | nil => rfl
  | cons p rest ih =>
    obtain ⟨i, v⟩ := p
    by_cases h : i = k <;> simp [erase, get, h, ih]

theorem get_erase_other (d : α) (t : Tab α) {j k : Nat} (h : j ≠ k) : get d (erase t k) j = get d t j := by
  induction t with
  | nil => rfl
  | cons p rest ih =>
    obtain ⟨i, v⟩ := p
    by_cases hi : i = k
    · subst hi
      simp [erase, get, ih, Ne.symm h]
    · simp only [erase, hi, if_false, get, ih]

@[simp] theorem get_insert_self (d : α) (t : Tab α) (k : Nat) (x : α) : get d (insert t k x) k = x := by
  induction t with
  | nil => simp [insert, get]
  | cons p rest ih =>
    obtain ⟨i, v⟩ := p
    by_cases h1 : k < i
    · simp [insert, get, h1]
    · by_cases h2 : i = k <;> simp [insert, get, h1, h2, ih]

theorem get_insert_other (d : α) (t : Tab α) {j k : Nat} (x : α) (h : j ≠ k) : get d (insert t k x) j = get d t j := by
  induction t with
  | nil => simp [insert, get, Ne.symm h]
  | cons p rest ih =>
    obtain ⟨i, v⟩ := p
    by_cases h1 : k < i
    · simp [insert, get, h1, Ne.symm h]
    · by_cases h2 : i = k
      · subst h2
        simp [insert, get, Ne.symm h]
      · simp only [insert, h1, h2, if_false, get, ih]

/-- Reading an index just written gives the value written. -/
@[simp] theorem get_set_self [DecidableEq α] (d : α) (t : Tab α) (k : Nat) (x : α) : get d (set d t k x) k = x := by
  by_cases h : x = d <;> simp [set, h]

/-- Writing one index leaves every other as it was, whatever default either names. -/
theorem get_set_other' [DecidableEq α] (d e : α) (t : Tab α) {j k : Nat} (x : α) (h : j ≠ k) :
    get e (set d t k x) j = get e t j := by
  by_cases hx : x = d <;> simp [set, hx, get_erase_other e t h, get_insert_other e t x h]

theorem get_set_other [DecidableEq α] (d : α) (t : Tab α) {j k : Nat} (x : α) (h : j ≠ k) :
    get d (set d t k x) j = get d t j := get_set_other' d d t x h

theorem get_set [DecidableEq α] (d : α) (t : Tab α) (j k : Nat) (x : α) :
    get d (set d t k x) j = if j = k then x else get d t j := by
  by_cases h : j = k
  · subst h; simp
  · simp [h, get_set_other d t x h]

theorem above_erase (b k : Nat) (t : Tab α) (h : above b t = true) : above b (erase t k) = true := by
  induction t generalizing b with
  | nil => rfl
  | cons p rest ih =>
    obtain ⟨i, v⟩ := p
    simp only [above, Bool.and_eq_true, decide_eq_true_eq] at h
    by_cases hk : i = k
    · have h2 : ∀ (c : Nat) (t : Tab α), above i t = true → c < i → above c t = true := by
        intro c t ht hc
        cases t with
        | nil => rfl
        | cons q qs =>
          obtain ⟨j, w⟩ := q
          simp only [above, Bool.and_eq_true, decide_eq_true_eq] at ht ⊢
          exact ⟨by omega, ht.2⟩
      simp only [erase, hk, if_true]
      exact hk ▸ ih b (h2 b rest h.2 h.1)
    · simp only [erase, hk, if_false, above, Bool.and_eq_true, decide_eq_true_eq]
      exact ⟨h.1, ih i h.2⟩

theorem above_insert (b k : Nat) (x : α) (t : Tab α) (hb : b < k) (h : above b t = true) : above b (insert t k x) = true := by
  induction t generalizing b with
  | nil => simp [insert, above, hb]
  | cons p rest ih =>
    obtain ⟨i, v⟩ := p
    simp only [above, Bool.and_eq_true, decide_eq_true_eq] at h
    by_cases h1 : k < i
    · simp [insert, above, h1, hb, h.2]
    · by_cases h2 : i = k
      · subst h2; simp [insert, above, h.1, h.2]
      · simp only [insert, h1, h2, if_false, above, Bool.and_eq_true, decide_eq_true_eq]
        exact ⟨h.1, ih i (by omega) h.2⟩

theorem rising_of_above (b : Nat) (t : Tab α) (h : above b t = true) : rising t = true := by
  cases t with
  | nil => rfl
  | cons p rest =>
    obtain ⟨i, v⟩ := p
    simp only [above, Bool.and_eq_true, decide_eq_true_eq] at h
    exact h.2

theorem rising_erase (k : Nat) (t : Tab α) (h : rising t = true) : rising (erase t k) = true := by
  cases t with
  | nil => rfl
  | cons p rest =>
    obtain ⟨i, v⟩ := p
    by_cases hk : i = k
    · simp only [erase, hk, if_true]
      exact rising_of_above i _ (hk ▸ above_erase i k rest h)
    · simp only [erase, hk, if_false, rising]
      exact above_erase i k rest h

theorem rising_insert (k : Nat) (x : α) (t : Tab α) (h : rising t = true) : rising (insert t k x) = true := by
  cases t with
  | nil => rfl
  | cons p rest =>
    obtain ⟨i, v⟩ := p
    by_cases h1 : k < i
    · have : above i rest = true := h
      simp [insert, rising, above, h1, this]
    · by_cases h2 : i = k
      · subst h2; simpa [insert, rising] using h
      · simp only [insert, h1, h2, if_false, rising]
        exact above_insert i k x rest (by omega) h

theorem all_erase (q : Nat × α → Bool) (k : Nat) (t : Tab α) (h : t.all q = true) : (erase t k).all q = true := by
  induction t with
  | nil => rfl
  | cons p rest ih =>
    obtain ⟨i, v⟩ := p
    simp only [List.all_cons, Bool.and_eq_true] at h
    by_cases hk : i = k <;> simp [erase, hk, ih h.2]
    subst_vars
    simpa using h.1

theorem all_insert (q : Nat × α → Bool) (k : Nat) (x : α) (t : Tab α) (h : t.all q = true) (hx : q (k, x) = true) :
    (insert t k x).all q = true := by
  induction t with
  | nil => simp [insert, hx]
  | cons p rest ih =>
    obtain ⟨i, v⟩ := p
    have h' := h
    simp only [List.all_cons, Bool.and_eq_true] at h'
    by_cases h1 : k < i
    · simp only [insert, h1, if_true, List.all_cons, hx, Bool.true_and, Bool.and_eq_true]
      exact h'
    · by_cases h2 : i = k
      · subst h2
        simp only [insert, Nat.lt_irrefl, if_false, if_true, List.all_cons, hx, Bool.true_and]
        exact h'.2
      · simp only [insert, h1, h2, if_false, List.all_cons, h'.1, Bool.true_and]
        exact ih h'.2

/-- A write keeps the canonical form. -/
theorem canon_set [DecidableEq α] (d : α) (t : Tab α) (k : Nat) (x : α) (h : canon d t = true) :
    canon d (set d t k x) = true := by
  simp only [canon, Bool.and_eq_true] at h ⊢
  by_cases hx : x = d
  · simp only [set, hx, if_true]
    exact ⟨rising_erase k t h.1, all_erase _ k t h.2⟩
  · simp only [set, hx, if_false]
    exact ⟨rising_insert k x t h.1, all_insert _ k x t h.2 (by simpa using hx)⟩

end Sys2Proof.Tab
end

