-- ==== Sys2Proof/Laws/State.lean ====
section
/-! SUPPORT. Each named update of State changes one field and keeps every other: one lemma per field per update. The laws
of the arrays and of the register fields follow. -/

namespace Sys2Proof.Machine

@[simp] theorem fput_pending (s : State) (f : Field) (v : Nat) : (fput s f v).pending = s.pending := rfl
@[simp] theorem fput_free (s : State) (f : Field) (v : Nat) : (fput s f v).free = s.free := rfl
@[simp] theorem fput_uid (s : State) (f : Field) (v : Nat) : (fput s f v).uid = s.uid := rfl
@[simp] theorem fput_hcache (s : State) (f : Field) (v : Nat) : (fput s f v).hcache = s.hcache := rfl
@[simp] theorem fput_strides (s : State) (f : Field) (v : Nat) : (fput s f v).strides = s.strides := rfl
@[simp] theorem fput_mem (s : State) (f : Field) (v : Nat) : (fput s f v).mem = s.mem := rfl
@[simp] theorem fput_poison (s : State) (f : Field) (v : Nat) : (fput s f v).poison = s.poison := rfl
@[simp] theorem fput_writer (s : State) (f : Field) (v : Nat) : (fput s f v).writer = s.writer := rfl
@[simp] theorem fput_tide (s : State) (f : Field) (v : Nat) : (fput s f v).tide = s.tide := rfl
@[simp] theorem fput_stage (s : State) (f : Field) (v : Nat) : (fput s f v).stage = s.stage := rfl
@[simp] theorem fput_threads (s : State) (f : Field) (v : Nat) : (fput s f v).threads = s.threads := rfl
@[simp] theorem fput_cores (s : State) (f : Field) (v : Nat) : (fput s f v).cores = s.cores := rfl
@[simp] theorem fput_cranes (s : State) (f : Field) (v : Nat) : (fput s f v).cranes = s.cranes := rfl
@[simp] theorem fput_barges (s : State) (f : Field) (v : Nat) : (fput s f v).barges = s.barges := rfl
@[simp] theorem fput_ports (s : State) (f : Field) (v : Nat) : (fput s f v).ports = s.ports := rfl
@[simp] theorem fput_ledger (s : State) (f : Field) (v : Nat) : (fput s f v).ledger = s.ledger := rfl
@[simp] theorem fput_job (s : State) (f : Field) (v : Nat) : (fput s f v).job = s.job := rfl
@[simp] theorem fput_svc (s : State) (f : Field) (v : Nat) : (fput s f v).svc = s.svc := rfl
@[simp] theorem fput_sec (s : State) (f : Field) (v : Nat) : (fput s f v).sec = s.sec := rfl
@[simp] theorem fput_host (s : State) (f : Field) (v : Nat) : (fput s f v).host = s.host := rfl
@[simp] theorem fput_hold (s : State) (f : Field) (v : Nat) : (fput s f v).hold = s.hold := rfl
@[simp] theorem fput_perf (s : State) (f : Field) (v : Nat) : (fput s f v).perf = s.perf := rfl
@[simp] theorem fput_storConn (s : State) (f : Field) (v : Nat) : (fput s f v).storConn = s.storConn := rfl

@[simp] theorem setThread_pending (s : State) (t : Nat) (x : Thread) : (setThread s t x).pending = s.pending := rfl
@[simp] theorem setThread_free (s : State) (t : Nat) (x : Thread) : (setThread s t x).free = s.free := rfl
@[simp] theorem setThread_uid (s : State) (t : Nat) (x : Thread) : (setThread s t x).uid = s.uid := rfl
@[simp] theorem setThread_hcache (s : State) (t : Nat) (x : Thread) : (setThread s t x).hcache = s.hcache := rfl
@[simp] theorem setThread_strides (s : State) (t : Nat) (x : Thread) : (setThread s t x).strides = s.strides := rfl
@[simp] theorem setThread_mem (s : State) (t : Nat) (x : Thread) : (setThread s t x).mem = s.mem := rfl
@[simp] theorem setThread_poison (s : State) (t : Nat) (x : Thread) : (setThread s t x).poison = s.poison := rfl
@[simp] theorem setThread_writer (s : State) (t : Nat) (x : Thread) : (setThread s t x).writer = s.writer := rfl
@[simp] theorem setThread_fields (s : State) (t : Nat) (x : Thread) : (setThread s t x).fields = s.fields := rfl
@[simp] theorem setThread_tide (s : State) (t : Nat) (x : Thread) : (setThread s t x).tide = s.tide := rfl
@[simp] theorem setThread_stage (s : State) (t : Nat) (x : Thread) : (setThread s t x).stage = s.stage := rfl
@[simp] theorem setThread_cores (s : State) (t : Nat) (x : Thread) : (setThread s t x).cores = s.cores := rfl
@[simp] theorem setThread_cranes (s : State) (t : Nat) (x : Thread) : (setThread s t x).cranes = s.cranes := rfl
@[simp] theorem setThread_barges (s : State) (t : Nat) (x : Thread) : (setThread s t x).barges = s.barges := rfl
@[simp] theorem setThread_ports (s : State) (t : Nat) (x : Thread) : (setThread s t x).ports = s.ports := rfl
@[simp] theorem setThread_ledger (s : State) (t : Nat) (x : Thread) : (setThread s t x).ledger = s.ledger := rfl
@[simp] theorem setThread_job (s : State) (t : Nat) (x : Thread) : (setThread s t x).job = s.job := rfl
@[simp] theorem setThread_svc (s : State) (t : Nat) (x : Thread) : (setThread s t x).svc = s.svc := rfl
@[simp] theorem setThread_sec (s : State) (t : Nat) (x : Thread) : (setThread s t x).sec = s.sec := rfl
@[simp] theorem setThread_host (s : State) (t : Nat) (x : Thread) : (setThread s t x).host = s.host := rfl
@[simp] theorem setThread_hold (s : State) (t : Nat) (x : Thread) : (setThread s t x).hold = s.hold := rfl
@[simp] theorem setThread_perf (s : State) (t : Nat) (x : Thread) : (setThread s t x).perf = s.perf := rfl
@[simp] theorem setThread_storConn (s : State) (t : Nat) (x : Thread) : (setThread s t x).storConn = s.storConn := rfl

@[simp] theorem setCore_pending (s : State) (k : Nat) (x : Core) : (setCore s k x).pending = s.pending := rfl
@[simp] theorem setCore_free (s : State) (k : Nat) (x : Core) : (setCore s k x).free = s.free := rfl
@[simp] theorem setCore_uid (s : State) (k : Nat) (x : Core) : (setCore s k x).uid = s.uid := rfl
@[simp] theorem setCore_hcache (s : State) (k : Nat) (x : Core) : (setCore s k x).hcache = s.hcache := rfl
@[simp] theorem setCore_strides (s : State) (k : Nat) (x : Core) : (setCore s k x).strides = s.strides := rfl
@[simp] theorem setCore_mem (s : State) (k : Nat) (x : Core) : (setCore s k x).mem = s.mem := rfl
@[simp] theorem setCore_poison (s : State) (k : Nat) (x : Core) : (setCore s k x).poison = s.poison := rfl
@[simp] theorem setCore_writer (s : State) (k : Nat) (x : Core) : (setCore s k x).writer = s.writer := rfl
@[simp] theorem setCore_fields (s : State) (k : Nat) (x : Core) : (setCore s k x).fields = s.fields := rfl
@[simp] theorem setCore_tide (s : State) (k : Nat) (x : Core) : (setCore s k x).tide = s.tide := rfl
@[simp] theorem setCore_stage (s : State) (k : Nat) (x : Core) : (setCore s k x).stage = s.stage := rfl
@[simp] theorem setCore_threads (s : State) (k : Nat) (x : Core) : (setCore s k x).threads = s.threads := rfl
@[simp] theorem setCore_cranes (s : State) (k : Nat) (x : Core) : (setCore s k x).cranes = s.cranes := rfl
@[simp] theorem setCore_barges (s : State) (k : Nat) (x : Core) : (setCore s k x).barges = s.barges := rfl
@[simp] theorem setCore_ports (s : State) (k : Nat) (x : Core) : (setCore s k x).ports = s.ports := rfl
@[simp] theorem setCore_ledger (s : State) (k : Nat) (x : Core) : (setCore s k x).ledger = s.ledger := rfl
@[simp] theorem setCore_job (s : State) (k : Nat) (x : Core) : (setCore s k x).job = s.job := rfl
@[simp] theorem setCore_svc (s : State) (k : Nat) (x : Core) : (setCore s k x).svc = s.svc := rfl
@[simp] theorem setCore_sec (s : State) (k : Nat) (x : Core) : (setCore s k x).sec = s.sec := rfl
@[simp] theorem setCore_host (s : State) (k : Nat) (x : Core) : (setCore s k x).host = s.host := rfl
@[simp] theorem setCore_hold (s : State) (k : Nat) (x : Core) : (setCore s k x).hold = s.hold := rfl
@[simp] theorem setCore_perf (s : State) (k : Nat) (x : Core) : (setCore s k x).perf = s.perf := rfl
@[simp] theorem setCore_storConn (s : State) (k : Nat) (x : Core) : (setCore s k x).storConn = s.storConn := rfl

@[simp] theorem setCrane_pending (s : State) (c : Nat) (x : Crane) : (setCrane s c x).pending = s.pending := rfl
@[simp] theorem setCrane_free (s : State) (c : Nat) (x : Crane) : (setCrane s c x).free = s.free := rfl
@[simp] theorem setCrane_uid (s : State) (c : Nat) (x : Crane) : (setCrane s c x).uid = s.uid := rfl
@[simp] theorem setCrane_hcache (s : State) (c : Nat) (x : Crane) : (setCrane s c x).hcache = s.hcache := rfl
@[simp] theorem setCrane_strides (s : State) (c : Nat) (x : Crane) : (setCrane s c x).strides = s.strides := rfl
@[simp] theorem setCrane_mem (s : State) (c : Nat) (x : Crane) : (setCrane s c x).mem = s.mem := rfl
@[simp] theorem setCrane_poison (s : State) (c : Nat) (x : Crane) : (setCrane s c x).poison = s.poison := rfl
@[simp] theorem setCrane_writer (s : State) (c : Nat) (x : Crane) : (setCrane s c x).writer = s.writer := rfl
@[simp] theorem setCrane_fields (s : State) (c : Nat) (x : Crane) : (setCrane s c x).fields = s.fields := rfl
@[simp] theorem setCrane_tide (s : State) (c : Nat) (x : Crane) : (setCrane s c x).tide = s.tide := rfl
@[simp] theorem setCrane_stage (s : State) (c : Nat) (x : Crane) : (setCrane s c x).stage = s.stage := rfl
@[simp] theorem setCrane_threads (s : State) (c : Nat) (x : Crane) : (setCrane s c x).threads = s.threads := rfl
@[simp] theorem setCrane_cores (s : State) (c : Nat) (x : Crane) : (setCrane s c x).cores = s.cores := rfl
@[simp] theorem setCrane_barges (s : State) (c : Nat) (x : Crane) : (setCrane s c x).barges = s.barges := rfl
@[simp] theorem setCrane_ports (s : State) (c : Nat) (x : Crane) : (setCrane s c x).ports = s.ports := rfl
@[simp] theorem setCrane_ledger (s : State) (c : Nat) (x : Crane) : (setCrane s c x).ledger = s.ledger := rfl
@[simp] theorem setCrane_job (s : State) (c : Nat) (x : Crane) : (setCrane s c x).job = s.job := rfl
@[simp] theorem setCrane_svc (s : State) (c : Nat) (x : Crane) : (setCrane s c x).svc = s.svc := rfl
@[simp] theorem setCrane_sec (s : State) (c : Nat) (x : Crane) : (setCrane s c x).sec = s.sec := rfl
@[simp] theorem setCrane_host (s : State) (c : Nat) (x : Crane) : (setCrane s c x).host = s.host := rfl
@[simp] theorem setCrane_hold (s : State) (c : Nat) (x : Crane) : (setCrane s c x).hold = s.hold := rfl
@[simp] theorem setCrane_perf (s : State) (c : Nat) (x : Crane) : (setCrane s c x).perf = s.perf := rfl
@[simp] theorem setCrane_storConn (s : State) (c : Nat) (x : Crane) : (setCrane s c x).storConn = s.storConn := rfl

@[simp] theorem setBarge_pending (s : State) (b : Nat) (x : BargeSt) : (setBarge s b x).pending = s.pending := rfl
@[simp] theorem setBarge_free (s : State) (b : Nat) (x : BargeSt) : (setBarge s b x).free = s.free := rfl
@[simp] theorem setBarge_uid (s : State) (b : Nat) (x : BargeSt) : (setBarge s b x).uid = s.uid := rfl
@[simp] theorem setBarge_hcache (s : State) (b : Nat) (x : BargeSt) : (setBarge s b x).hcache = s.hcache := rfl
@[simp] theorem setBarge_strides (s : State) (b : Nat) (x : BargeSt) : (setBarge s b x).strides = s.strides := rfl
@[simp] theorem setBarge_mem (s : State) (b : Nat) (x : BargeSt) : (setBarge s b x).mem = s.mem := rfl
@[simp] theorem setBarge_poison (s : State) (b : Nat) (x : BargeSt) : (setBarge s b x).poison = s.poison := rfl
@[simp] theorem setBarge_writer (s : State) (b : Nat) (x : BargeSt) : (setBarge s b x).writer = s.writer := rfl
@[simp] theorem setBarge_fields (s : State) (b : Nat) (x : BargeSt) : (setBarge s b x).fields = s.fields := rfl
@[simp] theorem setBarge_tide (s : State) (b : Nat) (x : BargeSt) : (setBarge s b x).tide = s.tide := rfl
@[simp] theorem setBarge_stage (s : State) (b : Nat) (x : BargeSt) : (setBarge s b x).stage = s.stage := rfl
@[simp] theorem setBarge_threads (s : State) (b : Nat) (x : BargeSt) : (setBarge s b x).threads = s.threads := rfl
@[simp] theorem setBarge_cores (s : State) (b : Nat) (x : BargeSt) : (setBarge s b x).cores = s.cores := rfl
@[simp] theorem setBarge_cranes (s : State) (b : Nat) (x : BargeSt) : (setBarge s b x).cranes = s.cranes := rfl
@[simp] theorem setBarge_ports (s : State) (b : Nat) (x : BargeSt) : (setBarge s b x).ports = s.ports := rfl
@[simp] theorem setBarge_ledger (s : State) (b : Nat) (x : BargeSt) : (setBarge s b x).ledger = s.ledger := rfl
@[simp] theorem setBarge_job (s : State) (b : Nat) (x : BargeSt) : (setBarge s b x).job = s.job := rfl
@[simp] theorem setBarge_svc (s : State) (b : Nat) (x : BargeSt) : (setBarge s b x).svc = s.svc := rfl
@[simp] theorem setBarge_sec (s : State) (b : Nat) (x : BargeSt) : (setBarge s b x).sec = s.sec := rfl
@[simp] theorem setBarge_host (s : State) (b : Nat) (x : BargeSt) : (setBarge s b x).host = s.host := rfl
@[simp] theorem setBarge_hold (s : State) (b : Nat) (x : BargeSt) : (setBarge s b x).hold = s.hold := rfl
@[simp] theorem setBarge_perf (s : State) (b : Nat) (x : BargeSt) : (setBarge s b x).perf = s.perf := rfl
@[simp] theorem setBarge_storConn (s : State) (b : Nat) (x : BargeSt) : (setBarge s b x).storConn = s.storConn := rfl

@[simp] theorem setPort_pending (s : State) (p : Nat) (x : Port) : (setPort s p x).pending = s.pending := rfl
@[simp] theorem setPort_free (s : State) (p : Nat) (x : Port) : (setPort s p x).free = s.free := rfl
@[simp] theorem setPort_uid (s : State) (p : Nat) (x : Port) : (setPort s p x).uid = s.uid := rfl
@[simp] theorem setPort_hcache (s : State) (p : Nat) (x : Port) : (setPort s p x).hcache = s.hcache := rfl
@[simp] theorem setPort_strides (s : State) (p : Nat) (x : Port) : (setPort s p x).strides = s.strides := rfl
@[simp] theorem setPort_mem (s : State) (p : Nat) (x : Port) : (setPort s p x).mem = s.mem := rfl
@[simp] theorem setPort_poison (s : State) (p : Nat) (x : Port) : (setPort s p x).poison = s.poison := rfl
@[simp] theorem setPort_writer (s : State) (p : Nat) (x : Port) : (setPort s p x).writer = s.writer := rfl
@[simp] theorem setPort_fields (s : State) (p : Nat) (x : Port) : (setPort s p x).fields = s.fields := rfl
@[simp] theorem setPort_tide (s : State) (p : Nat) (x : Port) : (setPort s p x).tide = s.tide := rfl
@[simp] theorem setPort_stage (s : State) (p : Nat) (x : Port) : (setPort s p x).stage = s.stage := rfl
@[simp] theorem setPort_threads (s : State) (p : Nat) (x : Port) : (setPort s p x).threads = s.threads := rfl
@[simp] theorem setPort_cores (s : State) (p : Nat) (x : Port) : (setPort s p x).cores = s.cores := rfl
@[simp] theorem setPort_cranes (s : State) (p : Nat) (x : Port) : (setPort s p x).cranes = s.cranes := rfl
@[simp] theorem setPort_barges (s : State) (p : Nat) (x : Port) : (setPort s p x).barges = s.barges := rfl
@[simp] theorem setPort_ledger (s : State) (p : Nat) (x : Port) : (setPort s p x).ledger = s.ledger := rfl
@[simp] theorem setPort_job (s : State) (p : Nat) (x : Port) : (setPort s p x).job = s.job := rfl
@[simp] theorem setPort_svc (s : State) (p : Nat) (x : Port) : (setPort s p x).svc = s.svc := rfl
@[simp] theorem setPort_sec (s : State) (p : Nat) (x : Port) : (setPort s p x).sec = s.sec := rfl
@[simp] theorem setPort_host (s : State) (p : Nat) (x : Port) : (setPort s p x).host = s.host := rfl
@[simp] theorem setPort_hold (s : State) (p : Nat) (x : Port) : (setPort s p x).hold = s.hold := rfl
@[simp] theorem setPort_perf (s : State) (p : Nat) (x : Port) : (setPort s p x).perf = s.perf := rfl
@[simp] theorem setPort_storConn (s : State) (p : Nat) (x : Port) : (setPort s p x).storConn = s.storConn := rfl

@[simp] theorem tookFree_pending (s : State) (n : Nat) : (tookFree s n).pending = s.pending := rfl
@[simp] theorem tookFree_uid (s : State) (n : Nat) : (tookFree s n).uid = s.uid := rfl
@[simp] theorem tookFree_hcache (s : State) (n : Nat) : (tookFree s n).hcache = s.hcache := rfl
@[simp] theorem tookFree_strides (s : State) (n : Nat) : (tookFree s n).strides = s.strides := rfl
@[simp] theorem tookFree_mem (s : State) (n : Nat) : (tookFree s n).mem = s.mem := rfl
@[simp] theorem tookFree_poison (s : State) (n : Nat) : (tookFree s n).poison = s.poison := rfl
@[simp] theorem tookFree_writer (s : State) (n : Nat) : (tookFree s n).writer = s.writer := rfl
@[simp] theorem tookFree_fields (s : State) (n : Nat) : (tookFree s n).fields = s.fields := rfl
@[simp] theorem tookFree_tide (s : State) (n : Nat) : (tookFree s n).tide = s.tide := rfl
@[simp] theorem tookFree_stage (s : State) (n : Nat) : (tookFree s n).stage = s.stage := rfl
@[simp] theorem tookFree_threads (s : State) (n : Nat) : (tookFree s n).threads = s.threads := rfl
@[simp] theorem tookFree_cores (s : State) (n : Nat) : (tookFree s n).cores = s.cores := rfl
@[simp] theorem tookFree_cranes (s : State) (n : Nat) : (tookFree s n).cranes = s.cranes := rfl
@[simp] theorem tookFree_barges (s : State) (n : Nat) : (tookFree s n).barges = s.barges := rfl
@[simp] theorem tookFree_ports (s : State) (n : Nat) : (tookFree s n).ports = s.ports := rfl
@[simp] theorem tookFree_ledger (s : State) (n : Nat) : (tookFree s n).ledger = s.ledger := rfl
@[simp] theorem tookFree_job (s : State) (n : Nat) : (tookFree s n).job = s.job := rfl
@[simp] theorem tookFree_svc (s : State) (n : Nat) : (tookFree s n).svc = s.svc := rfl
@[simp] theorem tookFree_sec (s : State) (n : Nat) : (tookFree s n).sec = s.sec := rfl
@[simp] theorem tookFree_host (s : State) (n : Nat) : (tookFree s n).host = s.host := rfl
@[simp] theorem tookFree_hold (s : State) (n : Nat) : (tookFree s n).hold = s.hold := rfl
@[simp] theorem tookFree_perf (s : State) (n : Nat) : (tookFree s n).perf = s.perf := rfl
@[simp] theorem tookFree_storConn (s : State) (n : Nat) : (tookFree s n).storConn = s.storConn := rfl

@[simp] theorem setByte_pending (s : State) (a : Nat) (v : Byte) : (setByte s a v).pending = s.pending := rfl
@[simp] theorem setByte_free (s : State) (a : Nat) (v : Byte) : (setByte s a v).free = s.free := rfl
@[simp] theorem setByte_uid (s : State) (a : Nat) (v : Byte) : (setByte s a v).uid = s.uid := rfl
@[simp] theorem setByte_hcache (s : State) (a : Nat) (v : Byte) : (setByte s a v).hcache = s.hcache := rfl
@[simp] theorem setByte_strides (s : State) (a : Nat) (v : Byte) : (setByte s a v).strides = s.strides := rfl
@[simp] theorem setByte_poison (s : State) (a : Nat) (v : Byte) : (setByte s a v).poison = s.poison := rfl
@[simp] theorem setByte_writer (s : State) (a : Nat) (v : Byte) : (setByte s a v).writer = s.writer := rfl
@[simp] theorem setByte_fields (s : State) (a : Nat) (v : Byte) : (setByte s a v).fields = s.fields := rfl
@[simp] theorem setByte_tide (s : State) (a : Nat) (v : Byte) : (setByte s a v).tide = s.tide := rfl
@[simp] theorem setByte_stage (s : State) (a : Nat) (v : Byte) : (setByte s a v).stage = s.stage := rfl
@[simp] theorem setByte_threads (s : State) (a : Nat) (v : Byte) : (setByte s a v).threads = s.threads := rfl
@[simp] theorem setByte_cores (s : State) (a : Nat) (v : Byte) : (setByte s a v).cores = s.cores := rfl
@[simp] theorem setByte_cranes (s : State) (a : Nat) (v : Byte) : (setByte s a v).cranes = s.cranes := rfl
@[simp] theorem setByte_barges (s : State) (a : Nat) (v : Byte) : (setByte s a v).barges = s.barges := rfl
@[simp] theorem setByte_ports (s : State) (a : Nat) (v : Byte) : (setByte s a v).ports = s.ports := rfl
@[simp] theorem setByte_ledger (s : State) (a : Nat) (v : Byte) : (setByte s a v).ledger = s.ledger := rfl
@[simp] theorem setByte_job (s : State) (a : Nat) (v : Byte) : (setByte s a v).job = s.job := rfl
@[simp] theorem setByte_svc (s : State) (a : Nat) (v : Byte) : (setByte s a v).svc = s.svc := rfl
@[simp] theorem setByte_sec (s : State) (a : Nat) (v : Byte) : (setByte s a v).sec = s.sec := rfl
@[simp] theorem setByte_host (s : State) (a : Nat) (v : Byte) : (setByte s a v).host = s.host := rfl
@[simp] theorem setByte_hold (s : State) (a : Nat) (v : Byte) : (setByte s a v).hold = s.hold := rfl
@[simp] theorem setByte_perf (s : State) (a : Nat) (v : Byte) : (setByte s a v).perf = s.perf := rfl
@[simp] theorem setByte_storConn (s : State) (a : Nat) (v : Byte) : (setByte s a v).storConn = s.storConn := rfl

@[simp] theorem setPoisonLines_pending (s : State) (ls : List Nat) (p : Bool) : (setPoisonLines s ls p).pending = s.pending := rfl
@[simp] theorem setPoisonLines_free (s : State) (ls : List Nat) (p : Bool) : (setPoisonLines s ls p).free = s.free := rfl
@[simp] theorem setPoisonLines_uid (s : State) (ls : List Nat) (p : Bool) : (setPoisonLines s ls p).uid = s.uid := rfl
@[simp] theorem setPoisonLines_hcache (s : State) (ls : List Nat) (p : Bool) : (setPoisonLines s ls p).hcache = s.hcache := rfl
@[simp] theorem setPoisonLines_strides (s : State) (ls : List Nat) (p : Bool) : (setPoisonLines s ls p).strides = s.strides := rfl
@[simp] theorem setPoisonLines_mem (s : State) (ls : List Nat) (p : Bool) : (setPoisonLines s ls p).mem = s.mem := rfl
@[simp] theorem setPoisonLines_writer (s : State) (ls : List Nat) (p : Bool) : (setPoisonLines s ls p).writer = s.writer := rfl
@[simp] theorem setPoisonLines_fields (s : State) (ls : List Nat) (p : Bool) : (setPoisonLines s ls p).fields = s.fields := rfl
@[simp] theorem setPoisonLines_tide (s : State) (ls : List Nat) (p : Bool) : (setPoisonLines s ls p).tide = s.tide := rfl
@[simp] theorem setPoisonLines_stage (s : State) (ls : List Nat) (p : Bool) : (setPoisonLines s ls p).stage = s.stage := rfl
@[simp] theorem setPoisonLines_threads (s : State) (ls : List Nat) (p : Bool) : (setPoisonLines s ls p).threads = s.threads := rfl
@[simp] theorem setPoisonLines_cores (s : State) (ls : List Nat) (p : Bool) : (setPoisonLines s ls p).cores = s.cores := rfl
@[simp] theorem setPoisonLines_cranes (s : State) (ls : List Nat) (p : Bool) : (setPoisonLines s ls p).cranes = s.cranes := rfl
@[simp] theorem setPoisonLines_barges (s : State) (ls : List Nat) (p : Bool) : (setPoisonLines s ls p).barges = s.barges := rfl
@[simp] theorem setPoisonLines_ports (s : State) (ls : List Nat) (p : Bool) : (setPoisonLines s ls p).ports = s.ports := rfl
@[simp] theorem setPoisonLines_ledger (s : State) (ls : List Nat) (p : Bool) : (setPoisonLines s ls p).ledger = s.ledger := rfl
@[simp] theorem setPoisonLines_job (s : State) (ls : List Nat) (p : Bool) : (setPoisonLines s ls p).job = s.job := rfl
@[simp] theorem setPoisonLines_svc (s : State) (ls : List Nat) (p : Bool) : (setPoisonLines s ls p).svc = s.svc := rfl
@[simp] theorem setPoisonLines_sec (s : State) (ls : List Nat) (p : Bool) : (setPoisonLines s ls p).sec = s.sec := rfl
@[simp] theorem setPoisonLines_host (s : State) (ls : List Nat) (p : Bool) : (setPoisonLines s ls p).host = s.host := rfl
@[simp] theorem setPoisonLines_hold (s : State) (ls : List Nat) (p : Bool) : (setPoisonLines s ls p).hold = s.hold := rfl
@[simp] theorem setPoisonLines_perf (s : State) (ls : List Nat) (p : Bool) : (setPoisonLines s ls p).perf = s.perf := rfl
@[simp] theorem setPoisonLines_storConn (s : State) (ls : List Nat) (p : Bool) : (setPoisonLines s ls p).storConn = s.storConn := rfl

@[simp] theorem markWriter_pending (s : State) (a n u : Nat) : (markWriter s a n u).pending = s.pending := rfl
@[simp] theorem markWriter_free (s : State) (a n u : Nat) : (markWriter s a n u).free = s.free := rfl
@[simp] theorem markWriter_uid (s : State) (a n u : Nat) : (markWriter s a n u).uid = s.uid := rfl
@[simp] theorem markWriter_hcache (s : State) (a n u : Nat) : (markWriter s a n u).hcache = s.hcache := rfl
@[simp] theorem markWriter_strides (s : State) (a n u : Nat) : (markWriter s a n u).strides = s.strides := rfl
@[simp] theorem markWriter_mem (s : State) (a n u : Nat) : (markWriter s a n u).mem = s.mem := rfl
@[simp] theorem markWriter_poison (s : State) (a n u : Nat) : (markWriter s a n u).poison = s.poison := rfl
@[simp] theorem markWriter_fields (s : State) (a n u : Nat) : (markWriter s a n u).fields = s.fields := rfl
@[simp] theorem markWriter_tide (s : State) (a n u : Nat) : (markWriter s a n u).tide = s.tide := rfl
@[simp] theorem markWriter_stage (s : State) (a n u : Nat) : (markWriter s a n u).stage = s.stage := rfl
@[simp] theorem markWriter_threads (s : State) (a n u : Nat) : (markWriter s a n u).threads = s.threads := rfl
@[simp] theorem markWriter_cores (s : State) (a n u : Nat) : (markWriter s a n u).cores = s.cores := rfl
@[simp] theorem markWriter_cranes (s : State) (a n u : Nat) : (markWriter s a n u).cranes = s.cranes := rfl
@[simp] theorem markWriter_barges (s : State) (a n u : Nat) : (markWriter s a n u).barges = s.barges := rfl
@[simp] theorem markWriter_ports (s : State) (a n u : Nat) : (markWriter s a n u).ports = s.ports := rfl
@[simp] theorem markWriter_ledger (s : State) (a n u : Nat) : (markWriter s a n u).ledger = s.ledger := rfl
@[simp] theorem markWriter_job (s : State) (a n u : Nat) : (markWriter s a n u).job = s.job := rfl
@[simp] theorem markWriter_svc (s : State) (a n u : Nat) : (markWriter s a n u).svc = s.svc := rfl
@[simp] theorem markWriter_sec (s : State) (a n u : Nat) : (markWriter s a n u).sec = s.sec := rfl
@[simp] theorem markWriter_host (s : State) (a n u : Nat) : (markWriter s a n u).host = s.host := rfl
@[simp] theorem markWriter_hold (s : State) (a n u : Nat) : (markWriter s a n u).hold = s.hold := rfl
@[simp] theorem markWriter_perf (s : State) (a n u : Nat) : (markWriter s a n u).perf = s.perf := rfl
@[simp] theorem markWriter_storConn (s : State) (a n u : Nat) : (markWriter s a n u).storConn = s.storConn := rfl

/-! Arrays. -/

@[simp] theorem thread_setThread_self (s : State) (t : Nat) (x : Thread) : thread (setThread s t x) t = x :=
  Tab.get_set_self _ _ _ _
theorem thread_setThread_other (s : State) {t u : Nat} (x : Thread) (h : u ≠ t) : thread (setThread s t x) u = thread s u :=
  Tab.get_set_other _ _ _ h
@[simp] theorem core_setCore_self (s : State) (k : Nat) (x : Core) : core (setCore s k x) k = x :=
  Tab.get_set_self _ _ _ _
theorem core_setCore_other (s : State) {k j : Nat} (x : Core) (h : j ≠ k) : core (setCore s k x) j = core s j :=
  Tab.get_set_other _ _ _ h
@[simp] theorem crane_setCrane_self (s : State) (c : Nat) (x : Crane) : crane (setCrane s c x) c = x :=
  Tab.get_set_self _ _ _ _
theorem crane_setCrane_other (s : State) {c d : Nat} (x : Crane) (h : d ≠ c) : crane (setCrane s c x) d = crane s d :=
  Tab.get_set_other _ _ _ h
@[simp] theorem bargeSt_setBarge_self (s : State) (b : Nat) (x : BargeSt) : bargeSt (setBarge s b x) b = x :=
  Tab.get_set_self _ _ _ _
theorem bargeSt_setBarge_other (s : State) {b c : Nat} (x : BargeSt) (h : c ≠ b) : bargeSt (setBarge s b x) c = bargeSt s c :=
  Tab.get_set_other _ _ _ h
@[simp] theorem port_setPort_self (s : State) (p : Nat) (x : Port) : port (setPort s p x) p = x :=
  Tab.get_set_self _ _ _ _
theorem port_setPort_other (s : State) {p q : Nat} (x : Port) (h : q ≠ p) : port (setPort s p x) q = port s q :=
  Tab.get_set_other _ _ _ h

/-! Register fields. -/

/-- A field reads as the low bits of what was written to it. -/
@[simp] theorem fget_fput_self (s : State) (f : Field) (v : Nat) : fget (fput s f v) f = v % 2 ^ f.w :=
  Tab.get_set_self _ _ _ _

/-- Writing one field leaves every field kept elsewhere as it was. -/
theorem fget_fput_other (s : State) {f g : Field} (v : Nat) (h : fieldKey g ≠ fieldKey f) :
    fget (fput s f v) g = fget s g :=
  Tab.get_set_other' f.rst g.rst s.fields _ h

/-! Memory. -/

@[simp] theorem memByte_setByte_self (s : State) (a : Nat) (v : Byte) : memByte (setByte s a v) a = v :=
  Tab.get_set_self _ _ _ _
theorem memByte_setByte_other (s : State) {a b : Nat} (v : Byte) (h : b ≠ a) : memByte (setByte s a v) b = memByte s b :=
  Tab.get_set_other _ _ _ h

@[simp] theorem memByte_eq_of_mem {s t : State} (h : s.mem = t.mem) (a : Nat) : memByte s a = memByte t a := by
  simp [memByte, h]

/-- Bytes written at an address: those read back, and every other byte as it was. -/
theorem memByte_setBytes (s : State) (a : Nat) (bs : List Byte) (b : Nat) :
    memByte (setBytes s a bs) b = if a ≤ b ∧ b < a + bs.length then bs.getD (b - a) 0 else memByte s b := by
  induction bs generalizing s a with
  | nil =>
    rw [if_neg (by simp only [List.length_nil, Nat.add_zero]; omega)]
    rfl
  | cons x rest ih =>
    simp only [setBytes, ih, List.length_cons]
    by_cases h : b = a
    · subst h
      simp [show ¬ (b + 1 ≤ b) by omega]
    · rw [memByte_setByte_other s x h]
      by_cases h2 : a ≤ b ∧ b < a + (rest.length + 1)
      · have h3 : a + 1 ≤ b ∧ b < a + 1 + rest.length := by omega
        have h4 : b - a = (b - (a + 1)) + 1 := by omega
        rw [if_pos h3, if_pos h2, h4, List.getD_cons_succ]
      · have h3 : ¬ (a + 1 ≤ b ∧ b < a + 1 + rest.length) := by omega
        rw [if_neg h3, if_neg h2]

theorem memByte_writeFrom (s : State) (u a : Nat) (bs : List Byte) (b : Nat) :
    memByte (writeFrom s u a bs) b = if a ≤ b ∧ b < a + bs.length then bs.getD (b - a) 0 else memByte s b :=
  memByte_setBytes s a bs b

/-- A clean write: the bytes written read back, every other byte as before. -/
theorem memByte_writeBytes (s : State) (a : Nat) (bs : List Byte) (b : Nat) :
    memByte (writeBytes s a bs) b = if a ≤ b ∧ b < a + bs.length then bs.getD (b - a) 0 else memByte s b :=
  memByte_setBytes s a bs b

theorem memByte_writePoison (s : State) (u a : Nat) (bs : List Byte) (b : Nat) :
    memByte (writePoison s u a bs) b = if a ≤ b ∧ b < a + bs.length then bs.getD (b - a) 0 else memByte s b :=
  memByte_setBytes s a bs b

/-- Writing bytes changes memory alone. -/
theorem setBytes_frame (s : State) (a : Nat) (bs : List Byte) : setBytes s a bs = { s with mem := (setBytes s a bs).mem } := by
  induction bs generalizing s a with
  | nil => rfl
  | cons x rest ih =>
    simp only [setBytes]
    conv => lhs; rw [ih]
    rfl

/-- Writes change memory, poison and the record of the last Crane writer, nothing else. -/
theorem writeFrom_frame (s : State) (u a : Nat) (bs : List Byte) :
    writeFrom s u a bs = { s with
      mem := (writeFrom s u a bs).mem
      poison := (writeFrom s u a bs).poison
      writer := (writeFrom s u a bs).writer } := by
  simp only [writeFrom, markWriter, setPoisonLines]
  rw [setBytes_frame]

@[simp] theorem setBytes_pending (s : State) (a : Nat) (bs : List Byte) : (setBytes s a bs).pending = s.pending := by rw [setBytes_frame]
@[simp] theorem setBytes_free (s : State) (a : Nat) (bs : List Byte) : (setBytes s a bs).free = s.free := by rw [setBytes_frame]
@[simp] theorem setBytes_uid (s : State) (a : Nat) (bs : List Byte) : (setBytes s a bs).uid = s.uid := by rw [setBytes_frame]
@[simp] theorem setBytes_poison (s : State) (a : Nat) (bs : List Byte) : (setBytes s a bs).poison = s.poison := by rw [setBytes_frame]
@[simp] theorem setBytes_writer (s : State) (a : Nat) (bs : List Byte) : (setBytes s a bs).writer = s.writer := by rw [setBytes_frame]
@[simp] theorem setBytes_fields (s : State) (a : Nat) (bs : List Byte) : (setBytes s a bs).fields = s.fields := by rw [setBytes_frame]
@[simp] theorem setBytes_tide (s : State) (a : Nat) (bs : List Byte) : (setBytes s a bs).tide = s.tide := by rw [setBytes_frame]
@[simp] theorem setBytes_stage (s : State) (a : Nat) (bs : List Byte) : (setBytes s a bs).stage = s.stage := by rw [setBytes_frame]
@[simp] theorem setBytes_threads (s : State) (a : Nat) (bs : List Byte) : (setBytes s a bs).threads = s.threads := by rw [setBytes_frame]
@[simp] theorem setBytes_cores (s : State) (a : Nat) (bs : List Byte) : (setBytes s a bs).cores = s.cores := by rw [setBytes_frame]
@[simp] theorem setBytes_cranes (s : State) (a : Nat) (bs : List Byte) : (setBytes s a bs).cranes = s.cranes := by rw [setBytes_frame]
@[simp] theorem setBytes_barges (s : State) (a : Nat) (bs : List Byte) : (setBytes s a bs).barges = s.barges := by rw [setBytes_frame]
@[simp] theorem setBytes_ports (s : State) (a : Nat) (bs : List Byte) : (setBytes s a bs).ports = s.ports := by rw [setBytes_frame]
@[simp] theorem setBytes_ledger (s : State) (a : Nat) (bs : List Byte) : (setBytes s a bs).ledger = s.ledger := by rw [setBytes_frame]
@[simp] theorem setBytes_job (s : State) (a : Nat) (bs : List Byte) : (setBytes s a bs).job = s.job := by rw [setBytes_frame]
@[simp] theorem setBytes_svc (s : State) (a : Nat) (bs : List Byte) : (setBytes s a bs).svc = s.svc := by rw [setBytes_frame]
@[simp] theorem setBytes_sec (s : State) (a : Nat) (bs : List Byte) : (setBytes s a bs).sec = s.sec := by rw [setBytes_frame]
@[simp] theorem setBytes_host (s : State) (a : Nat) (bs : List Byte) : (setBytes s a bs).host = s.host := by rw [setBytes_frame]
@[simp] theorem setBytes_hold (s : State) (a : Nat) (bs : List Byte) : (setBytes s a bs).hold = s.hold := by rw [setBytes_frame]
@[simp] theorem setBytes_perf (s : State) (a : Nat) (bs : List Byte) : (setBytes s a bs).perf = s.perf := by rw [setBytes_frame]
@[simp] theorem setBytes_storConn (s : State) (a : Nat) (bs : List Byte) : (setBytes s a bs).storConn = s.storConn := by rw [setBytes_frame]

@[simp] theorem writeFrom_pending (s : State) (u a : Nat) (bs : List Byte) : (writeFrom s u a bs).pending = s.pending := by rw [writeFrom_frame]
@[simp] theorem writeFrom_free (s : State) (u a : Nat) (bs : List Byte) : (writeFrom s u a bs).free = s.free := by rw [writeFrom_frame]
@[simp] theorem writeFrom_uid (s : State) (u a : Nat) (bs : List Byte) : (writeFrom s u a bs).uid = s.uid := by rw [writeFrom_frame]
@[simp] theorem writeFrom_fields (s : State) (u a : Nat) (bs : List Byte) : (writeFrom s u a bs).fields = s.fields := by rw [writeFrom_frame]
@[simp] theorem writeFrom_tide (s : State) (u a : Nat) (bs : List Byte) : (writeFrom s u a bs).tide = s.tide := by rw [writeFrom_frame]
@[simp] theorem writeFrom_stage (s : State) (u a : Nat) (bs : List Byte) : (writeFrom s u a bs).stage = s.stage := by rw [writeFrom_frame]
@[simp] theorem writeFrom_threads (s : State) (u a : Nat) (bs : List Byte) : (writeFrom s u a bs).threads = s.threads := by rw [writeFrom_frame]
@[simp] theorem writeFrom_cores (s : State) (u a : Nat) (bs : List Byte) : (writeFrom s u a bs).cores = s.cores := by rw [writeFrom_frame]
@[simp] theorem writeFrom_cranes (s : State) (u a : Nat) (bs : List Byte) : (writeFrom s u a bs).cranes = s.cranes := by rw [writeFrom_frame]
@[simp] theorem writeFrom_barges (s : State) (u a : Nat) (bs : List Byte) : (writeFrom s u a bs).barges = s.barges := by rw [writeFrom_frame]
@[simp] theorem writeFrom_ports (s : State) (u a : Nat) (bs : List Byte) : (writeFrom s u a bs).ports = s.ports := by rw [writeFrom_frame]
@[simp] theorem writeFrom_ledger (s : State) (u a : Nat) (bs : List Byte) : (writeFrom s u a bs).ledger = s.ledger := by rw [writeFrom_frame]
@[simp] theorem writeFrom_job (s : State) (u a : Nat) (bs : List Byte) : (writeFrom s u a bs).job = s.job := by rw [writeFrom_frame]
@[simp] theorem writeFrom_svc (s : State) (u a : Nat) (bs : List Byte) : (writeFrom s u a bs).svc = s.svc := by rw [writeFrom_frame]
@[simp] theorem writeFrom_sec (s : State) (u a : Nat) (bs : List Byte) : (writeFrom s u a bs).sec = s.sec := by rw [writeFrom_frame]
@[simp] theorem writeFrom_host (s : State) (u a : Nat) (bs : List Byte) : (writeFrom s u a bs).host = s.host := by rw [writeFrom_frame]
@[simp] theorem writeFrom_hold (s : State) (u a : Nat) (bs : List Byte) : (writeFrom s u a bs).hold = s.hold := by rw [writeFrom_frame]
@[simp] theorem writeFrom_perf (s : State) (u a : Nat) (bs : List Byte) : (writeFrom s u a bs).perf = s.perf := by rw [writeFrom_frame]
@[simp] theorem writeFrom_storConn (s : State) (u a : Nat) (bs : List Byte) : (writeFrom s u a bs).storConn = s.storConn := by rw [writeFrom_frame]

@[simp] theorem writeBytes_pending (s : State) (a : Nat) (bs : List Byte) : (writeBytes s a bs).pending = s.pending := by simp [writeBytes]
@[simp] theorem writeBytes_free (s : State) (a : Nat) (bs : List Byte) : (writeBytes s a bs).free = s.free := by simp [writeBytes]
@[simp] theorem writeBytes_uid (s : State) (a : Nat) (bs : List Byte) : (writeBytes s a bs).uid = s.uid := by simp [writeBytes]
@[simp] theorem writeBytes_fields (s : State) (a : Nat) (bs : List Byte) : (writeBytes s a bs).fields = s.fields := by simp [writeBytes]
@[simp] theorem writeBytes_tide (s : State) (a : Nat) (bs : List Byte) : (writeBytes s a bs).tide = s.tide := by simp [writeBytes]
@[simp] theorem writeBytes_stage (s : State) (a : Nat) (bs : List Byte) : (writeBytes s a bs).stage = s.stage := by simp [writeBytes]
@[simp] theorem writeBytes_threads (s : State) (a : Nat) (bs : List Byte) : (writeBytes s a bs).threads = s.threads := by simp [writeBytes]
@[simp] theorem writeBytes_cores (s : State) (a : Nat) (bs : List Byte) : (writeBytes s a bs).cores = s.cores := by simp [writeBytes]
@[simp] theorem writeBytes_cranes (s : State) (a : Nat) (bs : List Byte) : (writeBytes s a bs).cranes = s.cranes := by simp [writeBytes]
@[simp] theorem writeBytes_barges (s : State) (a : Nat) (bs : List Byte) : (writeBytes s a bs).barges = s.barges := by simp [writeBytes]
@[simp] theorem writeBytes_ports (s : State) (a : Nat) (bs : List Byte) : (writeBytes s a bs).ports = s.ports := by simp [writeBytes]
@[simp] theorem writeBytes_ledger (s : State) (a : Nat) (bs : List Byte) : (writeBytes s a bs).ledger = s.ledger := by simp [writeBytes]
@[simp] theorem writeBytes_job (s : State) (a : Nat) (bs : List Byte) : (writeBytes s a bs).job = s.job := by simp [writeBytes]
@[simp] theorem writeBytes_svc (s : State) (a : Nat) (bs : List Byte) : (writeBytes s a bs).svc = s.svc := by simp [writeBytes]
@[simp] theorem writeBytes_sec (s : State) (a : Nat) (bs : List Byte) : (writeBytes s a bs).sec = s.sec := by simp [writeBytes]
@[simp] theorem writeBytes_host (s : State) (a : Nat) (bs : List Byte) : (writeBytes s a bs).host = s.host := by simp [writeBytes]
@[simp] theorem writeBytes_hold (s : State) (a : Nat) (bs : List Byte) : (writeBytes s a bs).hold = s.hold := by simp [writeBytes]
@[simp] theorem writeBytes_perf (s : State) (a : Nat) (bs : List Byte) : (writeBytes s a bs).perf = s.perf := by simp [writeBytes]
@[simp] theorem writeBytes_storConn (s : State) (a : Nat) (bs : List Byte) : (writeBytes s a bs).storConn = s.storConn := by simp [writeBytes]

@[simp] theorem writePoison_pending (s : State) (u a : Nat) (bs : List Byte) : (writePoison s u a bs).pending = s.pending := by simp [writePoison]
@[simp] theorem writePoison_free (s : State) (u a : Nat) (bs : List Byte) : (writePoison s u a bs).free = s.free := by simp [writePoison]
@[simp] theorem writePoison_uid (s : State) (u a : Nat) (bs : List Byte) : (writePoison s u a bs).uid = s.uid := by simp [writePoison]
@[simp] theorem writePoison_fields (s : State) (u a : Nat) (bs : List Byte) : (writePoison s u a bs).fields = s.fields := by simp [writePoison]
@[simp] theorem writePoison_tide (s : State) (u a : Nat) (bs : List Byte) : (writePoison s u a bs).tide = s.tide := by simp [writePoison]
@[simp] theorem writePoison_stage (s : State) (u a : Nat) (bs : List Byte) : (writePoison s u a bs).stage = s.stage := by simp [writePoison]
@[simp] theorem writePoison_threads (s : State) (u a : Nat) (bs : List Byte) : (writePoison s u a bs).threads = s.threads := by simp [writePoison]
@[simp] theorem writePoison_cores (s : State) (u a : Nat) (bs : List Byte) : (writePoison s u a bs).cores = s.cores := by simp [writePoison]
@[simp] theorem writePoison_cranes (s : State) (u a : Nat) (bs : List Byte) : (writePoison s u a bs).cranes = s.cranes := by simp [writePoison]
@[simp] theorem writePoison_barges (s : State) (u a : Nat) (bs : List Byte) : (writePoison s u a bs).barges = s.barges := by simp [writePoison]
@[simp] theorem writePoison_ports (s : State) (u a : Nat) (bs : List Byte) : (writePoison s u a bs).ports = s.ports := by simp [writePoison]
@[simp] theorem writePoison_ledger (s : State) (u a : Nat) (bs : List Byte) : (writePoison s u a bs).ledger = s.ledger := by simp [writePoison]
@[simp] theorem writePoison_job (s : State) (u a : Nat) (bs : List Byte) : (writePoison s u a bs).job = s.job := by simp [writePoison]
@[simp] theorem writePoison_svc (s : State) (u a : Nat) (bs : List Byte) : (writePoison s u a bs).svc = s.svc := by simp [writePoison]
@[simp] theorem writePoison_sec (s : State) (u a : Nat) (bs : List Byte) : (writePoison s u a bs).sec = s.sec := by simp [writePoison]
@[simp] theorem writePoison_host (s : State) (u a : Nat) (bs : List Byte) : (writePoison s u a bs).host = s.host := by simp [writePoison]
@[simp] theorem writePoison_hold (s : State) (u a : Nat) (bs : List Byte) : (writePoison s u a bs).hold = s.hold := by simp [writePoison]
@[simp] theorem writePoison_perf (s : State) (u a : Nat) (bs : List Byte) : (writePoison s u a bs).perf = s.perf := by simp [writePoison]
@[simp] theorem writePoison_storConn (s : State) (u a : Nat) (bs : List Byte) : (writePoison s u a bs).storConn = s.storConn := by simp [writePoison]

/-! The canonical form of memory. -/

/-- Writing a byte keeps the canonical form. -/
theorem setByte_wf (s : State) (a : Nat) (v : Byte) (h : memWf s) : memWf (setByte s a v) :=
  Tab.canon_set memDefault s.mem a v h

theorem setBytes_wf (s : State) (a : Nat) (bs : List Byte) (h : memWf s) : memWf (setBytes s a bs) := by
  induction bs generalizing s a with
  | nil => exact h
  | cons x rest ih => exact ih _ _ (setByte_wf s a x h)

@[simp] theorem writeFrom_wf (s : State) (u a : Nat) (bs : List Byte) (h : memWf s) : memWf (writeFrom s u a bs) :=
  setBytes_wf s a bs h
@[simp] theorem writeBytes_wf (s : State) (a : Nat) (bs : List Byte) (h : memWf s) : memWf (writeBytes s a bs) :=
  setBytes_wf s a bs h
@[simp] theorem writePoison_wf (s : State) (u a : Nat) (bs : List Byte) (h : memWf s) : memWf (writePoison s u a bs) :=
  setBytes_wf s a bs h
@[simp] theorem writeNat_wf (s : State) (a n v : Nat) (h : memWf s) : memWf (writeNat s a n v) :=
  setBytes_wf s a _ h

end Sys2Proof.Machine
end

