-- ==== Sys2Proof/Safety.lean ====
section
/-! DEFINITION. What counts as a safe run, and the terms in which the statements say what a command leaves as it was. -/

namespace Sys2Proof.Machine

/-- The step answers a next state: the module has neither stopped nor met a command without a meaning. -/
def runs (o : Host.Outcome State Fault Refusal) : Prop := ∃ t, o = .next t

/-- The memory keeps its canonical form. -/
def safe (s : State) : Prop := memWf s

/-- The running thread is at an instruction whose fetched word stands for command i, and none of the registers that it reads waits
for a load: the command issues (R68, R69, R75 to R77). -/
abbrev issues (i : Instr) (t : Tid) (gs vs : List Nat) (s : State) : Prop :=
  atInstr i t s = true ∧ operandsReady s t.val gs vs = true

/-- The state in which an instruction of thread t takes effect: the line of its word is the most recently used and the
instruction is counted. -/
abbrev atIssue (s : State) (t : Nat) : State := countIssue (useLine s t) t

/-- r is what R81 gives for an exact result: a NaN operand gives NaN without a flag, an invalid operation NaN with invalid set, and
anything else the exact value rounded once. -/
def roundedOnce (f : Fmt) (operands : List Num) (exact : Num) (r : Num × BitVec 4) : Prop :=
  (operands.any isNan = true → r = (.nan, 0)) ∧
  (operands.any isNan = false → isNan exact = true → r = (.nan, flagInvalid)) ∧
  (operands.any isNan = false → isNan exact = false → r = tugRound f exact)

/-- The union of the flags of n elements. -/
def orFlags (n : Nat) (f : Nat → BitVec 4) : BitVec 4 := (List.range n).foldl (fun a i => a ||| f i) 0

/-- Node k of level n of a tree that combines the nodes 2k and 2k + 1 of the level below (R85). -/
def level (f : Num → Num → Num) (e : Nat → Num) : Nat → Nat → Num
  | 0, k => e k
  | n + 1, k => f (level f e n (2 * k)) (level f e n (2 * k + 1))

/-- Two states agree but for the threads, the cores and the counters of performance monitoring. -/
def onlyTugs (s u : State) : Prop := u = { s with threads := u.threads, cores := u.cores, perf := u.perf }

/-- As `onlyTugs`, but for the Harbour Caches with what they have seen of the threads, and the free values taken, too. -/
def onlyCaches (s u : State) : Prop :=
  u = { s with
    threads := u.threads, cores := u.cores, perf := u.perf, hcache := u.hcache, strides := u.strides, free := u.free }

/-- As `onlyCaches`, but for the bytes, the poison and the writers noted of memory too. -/
def onlyStored (s u : State) : Prop :=
  u = { s with
    threads := u.threads, cores := u.cores, perf := u.perf, hcache := u.hcache, strides := u.strides, free := u.free,
    mem := u.mem, poison := u.poison, writer := u.writer }

/-- Every thread but one is as it was. -/
def otherThreads (t : Nat) (s u : State) : Prop := ∀ w, w ≠ t → thread u w = thread s w

/-- The cores' caches and the slots taken are as they were; an outstanding access keeps all but its destination. -/
def coresKept (s u : State) : Prop :=
  ∀ k, (core u k).dcache = (core s k).dcache ∧ (core u k).icache = (core s k).icache ∧
    (core u k).slots.map (fun p => (p.1, { p.2 with rd := 0 })) = (core s k).slots.map (fun p => (p.1, { p.2 with rd := 0 }))

/-- Thread t has issued an instruction that writes x to its register g[rd] (g0 discards it) and goes on at pc: nothing else
has changed, but that a load outstanding for rd is overtaken. -/
def wroteG (t rd : Nat) (x pc : Word) (s u : State) : Prop :=
  onlyTugs s u ∧ otherThreads t s u ∧ coresKept s u ∧
  g u t rd = (if rd = 0 then 0 else x) ∧ (∀ r, r ≠ rd → g u t r = g s t r) ∧
  thread u t = { thread s t with
    g := (thread u t).g
    pendG := (thread s t).pendG.filter (fun r => decide (r ≠ rd))
    pc := pc
    issued := (thread s t).issued + 1 }

/-- As `wroteG`, with flags fl taken into FSTAT. -/
def wroteGF (t rd : Nat) (x : Word) (fl : BitVec 4) (s u : State) : Prop :=
  onlyTugs s u ∧ otherThreads t s u ∧ coresKept s u ∧
  g u t rd = (if rd = 0 then 0 else x) ∧ (∀ r, r ≠ rd → g u t r = g s t r) ∧
  thread u t = { thread s t with
    g := (thread u t).g
    pendG := (thread s t).pendG.filter (fun r => decide (r ≠ rd))
    fstat := (thread s t).fstat ||| fl
    pc := (thread s t).pc + 4
    issued := (thread s t).issued + 1 }

/-- Thread t has issued an instruction that writes x to its register v[rd] and flags fl into FSTAT: nothing else has changed,
but that a load outstanding for rd is overtaken. -/
def wroteVF (t rd : Nat) (x : VWord) (fl : BitVec 4) (s u : State) : Prop :=
  onlyTugs s u ∧ otherThreads t s u ∧ coresKept s u ∧
  v u t rd = x ∧ (∀ r, r ≠ rd → v u t r = v s t r) ∧
  thread u t = { thread s t with
    v := (thread u t).v
    pendV := (thread s t).pendV.filter (fun r => decide (r ≠ rd))
    fstat := (thread s t).fstat ||| fl
    pc := (thread s t).pc + 4
    issued := (thread s t).issued + 1 }

/-- Two ranges of bytes share none. -/
def apart (a n b m : Nat) : Prop := a + n ≤ b ∨ b + m ≤ a

/-- No line of memory is poisoned. -/
def clean (s : State) : Prop := ∀ a, poisoned s a = false

/-- Every byte outside the ranges of a list reads as before. -/
def memKept (rs : List (Nat × Nat)) (s u : State) : Prop :=
  ∀ a, (∀ r ∈ rs, a < r.1 ∨ r.1 + r.2 ≤ a) → memByte u a = memByte s a

/-- The register of a byte offset has no staged field and no behaviour of its own: a write reaches only its fields. -/
def plainRegister (x : Nat) : Bool :=
  let i := x / 0x100000
  let o := x % 0x100000 / 8 * 8
  decide (groupOf x = 5 ∧ i ≠ 4 ∧ ¬(i = 1 ∧ o = 0x40) ∧ ¬(0x1A ≤ i ∧ i < 0x1C ∧ o = 8)) &&
  !fwCommandReg (x / 8 * 8) && (actSlotOf (x / 8 * 8)).isNone

end Sys2Proof.Machine
end

