-- ==== Sys2Proof/Laws/Tug.lean ====
section
/-! SUPPORT. What counting, issuing, retiring and writing a register can do. -/

namespace Sys2Proof.Machine

/-! Counting changes the performance counters alone. -/

theorem countEvent_frame (s : State) (c u e v b : Nat) :
    countEvent s c u e v b = { s with perf := (countEvent s c u e v b).perf } := by
  unfold countEvent; split <;> rfl

theorem sampleTug_frame (s : State) (t : Nat) : sampleTug s t = { s with perf := (sampleTug s t).perf } := by
  unfold sampleTug; split <;> rfl

theorem perf_trans {s u w : State} (h1 : u = { s with perf := u.perf }) (h2 : w = { u with perf := w.perf }) :
    w = { s with perf := w.perf } := by
  generalize u.perf = p at h1
  generalize w.perf = q at h2 ⊢
  subst h1
  exact h2

theorem countIssue_frame (s : State) (t : Nat) : countIssue s t = { s with perf := (countIssue s t).perf } :=
  perf_trans (countEvent_frame s 1 (tugOf t) 1 1 (t % 4)) (sampleTug_frame _ t)

@[simp] theorem countIssue_threads (s : State) (t : Nat) : (countIssue s t).threads = s.threads := by
  rw [countIssue_frame]
@[simp] theorem countIssue_cores (s : State) (t : Nat) : (countIssue s t).cores = s.cores := by
  rw [countIssue_frame]
@[simp] theorem countIssue_fields (s : State) (t : Nat) : (countIssue s t).fields = s.fields := by
  rw [countIssue_frame]
@[simp] theorem countIssue_mem (s : State) (t : Nat) : (countIssue s t).mem = s.mem := by
  rw [countIssue_frame]
@[simp] theorem countIssue_tide (s : State) (t : Nat) : (countIssue s t).tide = s.tide := by
  rw [countIssue_frame]
@[simp] theorem countIssue_cranes (s : State) (t : Nat) : (countIssue s t).cranes = s.cranes := by
  rw [countIssue_frame]
@[simp] theorem countIssue_free (s : State) (t : Nat) : (countIssue s t).free = s.free := by
  rw [countIssue_frame]
@[simp] theorem thread_countIssue (s : State) (t u : Nat) : thread (countIssue s t) u = thread s u := by
  simp [thread]
@[simp] theorem core_countIssue (s : State) (t k : Nat) : core (countIssue s t) k = core s k := by
  simp [core]
@[simp] theorem g_countIssue (s : State) (t u r : Nat) : g (countIssue s t) u r = g s u r := by
  simp [g]
@[simp] theorem v_countIssue (s : State) (t u r : Nat) : v (countIssue s t) u r = v s u r := by
  simp [v]
@[simp] theorem fget_countIssue (s : State) (t : Nat) (f : Field) : fget (countIssue s t) f = fget s f := by
  simp [fget]
theorem onlyTugs_trans {s u w : State} (h1 : onlyTugs s u) (h2 : onlyTugs u w) : onlyTugs s w := by
  unfold onlyTugs at *
  generalize u.perf = p at h1
  generalize u.threads = p2 at h1
  generalize u.cores = p3 at h1
  generalize w.perf = q at h2 ⊢
  generalize w.threads = q2 at h2 ⊢
  generalize w.cores = q3 at h2 ⊢
  subst h1
  exact h2

theorem onlyTugs_countIssue (s : State) (t : Nat) : onlyTugs s (countIssue s t) := by
  have h := countIssue_frame s t
  unfold onlyTugs
  simp only [countIssue_threads, countIssue_cores]
  exact h

theorem onlyTugs_setThread (s : State) (t : Nat) (x : Thread) : onlyTugs s (setThread s t x) := rfl
theorem onlyTugs_retireTo (s : State) (t : Nat) (pc : Word) : onlyTugs s (retireTo s t pc) := rfl

/-! Registers. -/

theorem gread_gwrite (th : Thread) (r q : Nat) (x : Word) :
    gread (gwrite th r x) q = if q = 0 then 0 else if q = r then x else gread th q := by
  by_cases hq : q = 0
  · simp [gread, hq]
  · by_cases hr : r = 0
    · have : q ≠ r := by omega
      simp [gwrite, gread, hr, hq]
    · simp [gwrite, hr, gread, hq, Tab.get_set]

theorem gwrite_frame (th : Thread) (r : Nat) (x : Word) : gwrite th r x = { th with g := (gwrite th r x).g } := by
  unfold gwrite; split <;> rfl

/-- A write of a g register: the register, and a load outstanding for it overtaken. -/
theorem thread_setG (s : State) (t r : Nat) (x : Word) :
    thread (setG s t r x) t = { gwrite (thread s t) r x with pendG := (thread s t).pendG.filter (fun q => decide (q ≠ r)) } := by
  unfold setG
  split
  · simp [overtake, thread, setThread, setCore]
  · rename_i h
    simp only [thread_setThread_self]
    have e : (thread s t).pendG.filter (fun q => decide (q ≠ r)) = (thread s t).pendG := by
      apply List.filter_eq_self.2
      intro a ha
      simp only [decide_eq_true_eq]
      intro e; subst e
      exact h (List.contains_iff_mem.2 ha)
    rw [e]
    conv => lhs; rw [gwrite_frame]
    conv => rhs; rw [gwrite_frame]

theorem thread_setG_other (s : State) {t w : Nat} (r : Nat) (x : Word) (h : w ≠ t) : thread (setG s t r x) w = thread s w := by
  unfold setG
  split
  · rw [thread_setThread_other _ _ h]; rfl
  · exact thread_setThread_other _ _ h

theorem onlyTugs_setG (s : State) (t r : Nat) (x : Word) : onlyTugs s (setG s t r x) := by
  unfold setG onlyTugs
  split <;> rfl

theorem coresKept_setG (s : State) (t r : Nat) (x : Word) : coresKept s (setG s t r x) := by
  intro k
  unfold setG
  split
  · by_cases hk : k = tugOf t
    · subst hk
      simp only [overtake, core, setThread, setCore, Tab.get_set_self, List.map_map, true_and]
      apply List.map_congr_left
      intro p _
      simp only [Function.comp, loseDest]
      split <;> rfl
    · simp [overtake, core, setThread, setCore, Tab.get_set, hk]
  · exact ⟨rfl, rfl, rfl⟩

@[simp] theorem thread_retireTo (s : State) (t : Nat) (pc : Word) :
    thread (retireTo s t pc) t = { thread s t with pc := pc, issued := (thread s t).issued + 1 } := by
  simp [retireTo]
theorem retire_eq (s : State) (t : Nat) : retire s t = retireTo s t ((thread s t).pc + 4) := rfl

/-- The whole effect of an instruction that writes one g register. -/
theorem wroteG_of (s : State) (t rd : Nat) (x pc : Word) :
    wroteG t rd x pc s (retireTo (setG (countIssue s t) t rd x) t pc) := by
  refine ⟨?_, ?_, ?_, ?_, ?_, ?_⟩
  · exact onlyTugs_trans (onlyTugs_trans (onlyTugs_countIssue s t) (onlyTugs_setG _ t rd x)) (onlyTugs_retireTo _ t pc)
  · intro w hw
    rw [retireTo, thread_setThread_other _ _ hw, thread_setG_other _ _ _ hw, thread_countIssue]
  · intro k
    have h := coresKept_setG (countIssue s t) t rd x k
    simp only [core_countIssue] at h
    exact h
  · simp only [g, thread_retireTo, thread_setG, thread_countIssue]
    have := gread_gwrite (thread s t) rd rd x
    simp only [gread] at this ⊢
    by_cases h : rd = 0
    · simp [h]
    · simpa [h] using this
  · intro r hr
    simp only [g, thread_retireTo, thread_setG, thread_countIssue]
    have := gread_gwrite (thread s t) rd r x
    simp only [gread] at this ⊢
    by_cases h : r = 0
    · simp [h]
    · simpa [h, hr] using this
  · simp only [thread_retireTo, thread_setG, thread_countIssue]
    rw [gwrite_frame]

/-- An instruction with its sources ready has its effect. -/
theorem issueWith_ready (t : Nat) (gs vs : List Nat) (f : State → State) (s : State) (h : canIssue s t gs vs = true) :
    issueWith t gs vs f s = .next (f (countIssue s t)) := by
  simp [issueWith, h]

end Sys2Proof.Machine
end

