-- ==== Sys2Proof/Certificates/Slice0/Obligations.lean ====
section
/-! DEFINITION. The statements for the provers, by the chapters of the manual. A statement names the spec's rules in its
docstring; what rests on a choice of the model says so. -/

section
open Sys2Proof Sys2Proof.Machine

/-! ### The whole machine -/

/-- A step takes the command at the front of the queue and runs it with the rest of the queue. -/
def Obligations.StepRunsTheCommandInFront : Prop :=
  ∀ (c : Instr) (rest : List Instr) (s : State), step { s with pending := c :: rest } = exec c { s with pending := rest }

/-- On an empty queue time passes (DESIGN CHOICE, assumption 4): once the Tide runs, its counter advances by one nanosecond
and the time of day by one nanosecond (R30, R33), three or four cycles of one clock and two or three of the other pass (R6),
and a thread whose tidewait was reached 3 Tide ns ago is woken (R96); only the counters of performance monitoring change
besides. Before, nothing happens. -/
def Obligations.AnEmptyQueueLetsTimePass : Prop :=
  ∀ s : State, s.pending = [] →
    (s.tide.running = false → step s = .next s) ∧
    (s.tide.running = true → ∃ u, step s = .next u ∧
      onlyTugs { s with
        tide := { s.tide with now := (s.tide.now + 1) % 2 ^ 64, tai := s.tide.tai + 1 }
        free := s.free + 10 } u ∧ u.cores = s.cores ∧
      (∀ t at_, (thread s t).waitOn = some (.tide at_) → at_.toNat + 3 ≤ (s.tide.now + 1) % 2 ^ 64 →
        (thread u t).waitOn = none ∧ ((thread u t).st = .run ∨ (thread u t).st = .ready) ∧
        (thread u t).pc = (thread s t).pc ∧ (thread u t).g = (thread s t).g) ∧
      (∀ t, (∀ at_, (thread s t).waitOn = some (.tide at_) → (s.tide.now + 1) % 2 ^ 64 < at_.toNat + 3) →
        thread u t = thread s t) ∧
      (u.perf.cc = s.perf.cc + 3 ∨ u.perf.cc = s.perf.cc + 4) ∧ (u.perf.tc = s.perf.tc + 2 ∨ u.perf.tc = s.perf.tc + 3) ∧
      (s.perf.run = false → u.perf.ctr = s.perf.ctr ∧ u.perf.ovf = s.perf.ovf))

/-- Every command answers a next state, but for an input voltage outside the rating (R421): above 72 V, or reversed beyond
60 V. There the run ends in the fault that says so. -/
def Obligations.EveryCommandAnswersANextState : Prop :=
  ∀ (c : Instr) (s : State),
    ((∀ v b, c = .inputOvervoltage v b → v ≤ 7200) → (∀ v, c = .reversePolarity v → v ≤ 6000) → runs (exec c s)) ∧
    (∀ v b, c = .inputOvervoltage v b → 7200 < v → exec c s = .fault .outsideRating) ∧
    (∀ v, c = .reversePolarity v → 6000 < v → exec c s = .fault .outsideRating)

/-- Right after reset (R13, R73, R436): every field of every control register holds the value of its Reset column, of which
some are written out; no thread runs, no power is applied, and memory is in its canonical form. That a byte which nothing
has written reads as zero is the model's choice (assumption 2). -/
def Obligations.ResetLeavesTheTablesValues : Prop :=
  State.reset.pending = [] ∧ memWf State.reset ∧ (∀ a, memByte State.reset a = 0) ∧
  (∀ f : Field, fget State.reset f = f.rst) ∧
  fget State.reset F.tideStateLockState = 0 ∧ fget State.reset F.tideStateParentPort = 0x3F ∧
  fget State.reset F.tideStateHops = 0x3F ∧ fget State.reset F.tideCfgSteerLimitPpb = 2000 ∧
  fget State.reset F.pwrRampFloor = 13 ∧ fget State.reset F.pwrRampStepUs = 1000 ∧
  fget State.reset F.errSecureSecuredStep = 0xFFFFFFFF ∧ fget State.reset F.perfSampCtlPeriod = 0x10000 ∧
  (∀ u, u < 16 → fget State.reset (F.craneStatusFgRetired u) = 0xFFFFFFFF ∧ fget State.reset (F.craneStateBgFree u) = 64) ∧
  (∀ p, p < 32 → fget State.reset (F.quayPortStateLaneOut p) = 8 ∧ fget State.reset (F.quayPortStateState p) = 0) ∧
  (∀ t, (thread State.reset t).st = .parked ∧ ∀ r, g State.reset t r = 0) ∧
  State.reset.sec.powered = false ∧ State.reset.tide.running = false ∧ State.reset.job.st = 0

/-- Every step keeps memory in its canonical form: addresses strictly rising, and no byte listed that equals what an
unlisted one reads as. -/
def Obligations.EveryStepKeepsMemoryCanonical : Prop :=
  ∀ s u : State, memWf s → step s = .next u → memWf u

/-- REGISTER_WRITE (R12, R14, R15, Table 00-3) on a register whose fields have no behaviour of their own: each bit of each
field takes what its access code gives; a set of a W1C bit and a set by a write win over a clear in the same cycle; no other
field and nothing else changes. A job's write that can act on no bit is counted as a violation (R99, R101). -/
def Obligations.RegisterWritesFollowTheAccessCodes : Prop :=
  (∀ (who : Agent) (off : BitVec 26) (bytes : Nat) (value hwSet hwClear : Word) (s : State),
    accessOk who off.toNat bytes = true → plainRegister off.toNat = true →
    (∀ t, who = .job t → jobMayWrite s off.toNat bytes = true) →
    ∃ u, exec (.registerWrite who off bytes value hwSet hwClear) s = .next u ∧ u = { s with fields := u.fields } ∧
      (∀ f, fieldKey f ∉ (regFields off.toNat).map fieldKey → fget u f = fget s f) ∧
      ∀ f ∈ regFields off.toNat, ∀ i, i < f.w →
        (let b := f.lo + i
         let k := 8 * (off.toNat % 8)
         let m := decide (k ≤ b ∧ b < k + 8 * bytes)
         let v := value.getLsbD (b - k)
         let old := (fget s f).testBit i
         (fget u f).testBit i = match f.acc with
           | .ro => old
           | .wo => old
           | .rw => if m then v else old
           | .fw => if m && decide (who = .fw) then v else old
           | .w1c => (old && !(m && v)) || hwSet.getLsbD b
           | .w1s => (m && v) || (old && !hwClear.getLsbD b))) ∧
  (∀ (t : Tid) (off : BitVec 26) (bytes : Nat) (value hwSet hwClear : Word) (s : State),
    accessOk (.job t) off.toNat bytes = true → jobMayWrite s off.toNat bytes = false →
    exec (.registerWrite (.job t) off bytes value hwSet hwClear) s = .next (violation s t.val 1 (ctlBase + off.toNat)))

/-- A step-fatal or module-fatal event (R377 to R379, R472, Table 14-1): its class is seen, ERR_FIRST keeps the first and
ERR_FATALS counts the others; with no job live nothing else happens; a live job ends with cause 6 and a copy of ERR_FIRST,
its threads parked and its entries and flips dropped, firmware's threads going on, and a module-fatal event disables every
port. -/
def Obligations.FatalEventsAreCapturedAndEndTheJob : Prop :=
  ∀ (s : State) (source die unit : Nat), 0x20 ≤ source → source < 0x40 → die < 2 → unit < 64 →
    fget (fatal s source die unit) F.errClsSeen = (fget s F.errClsSeen ||| (if source < 0x30 then 4 else 8)) % 16 ∧
    (flag s F.errFirstValid = false →
      fget (fatal s source die unit) F.errFirstSource = source ∧ fget (fatal s source die unit) F.errFirstDie = die ∧
      fget (fatal s source die unit) F.errFirstUnit = unit ∧ flag (fatal s source die unit) F.errFirstValid = true ∧
      fget (fatal s source die unit) F.errFatalsFatals = fget s F.errFatalsFatals) ∧
    (flag s F.errFirstValid = true →
      fget (fatal s source die unit) F.errFatalsFatals = min (fget s F.errFatalsFatals + 1) (2 ^ F.errFatalsFatals.w - 1) ∧
      fget (fatal s source die unit) F.errFirstSource = fget s F.errFirstSource) ∧
    (jobLive s = false → ∃ u, fatal s source die unit = u ∧ u = { s with fields := u.fields } ∧
      ∀ p, p < 32 → fget u (F.quayPortStateState p) = fget s (F.quayPortStateState p)) ∧
    (jobLive s = true → ∃ u, fatal s source die unit = u ∧
      u.job.st = 6 ∧ u.job.endCause = 6 ∧ u.job.stopped = true ∧ u.job.endDetail = regWord u errFirstFields ∧
      u.job.jobId = s.job.jobId ∧ u.tide.due = [] ∧ u.ledger.flips = [] ∧ u.tide.now = s.tide.now ∧ u.cranes = s.cranes ∧
      (∀ t, isJobThread t = true → (thread u t).st = .parked ∧ (thread u t).waitOn = none ∧ (thread u t).pc = (thread s t).pc ∧
        (thread u t).g = (thread s t).g ∧ (thread u t).v = (thread s t).v) ∧
      (∀ t, isJobThread t = false → thread u t = thread s t) ∧
      (∀ p, p < 32 → fget u (F.quayPortStateState p) = if 0x30 ≤ source then 6 else fget s (F.quayPortStateState p)))

/-! ### Tug instructions -/

/-- Three-register integer instructions (Table 03-7, R79): with its sources ready, the instruction whose word was fetched
writes the stated function of g[ra] and g[rb] to g[rd], goes on at the next word, and changes nothing else, but that the
line of its word is the most recently used of the instruction cache. Integer instructions with an immediate or one source
(Tables 03-6 and 03-7, R75): the immediate is sign-extended for addi and slti, zero-extended for the logical ones and lsh16;
shi shifts by its low six bits in the way bits [7:6] name. clz and ctz count the zero bits above the highest and below the
lowest one bit, 64 for zero; popc counts the one bits. -/
def Obligations.IntegerInstructionsWriteTheirResult : Prop :=
  (
  ∀ p ∈ ([(.add, fun a b => a + b), (.sub, fun a b => a - b), (.and, fun a b => a &&& b), (.or, fun a b => a ||| b),
      (.xor, fun a b => a ^^^ b), (.sll, fun a b => a <<< (b.toNat % 64)), (.srl, fun a b => a >>> (b.toNat % 64)),
      (.sra, fun a b => a.sshiftRight (b.toNat % 64)),
      (.slt, fun a b => if a.toInt < b.toInt then 1 else 0), (.sltu, fun a b => if a.toNat < b.toNat then 1 else 0),
      (.min, fun a b => if a.toInt < b.toInt then a else b), (.max, fun a b => if a.toInt < b.toInt then b else a),
      (.minu, fun a b => if a.toNat < b.toNat then a else b), (.maxu, fun a b => if a.toNat < b.toNat then b else a),
      (.mul, fun a b => BitVec.ofInt 64 (a.toInt * b.toInt)),
      (.mulh, fun a b => BitVec.ofInt 64 (a.toInt * b.toInt / 2 ^ 64)),
      (.mulhu, fun a b => BitVec.ofNat 64 (a.toNat * b.toNat / 2 ^ 64)),
      (.div, fun a b => if b = 0 then BitVec.allOnes 64 else BitVec.ofInt 64 (a.toInt.tdiv b.toInt)),
      (.divu, fun a b => if b = 0 then BitVec.allOnes 64 else BitVec.ofNat 64 (a.toNat / b.toNat)),
      (.rem, fun a b => if b = 0 then a else BitVec.ofInt 64 (a.toInt.tmod b.toInt)),
      (.remu, fun a b => if b = 0 then a else BitVec.ofNat 64 (a.toNat % b.toNat)),
      (.addw, fun a b => ((a + b).setWidth 32).signExtend 64), (.subw, fun a b => ((a - b).setWidth 32).signExtend 64)]
      : List ((Tid → RegIx → RegIx → RegIx → Instr) × (Word → Word → Word))),
    ∀ (t : Tid) (rd ra rb : RegIx) (s : State), issues (p.1 t rd ra rb) t [ra.val, rb.val] [] s →
      ∃ u, exec (p.1 t rd ra rb) s = .next u ∧
        wroteG t.val rd.val (p.2 (g s t.val ra.val) (g s t.val rb.val)) ((thread s t.val).pc + 4) (useLine s t.val) u
  ) ∧
  (
  (∀ p ∈ ([(.addi, fun a i => a + i.signExtend 64), (.andi, fun a i => a &&& i.zeroExtend 64),
      (.ori, fun a i => a ||| i.zeroExtend 64), (.xori, fun a i => a ^^^ i.zeroExtend 64),
      (.slti, fun a i => if a.toInt < i.toInt then 1 else 0), (.lsh16, fun a i => (a <<< 16) ||| i.zeroExtend 64)]
      : List ((Tid → RegIx → RegIx → BitVec 16 → Instr) × (Word → BitVec 16 → Word))),
    ∀ (t : Tid) (rd ra : RegIx) (imm : BitVec 16) (s : State), issues (p.1 t rd ra imm) t [ra.val] [] s →
      ∃ u, exec (p.1 t rd ra imm) s = .next u ∧
        wroteG t.val rd.val (p.2 (g s t.val ra.val) imm) ((thread s t.val).pc + 4) (useLine s t.val) u) ∧
  (∀ (t : Tid) (rd : RegIx) (imm : BitVec 16) (s : State), issues (.lui t rd imm) t [] [] s →
      ∃ u, exec (.lui t rd imm) s = .next u ∧
        wroteG t.val rd.val (BitVec.ofInt 64 (imm.toInt * 65536)) ((thread s t.val).pc + 4) (useLine s t.val) u) ∧
  (∀ (t : Tid) (rd ra : RegIx) (imm : BitVec 16) (s : State), issues (.shi t rd ra imm) t [ra.val] [] s → imm.toNat < 192 →
      ∃ u, exec (.shi t rd ra imm) s = .next u ∧
        wroteG t.val rd.val
          (if imm.toNat / 64 = 0 then g s t.val ra.val <<< (imm.toNat % 64)
           else if imm.toNat / 64 = 1 then g s t.val ra.val >>> (imm.toNat % 64)
           else (g s t.val ra.val).sshiftRight (imm.toNat % 64)) ((thread s t.val).pc + 4) (useLine s t.val) u)
  ) ∧
  (
  ∀ (t : Tid) (rd ra : RegIx) (s : State),
    (issues (.clz t rd ra) t [ra.val] [] s → ∃ u n, exec (.clz t rd ra) s = .next u ∧ wroteG t.val rd.val (BitVec.ofNat 64 n) ((thread s t.val).pc + 4) (useLine s t.val) u ∧
      n ≤ 64 ∧ (g s t.val ra.val).toNat < 2 ^ (64 - n) ∧ (n < 64 → 2 ^ (63 - n) ≤ (g s t.val ra.val).toNat)) ∧
    (issues (.ctz t rd ra) t [ra.val] [] s → ∃ u n, exec (.ctz t rd ra) s = .next u ∧ wroteG t.val rd.val (BitVec.ofNat 64 n) ((thread s t.val).pc + 4) (useLine s t.val) u ∧
      (g s t.val ra.val = 0 → n = 64) ∧
      (g s t.val ra.val ≠ 0 → n < 64 ∧ (g s t.val ra.val).getLsbD n = true ∧ ∀ i, i < n → (g s t.val ra.val).getLsbD i = false)) ∧
    (issues (.popc t rd ra) t [ra.val] [] s → ∃ u, exec (.popc t rd ra) s = .next u ∧
      wroteG t.val rd.val (BitVec.ofNat 64 ((List.range 64).countP (fun i => (g s t.val ra.val).getLsbD i)))
        ((thread s t.val).pc + 4) (useLine s t.val) u)
  )

/-- Branches and jumps (Table 03-6): the target is the instruction's address plus four times the offset; jal and jalr leave
the address of the next word in their link register; jalr clears bits [1:0] of its target, read before the link is written.
A branch writes no register. The line of an instruction's word becomes the most recently used of the instruction cache
(R68): no line that the cache holds changes, and nothing else does. -/
def Obligations.BranchesAndJumps : Prop :=
  (
  (∀ p ∈ ([(.beq, fun a b => decide (a = b)), (.bne, fun a b => decide (a ≠ b)), (.blt, fun a b => decide (a.toInt < b.toInt)),
      (.bge, fun a b => decide (b.toInt ≤ a.toInt)), (.bltu, fun a b => decide (a.toNat < b.toNat)),
      (.bgeu, fun a b => decide (b.toNat ≤ a.toNat))]
      : List ((Tid → RegIx → RegIx → BitVec 16 → Instr) × (Word → Word → Bool))),
    ∀ (t : Tid) (ra rb : RegIx) (imm : BitVec 16) (s : State), issues (p.1 t ra rb imm) t [ra.val, rb.val] [] s →
      ∃ u, exec (p.1 t ra rb imm) s = .next u ∧ onlyTugs s u ∧ u.cores = (useLine s t.val).cores ∧ otherThreads t.val s u ∧
        thread u t.val = { thread s t.val with
          pc := if p.2 (g s t.val ra.val) (g s t.val rb.val) then (thread s t.val).pc + BitVec.ofInt 64 (imm.toInt * 4)
            else (thread s t.val).pc + 4
          issued := (thread s t.val).issued + 1 }) ∧
  (∀ (t : Tid) (imm : BitVec 26) (s : State),
      (issues (.j t imm) t [] [] s → ∃ u, exec (.j t imm) s = .next u ∧ onlyTugs s u ∧ u.cores = (useLine s t.val).cores ∧ otherThreads t.val s u ∧
        thread u t.val = { thread s t.val with
          pc := (thread s t.val).pc + BitVec.ofInt 64 (imm.toInt * 4)
          issued := (thread s t.val).issued + 1 }) ∧
      (issues (.jal t imm) t [] [] s → ∃ u, exec (.jal t imm) s = .next u ∧
        wroteG t.val 31 ((thread s t.val).pc + 4) ((thread s t.val).pc + BitVec.ofInt 64 (imm.toInt * 4)) (useLine s t.val) u)) ∧
  (∀ (t : Tid) (rd ra : RegIx) (imm : BitVec 16) (s : State), issues (.jalr t rd ra imm) t [ra.val] [] s →
      ∃ u, exec (.jalr t rd ra imm) s = .next u ∧
        wroteG t.val rd.val ((thread s t.val).pc + 4) ((g s t.val ra.val + imm.signExtend 64) &&& ~~~3#64) (useLine s t.val) u)
  ) ∧
  (
  ∀ (s : State) (t : Nat),
    (useLine s t = s ∨ ∃ l, useLine s t = setCore s (t / 4) { core s (t / 4) with icache := l }) ∧
    ∀ k n, icacheLine (core (useLine s t) k) n = icacheLine (core s k) n
  )

/-- Scalar arithmetic (Table 03-9, R81): with its sources ready the instruction writes the exact result rounded once to
nearest even and adds the flags of the rounding to FSTAT; a NaN operand gives NaN without a flag, an invalid operation gives
NaN and sets invalid, and a finite nonzero value over zero gives the infinity of the quotient's sign and sets saturated
alone. A binary32 leaves bits [63:32] zero. Minimum, maximum, comparisons and conversions (Table 03-9): min and max return
the operand that is no NaN, order −0 below +0 and set no flag; feq is quiet and flt and fle set invalid for a NaN;
conversions to a floating-point format round to nearest even and add the flags of the rounding. -/
def Obligations.ScalarFloatingPointRoundsOnce : Prop :=
  (
  (∀ p ∈ ([(.fadd, nadd), (.fsub, nsub), (.fmul, nmul)]
      : List ((Tid → FSize → RegIx → RegIx → RegIx → Instr) × (Machine.Num → Machine.Num → Machine.Num))),
    ∀ (t : Tid) (sz : FSize) (rd ra rb : RegIx) (s : State), issues (p.1 t sz rd ra rb) t [ra.val, rb.val] [] s →
      ∃ u r, exec (p.1 t sz rd ra rb) s = .next u ∧ wroteGF t.val rd.val (fpBits sz r.1) r.2 (useLine s t.val) u ∧
        roundedOnce (fpFmt sz) [fpRead sz (g s t.val ra.val), fpRead sz (g s t.val rb.val)]
          (p.2 (fpRead sz (g s t.val ra.val)) (fpRead sz (g s t.val rb.val))) r) ∧
  (∀ (t : Tid) (sz : FSize) (rd ra rb : RegIx) (s : State), issues (.fdiv t sz rd ra rb) t [ra.val, rb.val] [] s →
    (let a := fpRead sz (g s t.val ra.val)
     let b := fpRead sz (g s t.val rb.val)
     ∃ u r, exec (.fdiv t sz rd ra rb) s = .next u ∧ wroteGF t.val rd.val (fpBits sz r.1) r.2 (useLine s t.val) u ∧
       (isFinite a = true → isZero a = false → isZero b = true → r = (.inf (signOf a ^^ signOf b), flagSaturated)) ∧
       ((isFinite a = false ∨ isZero a = true ∨ isZero b = false) → roundedOnce (fpFmt sz) [a, b] (ndiv .inf a b) r))) ∧
  (∀ (t : Tid) (sz : FSize) (rd ra rb : RegIx) (s : State), issues (.fmadd t sz rd ra rb) t [rd.val, ra.val, rb.val] [] s →
    (let c := fpRead sz (g s t.val rd.val)
     let a := fpRead sz (g s t.val ra.val)
     let b := fpRead sz (g s t.val rb.val)
     ∃ u r, exec (.fmadd t sz rd ra rb) s = .next u ∧ wroteGF t.val rd.val (fpBits sz r.1) r.2 (useLine s t.val) u ∧
       roundedOnce (fpFmt sz) [c, a, b] (nadd c (nmul a b)) r)) ∧
  (∀ (t : Tid) (sz : FSize) (rd ra : RegIx) (s : State), issues (.fsqrt t sz rd ra) t [ra.val] [] s →
    (let a := fpRead sz (g s t.val ra.val)
     ∃ u r, exec (.fsqrt t sz rd ra) s = .next u ∧ wroteGF t.val rd.val (fpBits sz r.1) r.2 (useLine s t.val) u ∧
       roundedOnce (fpFmt sz) [a] (nsqrt a) r ∧ (∀ m e, a = .fin true m e → m ≠ 0 → r = (.nan, flagInvalid))))
  ) ∧
  (
  (∀ (t : Tid) (sz : FSize) (rd ra rb : RegIx) (s : State),
    (let a := fpRead sz (g s t.val ra.val)
     let b := fpRead sz (g s t.val rb.val)
     (issues (.fmin t sz rd ra rb) t [ra.val, rb.val] [] s →
        ∃ u x, exec (.fmin t sz rd ra rb) s = .next u ∧ wroteGF t.val rd.val (fpBits sz x) 0 (useLine s t.val) u ∧
        (isNan a = true → x = b) ∧ (isNan b = true → isNan a = false → x = a) ∧ (nlt a b = true → x = a) ∧ (nlt b a = true → x = b) ∧
        (neq a b = true → x = if signOf a then a else b)) ∧
     (issues (.fmax t sz rd ra rb) t [ra.val, rb.val] [] s →
        ∃ u x, exec (.fmax t sz rd ra rb) s = .next u ∧ wroteGF t.val rd.val (fpBits sz x) 0 (useLine s t.val) u ∧
        (isNan a = true → x = b) ∧ (isNan b = true → isNan a = false → x = a) ∧ (nlt a b = true → x = b) ∧ (nlt b a = true → x = a) ∧
        (neq a b = true → x = if signOf a then b else a)))) ∧
  (∀ (t : Tid) (rd ra rb : RegIx) (s : State),
    (let a := dec64 (g s t.val ra.val)
     let b := dec64 (g s t.val rb.val)
     let nan := isNan a || isNan b
     (issues (.feqD t rd ra rb) t [ra.val, rb.val] [] s →
        ∃ u, exec (.feqD t rd ra rb) s = .next u ∧ wroteGF t.val rd.val (if neq a b then 1 else 0) 0 (useLine s t.val) u) ∧
     (issues (.fltD t rd ra rb) t [ra.val, rb.val] [] s → ∃ u, exec (.fltD t rd ra rb) s = .next u ∧
        wroteGF t.val rd.val (if !nan && nlt a b then 1 else 0) (if nan then flagInvalid else 0) (useLine s t.val) u) ∧
     (issues (.fleD t rd ra rb) t [ra.val, rb.val] [] s → ∃ u, exec (.fleD t rd ra rb) s = .next u ∧
        wroteGF t.val rd.val (if !nan && (nlt a b || neq a b) then 1 else 0) (if nan then flagInvalid else 0) (useLine s t.val) u))) ∧
  (∀ (t : Tid) (rd ra : RegIx) (s : State),
    (let x := g s t.val ra.val
     (issues (.fcvtSD t rd ra) t [ra.val] [] s → ∃ u, exec (.fcvtSD t rd ra) s = .next u ∧
        wroteGF t.val rd.val ((enc32 (tugRound f32 (dec64 x)).1).setWidth 64) (tugRound f32 (dec64 x)).2 (useLine s t.val) u) ∧
     (issues (.fcvtDS t rd ra) t [ra.val] [] s → ∃ u, exec (.fcvtDS t rd ra) s = .next u ∧
        wroteGF t.val rd.val (enc64 (tugRound f64 (dec32 (x.setWidth 32))).1) (tugRound f64 (dec32 (x.setWidth 32))).2
          (useLine s t.val) u) ∧
     (issues (.fcvtDL t rd ra) t [ra.val] [] s → ∃ u, exec (.fcvtDL t rd ra) s = .next u ∧
        wroteGF t.val rd.val (enc64 (tugRound f64 (.fin (decide (x.toInt < 0)) x.toInt.natAbs 0)).1)
          (tugRound f64 (.fin (decide (x.toInt < 0)) x.toInt.natAbs 0)).2 (useLine s t.val) u) ∧
     (issues (.fcvtBfS t rd ra) t [ra.val] [] s → ∃ u, exec (.fcvtBfS t rd ra) s = .next u ∧
        wroteGF t.val rd.val ((encBf (tugRound bf16 (dec32 (x.setWidth 32))).1).setWidth 64)
          (tugRound bf16 (dec32 (x.setWidth 32))).2 (useLine s t.val) u)))
  )

/-- fcvt.l.d rounds to nearest even. A value whose rounded result lies outside the signed 64-bit range, the infinities
included, gives the nearest representable integer and sets saturated and inexact; one in range that is not an integer sets
inexact; a NaN gives 0 and sets invalid. Nothing else changes. -/
def Obligations.ConversionToIntegerRoundsAndSaturates : Prop :=
  ∀ (t : Tid) (rd ra : RegIx) (s : State), issues (.fcvtLD t rd ra) t [ra.val] [] s →
    (let x := dec64 (g s t.val ra.val)
     let sat := flagSaturated ||| flagInexact
     ∃ u i fl, exec (.fcvtLD t rd ra) s = .next u ∧ wroteGF t.val rd.val (BitVec.ofInt 64 i) fl (useLine s t.val) u ∧
       -2 ^ 63 ≤ i ∧ i < 2 ^ 63 ∧
       (x = .nan → i = 0 ∧ fl = flagInvalid) ∧
       (x = .inf false → i = 2 ^ 63 - 1 ∧ fl = sat) ∧
       (x = .inf true → i = -2 ^ 63 ∧ fl = sat) ∧
       (∀ q m e, x = .fin q m e →
         (let r := (roundUnits m e).1
          ((r < 2 ^ 63 ∨ (q = true ∧ r ≤ 2 ^ 63)) → i = (if q then -(r : Int) else (r : Int)) ∧
            fl = if (roundUnits m e).2 then flagInexact else 0) ∧
          (q = false → 2 ^ 63 ≤ r → i = 2 ^ 63 - 1 ∧ fl = sat) ∧
          (q = true → 2 ^ 63 < r → i = -2 ^ 63 ∧ fl = sat))))

/-- Element-wise SIMD (Table 03-10, R83, R84): with its sources ready, each element of v[vd] takes the stated function of
the elements of its sources at the type's width, FSTAT takes the union of the elements' flags, and nothing else changes.
Integer elements, bitwise operations, shifts and vsel set no flag. -/
def Obligations.SimdElementsAreIndependent : Prop :=
  (∀ p ∈ ([(.vadd, (fun a b => a + b), tugAdd), (.vsub, (fun a b => a - b), tugSub), (.vmul, (fun a b => a * b), tugMul),
      (.vmin, (fun a b => min a b), (fun _ a b => (nmin a b, 0))), (.vmax, (fun a b => max a b), (fun _ a b => (nmax a b, 0)))]
      : List ((VOp → Instr) × (Int → Int → Int) × (Fmt → Machine.Num → Machine.Num → Machine.Num × BitVec 4))),
    ∀ (o : VOp) (s : State), o.et.toNat ≠ 7 → issues (p.1 o) o.t (secondG o) (secondV o) s →
      (let w := elemBits o.et.toNat
       let f := elemFmt o.et.toNat
       let a := fun i => elem w (v s o.t.val o.va.val) i
       let r := fun i => p.2.2 f (decode f (a i)) (decode f (secondElem s o w i))
       ∃ u x fl, exec (p.1 o) s = .next u ∧ wroteVF o.t.val o.vd.val x fl (useLine s o.t.val) u ∧
        (o.et.toNat < 4 → fl = 0 ∧ ∀ i, i < 256 / w →
          elem w x i = (p.2.1 (signedElem w (a i)) (signedElem w (secondElem s o w i)) % ((2 ^ w : Nat) : Int)).toNat) ∧
        (4 ≤ o.et.toNat → fl = orFlags (256 / w) (fun i => (r i).2) ∧ ∀ i, i < 256 / w → elem w x i = encode f (r i).1 % 2 ^ w))) ∧
  (∀ p ∈ ([(.vand, fun _ a b => a &&& b), (.vor, fun _ a b => a ||| b), (.vxor, fun _ a b => a ^^^ b),
      (.vshl, fun w a b => a * 2 ^ (b % w) % 2 ^ w), (.vshr, fun w a b => a / 2 ^ (b % w)),
      (.vsra, fun w a b => (signedElem w a / ((2 ^ (b % w) : Nat) : Int) % ((2 ^ w : Nat) : Int)).toNat)]
      : List ((VOp → Instr) × (Nat → Nat → Nat → Nat))),
    ∀ (o : VOp) (s : State), o.et.toNat ≠ 7 → issues (p.1 o) o.t (secondG o) (secondV o) s →
      ∃ u x, exec (p.1 o) s = .next u ∧ wroteVF o.t.val o.vd.val x 0 (useLine s o.t.val) u ∧
        ∀ i, i < 256 / elemBits o.et.toNat →
          elem (elemBits o.et.toNat) x i = p.2 (elemBits o.et.toNat)
            (elem (elemBits o.et.toNat) (v s o.t.val o.va.val) i) (secondElem s o (elemBits o.et.toNat) i)) ∧
  (∀ p ∈ ([(.vceq, (fun a b => decide (a = b)), (fun a b => (neq a b, 0))), (.vclt, (fun a b => decide (a < b)), tugLess false),
      (.vcle, (fun a b => decide (a ≤ b)), tugLess true)]
      : List ((VOp → Instr) × (Int → Int → Bool) × (Machine.Num → Machine.Num → Bool × BitVec 4))),
    ∀ (o : VOp) (s : State), o.et.toNat ≠ 7 → issues (p.1 o) o.t (secondG o) (secondV o) s →
      (let w := elemBits o.et.toNat
       let f := elemFmt o.et.toNat
       let a := fun i => elem w (v s o.t.val o.va.val) i
       let r := fun i => if 4 ≤ o.et.toNat then p.2.2 (decode f (a i)) (decode f (secondElem s o w i))
         else (p.2.1 (signedElem w (a i)) (signedElem w (secondElem s o w i)), 0)
       ∃ u x, exec (p.1 o) s = .next u ∧ wroteVF o.t.val o.vd.val x (orFlags (256 / w) (fun i => (r i).2)) (useLine s o.t.val) u ∧
        ∀ i, i < 256 / w → elem w x i = if (r i).1 then 2 ^ w - 1 else 0)) ∧
  (∀ (o : VOp) (s : State), 4 ≤ o.et.toNat → o.et.toNat ≠ 7 →
    (let w := elemBits o.et.toNat
     let f := elemFmt o.et.toNat
     let a := fun i => decode f (elem w (v s o.t.val o.va.val) i)
     let b := fun i => decode f (secondElem s o w i)
     let d := fun i => decode f (elem w (v s o.t.val o.vd.val) i)
     let gives := fun (i : Instr) (r : Nat → Machine.Num × BitVec 4) => ∃ u x, exec i s = .next u ∧
       wroteVF o.t.val o.vd.val x (orFlags (256 / w) (fun i => (r i).2)) (useLine s o.t.val) u ∧
       ∀ i, i < 256 / w → elem w x i = encode f (r i).1 % 2 ^ w
     (issues (.vdiv o) o.t (secondG o) (secondV o) s → gives (.vdiv o) (fun i => tugDiv f (a i) (b i))) ∧
     (issues (.vsqrt o) o.t [] [o.va.val] s → gives (.vsqrt o) (fun i => tugSqrt f (a i))) ∧
     (issues (.vfma o) o.t (secondG o) (o.vd.val :: secondV o) s → gives (.vfma o) (fun i => tugFma f (d i) (a i) (b i))))) ∧
  (∀ (o : VOp) (s : State), o.et.toNat ≠ 7 → issues (.vsel o) o.t (secondG o) (o.vd.val :: secondV o) s →
    ∃ u x, exec (.vsel o) s = .next u ∧ wroteVF o.t.val o.vd.val x 0 (useLine s o.t.val) u ∧
      ∀ i, i < 256 / elemBits o.et.toNat →
        elem (elemBits o.et.toNat) x i =
          if elem (elemBits o.et.toNat) (v s o.t.val o.vd.val) i % 2 = 1 then elem (elemBits o.et.toNat) (v s o.t.val o.va.val) i
          else secondElem s o (elemBits o.et.toNat) i) ∧
  (∀ (f : Fmt) (a b c : Machine.Num),
    roundedOnce f [a, b] (nadd a b) (tugAdd f a b) ∧ roundedOnce f [a, b] (nsub a b) (tugSub f a b) ∧
    roundedOnce f [a, b] (nmul a b) (tugMul f a b) ∧ roundedOnce f [c, a, b] (nadd c (nmul a b)) (tugFma f c a b) ∧
    roundedOnce f [a] (nsqrt a) (tugSqrt f a) ∧
    ((isFinite a = false ∨ isZero a = true ∨ isZero b = false) → roundedOnce f [a, b] (ndiv .inf a b) (tugDiv f a b)) ∧
    (isFinite a = true → isZero a = false → isZero b = true → tugDiv f a b = (.inf (signOf a ^^ signOf b), flagSaturated)))

/-- SIMD moves, reductions and conversions (Table 03-10, R83 to R85): vperm picks bytes, vbcast copies a g register's low
bits, vext sign-extends one element and gives zero beyond the last, the reductions combine elements 2k and 2k + 1 level by
level into element 0, vredadd leaving zero in the others, and vcvt converts element by element. What vredmax leaves in the
other elements, and what vcvt leaves in an element without a stated result, is some value (assumptions 20 and 76). Packs and
unpacks (R84, R86, R142, R145): a block factor of 0x00 gives zeros, 0xFF zeros with invalid set; otherwise each of the eight
elements is divided by 2^(e8 − 127) and converted, vpack8gs with the draw of its index, and the unpacks multiply; FSTAT
takes the union of the elements' flags. That an inexact pack sets inexact is the model's reading (assumption 20). -/
def Obligations.SimdMovesReductionsConversions : Prop :=
  (
  (∀ (o : VOp) (s : State), o.et.toNat ≠ 7 →
    (issues (.vperm o) o.t (secondG o) (secondV o) s →
      ∃ u x, exec (.vperm o) s = .next u ∧ wroteVF o.t.val o.vd.val x 0 (useLine s o.t.val) u ∧
        ∀ j, j < 32 → elem 8 x j = elem 8 (v s o.t.val o.va.val) (secondElem s o 8 j % 32)) ∧
    (issues (.vbcast o) o.t [o.va.val] [] s →
      ∃ u x, exec (.vbcast o) s = .next u ∧ wroteVF o.t.val o.vd.val x 0 (useLine s o.t.val) u ∧
        ∀ i, i < 256 / elemBits o.et.toNat →
          elem (elemBits o.et.toNat) x i = (g s o.t.val o.va.val).toNat % 2 ^ elemBits o.et.toNat) ∧
    (issues (.vext o) o.t [o.vb.val] [o.va.val] s →
      ∃ u, exec (.vext o) s = .next u ∧
        wroteG o.t.val o.vd.val
          (if (g s o.t.val o.vb.val).toNat % 32 < 256 / elemBits o.et.toNat then
            BitVec.ofInt 64 (signedElem (elemBits o.et.toNat)
              (elem (elemBits o.et.toNat) (v s o.t.val o.va.val) ((g s o.t.val o.vb.val).toNat % 32)))
           else 0) ((thread s o.t.val).pc + 4) (useLine s o.t.val) u)) ∧
  (∀ (o : VOp) (s : State), o.et.toNat < 4 →
    (let w := elemBits o.et.toNat
     let e := fun i => signedElem w (elem w (v s o.t.val o.va.val) i)
     (issues (.vredadd o) o.t [] [o.va.val] s →
      ∃ u x, exec (.vredadd o) s = .next u ∧ wroteVF o.t.val o.vd.val x 0 (useLine s o.t.val) u ∧
        elem w x 0 = (((List.range (256 / w)).map e).sum % ((2 ^ w : Nat) : Int)).toNat ∧
        ∀ i, 1 ≤ i → i < 256 / w → elem w x i = 0) ∧
     (issues (.vredmax o) o.t [] [o.va.val] s →
      ∃ u x, exec (.vredmax o) s = .next u ∧ wroteVF o.t.val o.vd.val x 0 (useLine s o.t.val) u ∧
        (∃ i, i < 256 / w ∧ signedElem w (elem w x 0) = e i) ∧ (∀ i, i < 256 / w → e i ≤ signedElem w (elem w x 0))))) ∧
  (∀ (o : VOp) (s : State), 4 ≤ o.et.toNat → o.et.toNat ≠ 7 →
    (let w := elemBits o.et.toNat
     let n := Nat.log2 (256 / w)
     let f := elemFmt o.et.toNat
     let e := fun i => decode f (elem w (v s o.t.val o.va.val) i)
     let add := fun a b => decode f (encode f (tugAdd f a b).1)
     let flags := fun j k => (tugAdd f (level add e j (2 * k)) (level add e j (2 * k + 1))).2
     (issues (.vredadd o) o.t [] [o.va.val] s →
      ∃ u x, exec (.vredadd o) s = .next u ∧
        wroteVF o.t.val o.vd.val x (orFlags n (fun j => orFlags (256 / w / 2 ^ (j + 1)) (flags j))) (useLine s o.t.val) u ∧
        decode f (elem w x 0) = level add e n 0 ∧ ∀ i, 1 ≤ i → i < 256 / w → elem w x i = 0) ∧
     (issues (.vredmax o) o.t [] [o.va.val] s →
      ∃ u x, exec (.vredmax o) s = .next u ∧ wroteVF o.t.val o.vd.val x 0 (useLine s o.t.val) u ∧
        decode f (elem w x 0) = level (fun a b => decode f (encode f (nmax a b))) e n 0))) ∧
  (∀ (o : VOp) (s : State), o.et.toNat ≠ 7 → o.vb.val % 8 ≠ 7 → issues (.vcvt o) o.t [] [o.va.val] s →
    (let src := o.vb.val % 8
     let w := elemBits o.et.toNat
     let e := fun i => elem (elemBits src) (v s o.t.val o.va.val) i
     ∃ u x fl, exec (.vcvt o) s = .next u ∧ wroteVF o.t.val o.vd.val x fl (useLine s o.t.val) u ∧
       (4 ≤ src → 4 ≤ o.et.toNat →
         fl = orFlags (min (256 / w) (256 / elemBits src)) (fun i => (tugRound (elemFmt o.et.toNat) (decode (elemFmt src) (e i))).2)) ∧
       (4 ≤ src → o.et.toNat < 4 →
         fl = orFlags (min (256 / w) (256 / elemBits src)) (fun i => (toSigned w (decode (elemFmt src) (e i))).2)) ∧
       (src < 4 → 4 ≤ o.et.toNat → fl = orFlags (min (256 / w) (256 / elemBits src))
         (fun i => (tugRound (elemFmt o.et.toNat) (numOfInt (signedElem (elemBits src) (e i)))).2)) ∧
       (src < 4 → o.et.toNat < 4 → fl = 0) ∧
       ∀ i, i < 256 / w → i < 256 / elemBits src →
         ((4 ≤ src ∧ 4 ≤ o.et.toNat →
            elem w x i = encode (elemFmt o.et.toNat) (tugRound (elemFmt o.et.toNat) (decode (elemFmt src) (e i))).1 % 2 ^ w) ∧
          (4 ≤ src ∧ o.et.toNat < 4 → elem w x i = ((toSigned w (decode (elemFmt src) (e i))).1 % ((2 ^ w : Nat) : Int)).toNat) ∧
          (src < 4 ∧ 4 ≤ o.et.toNat →
            elem w x i = encode (elemFmt o.et.toNat) (tugRound (elemFmt o.et.toNat) (numOfInt (signedElem (elemBits src) (e i)))).1 % 2 ^ w) ∧
          (src < 4 ∧ o.et.toNat < 4 → -((2 ^ (w - 1) : Nat) : Int) ≤ signedElem (elemBits src) (e i) →
            signedElem (elemBits src) (e i) < ((2 ^ (w - 1) : Nat) : Int) →
            signedElem w (elem w x i) = signedElem (elemBits src) (e i)))))
  ) ∧
  (
  (∀ p ∈ ([.vpack8e, .vpack8g, .vpack8gs, .vunpack8e, .vunpack8g] : List (VOp → Instr)),
    ∀ (o : VOp) (s : State), o.et.toNat ≠ 7 → issues (p o) o.t [o.vb.val] [o.va.val] s →
      ((g s o.t.val o.vb.val).toNat % 256 = 0 → ∃ u, exec (p o) s = .next u ∧ wroteVF o.t.val o.vd.val 0 0 (useLine s o.t.val) u) ∧
      ((g s o.t.val o.vb.val).toNat % 256 = 255 →
        ∃ u, exec (p o) s = .next u ∧ wroteVF o.t.val o.vd.val 0 flagInvalid (useLine s o.t.val) u)) ∧
  (∀ (o : VOp) (s : State), o.et.toNat ≠ 7 →
    (let gb := g s o.t.val o.vb.val
     let e8 := gb.toNat % 256
     let q := fun i => nscale (decode f32 (elem 32 (v s o.t.val o.va.val) i)) (127 - (e8 : Int))
     let c := fun g i => nscale (decode (if g then yf8g else yf8e) (elem 8 (v s o.t.val o.va.val) i)) ((e8 : Int) - 127)
     let draws := fun i => Rnd.stoch (drawLow16 (draw s.job.seed (thread s o.t.val).skey 1 (gb.toNat / 256 + i)))
     let packs := fun (p : VOp → Instr) (r : Nat → Byte × BitVec 4) => issues (p o) o.t [o.vb.val] [o.va.val] s →
       ∃ u x, exec (p o) s = .next u ∧ wroteVF o.t.val o.vd.val x (orFlags 8 (fun i => (r i).2)) (useLine s o.t.val) u ∧
         ∀ i, i < 32 → elem 8 x i = if i < 8 then (r i).1.toNat else 0
     let unpacks := fun (p : VOp → Instr) (r : Nat → Machine.Num × BitVec 4) => issues (p o) o.t [o.vb.val] [o.va.val] s →
       ∃ u x, exec (p o) s = .next u ∧ wroteVF o.t.val o.vd.val x (orFlags 8 (fun i => (r i).2)) (useLine s o.t.val) u ∧
         ∀ i, i < 8 → elem 32 x i = encode f32 (r i).1 % 2 ^ 32
     e8 ≠ 0 → e8 ≠ 255 →
     packs .vpack8e (fun i => packElement false .rne (q i)) ∧
     packs .vpack8g (fun i => packElement true .rne (q i)) ∧
     packs .vpack8gs (fun i => packElement true (draws i) (q i)) ∧
     unpacks .vunpack8e (fun i => tugRound f32 (c false i)) ∧
     unpacks .vunpack8g (fun i => tugRound f32 (c true i))))
  )

/-- Illegal instructions (R76, R83, R102, Table 03-17): a word that no instruction has, the zero word and a fetch that is
not permitted, a SIMD word with type 7, a float-only one with an integer type, shi with imm16[7:6] = 3 or a bit above 7, and
fence with a bit above 4 park the thread with its pc at the instruction, capture the first fault of the die, and, on a
firmware thread, raise source 0x32. Firmware's fetch of the zero word outside the populated windows is counted (R270). -/
def Obligations.IllegalInstructionsParkTheThread : Prop :=
  (∀ p ∈ ([.vadd, .vsub, .vmul, .vmin, .vmax, .vand, .vor, .vxor, .vshl, .vshr, .vsra, .vceq, .vclt, .vcle, .vsel, .vredadd,
      .vredmax, .vcvt, .vpack8e, .vpack8g, .vpack8gs, .vunpack8e, .vunpack8g, .vperm, .vbcast, .vext, .vfma, .vdiv, .vsqrt]
      : List (VOp → Instr)),
    ∀ (o : VOp) (s : State), o.et.toNat = 7 → atInstr (p o) o.t s = true →
      exec (p o) s = .next (illegal (useLine s o.t.val) o.t.val 1)) ∧
  (∀ p ∈ ([.vfma, .vdiv, .vsqrt] : List (VOp → Instr)),
    ∀ (o : VOp) (s : State), o.et.toNat < 4 → atInstr (p o) o.t s = true →
      exec (p o) s = .next (illegal (useLine s o.t.val) o.t.val 1)) ∧
  (∀ (t : Tid) (rd ra : RegIx) (imm : BitVec 16) (s : State), 192 ≤ imm.toNat → atInstr (.shi t rd ra imm) t s = true →
    exec (.shi t rd ra imm) s = .next (illegal (useLine s t.val) t.val 1)) ∧
  (∀ (t : Tid) (imm : BitVec 12) (s : State), 32 ≤ imm.toNat → atInstr (.fence t imm) t s = true →
    exec (.fence t imm) s = .next (illegal (useLine s t.val) t.val 1)) ∧
  (∀ p ∈ ([(.reserved, 1), (.zeroWord, 2), (.fetchDenied, 3)] : List (IllCause × Nat)),
    ∀ (t : Tid) (s : State), atInstr (.ill t p.1) t s = true →
      exec (.ill t p.1) s = .next (illegal
        (if (thread s t.val).fw = true ∧ windowOf (thread s t.val).pc.toNat ≠ .control ∧
            populatedRange s (thread s t.val).pc.toNat 4 = false
          then countNowin (useLine s t.val) else useLine s t.val) t.val p.2)) ∧
  (∀ (t : Tid) (s : State) (cause : Nat), cause < 4 → (thread s t.val).fw = false →
    thread (illegal s t.val cause) t.val = { thread s t.val with st := .parked, waitOn := none, held := none } ∧
    (illegal s t.val cause).mem = s.mem ∧ (illegal s t.val cause).job = s.job ∧
    (flag s (F.tugFaultValid (dieOfThread t.val)) = false →
      fget (illegal s t.val cause) (F.tugFaultPc (dieOfThread t.val)) = (thread s t.val).pc.toNat % 2 ^ 48 ∧
      fget (illegal s t.val cause) (F.tugFaultTug (dieOfThread t.val)) = t.val / 4 % 64 ∧
      fget (illegal s t.val cause) (F.tugFaultThread (dieOfThread t.val)) = t.val % 4 ∧
      fget (illegal s t.val cause) (F.tugFaultCause (dieOfThread t.val)) = cause ∧
      fget (illegal s t.val cause) (F.tugFaultValid (dieOfThread t.val)) = 1) ∧
    (flag s (F.tugFaultValid (dieOfThread t.val)) = true → (illegal s t.val cause).fields = s.fields)) ∧
  (∀ (t : Tid) (s : State) (cause : Nat), (thread s t.val).fw = true →
    illegal s t.val cause = fatal (park (captureIllegal s t.val cause) t.val) 0x32 (dieOfThread t.val) (t.val / 4 % 64))

/-- Loads and SIMD loads issue (Tables 03-6 and 03-10, R69, R77, R89, R282): one that the data cache does not serve takes a
request slot of its Tug with its address and its register waiting; one that it does serve writes its register from the
cached line at once. Either way the thread goes on at the next word. A load's data return (R77, R80, R89, R90): once no
access before it in its thread's order is outstanding, the register holds the little-endian bytes of memory at its address,
sign- or zero-extended, or what the control registers there read; errors that the read meets are met first, and memory, the
thread's other registers and the other threads are as those leave them. Stores and SIMD stores issue (Tables 03-6 and 03-10,
R77, R89, R282): a request slot holds the low bytes of the source register and the address g[ra] + imm16, a copy of the line
in the core's own data cache takes them, and the thread goes on. A store is performed (R77, R87, R90): once no access before
it in its thread's order is outstanding, its bytes, and no others, change in memory; one in control space writes its
registers, or waits while a register holds it. -/
def Obligations.LoadsAndStoresMoveTheirBytes : Prop :=
  (
  ∀ p ∈ ([(.ld, .load 8 true), (.lw, .load 4 true), (.lwu, .load 4 false), (.lh, .load 2 true), (.lhu, .load 2 false),
      (.lb, .load 1 true), (.lbu, .load 1 false), (.vld, .vload)] : List ((Tid → RegIx → RegIx → BitVec 16 → Instr) × AccKind)),
    ∀ (t : Tid) (rd ra : RegIx) (imm : BitVec 16) (s : State) (a : Access), issues (p.1 t rd ra imm) t [ra.val] [] s →
      acquirePending s t.val = false → a = ⟨t.val, p.2, (g s t.val ra.val + imm.signExtend 64).toNat, rd.val, 0, 0⟩ →
      verdict s t.val p.2 a.addr = .perform →
      ((∀ q ∈ (core s (t.val / 4)).dcache, q.1 ≠ a.addr / 128) → admits s t.val a.addr = true →
        ∃ u, exec (p.1 t rd ra imm) s = .next u ∧ onlyTugs s u ∧ otherThreads t.val s u ∧
          (core u (t.val / 4)).slots = (core s (t.val / 4)).slots.map (fun q => (q.1, loseDest (isSimd p.2) t.val rd.val q.2)) ++
            [(freeSlot (core s (t.val / 4)).slots, a)] ∧
          thread u t.val = { thread s t.val with
            pendG := (thread u t.val).pendG
            pendV := (thread u t.val).pendV
            pc := (thread s t.val).pc + 4
            issued := (thread s t.val).issued + 1 } ∧
          (if p.2 = .vload then rd.val ∈ (thread u t.val).pendV else rd.val ≠ 0 → rd.val ∈ (thread u t.val).pendG)) ∧
      (∀ x, (core s (t.val / 4)).dcache.find? (fun q => decide (q.1 = a.addr / 128)) = some (a.addr / 128, x) →
        freeChoice s 0 = true →
        ∃ u, exec (p.1 t rd ra imm) s = .next u ∧
          if p.2 = .vload then
            wroteVF t.val rd.val (BitVec.ofNat 256 (lineBytes x (a.addr % 128) 32)) 0 { useLine s t.val with free := s.free + 1 } u
          else wroteG t.val rd.val
            (match p.2 with
              | .load n sg => loadValueOf n sg (lineBytes x (a.addr % 128) n)
              | _ => 0) ((thread s t.val).pc + 4) { useLine s t.val with free := s.free + 1 } u)
  ) ∧
  (
  ∀ (tug : Fin 128) (slot : Nat) (errs : List MemErr) (s m : State) (a : Access), slotAccess s tug.val slot = some a →
    isLoadLike a.kind = true → isAtomic a.kind = false → a.t / 4 = tug.val → a.addr % accBytes a.kind = 0 →
    inTurn slot (core s tug.val).slots a = true → m = meetErrors s errs →
    (windowOf a.addr = .control ∧ isCxlBlock (a.addr - ctlBase) = false ∨
      windowOf a.addr ≠ .control ∧ poisonedRange m a.addr (accBytes a.kind) = false) →
    ∃ w, exec (.loadDataReturn tug slot errs) s = .next w ∧ onlyCaches m w ∧ otherThreads a.t m w ∧
      (let x := if windowOf a.addr = .control then
          (if a.kind = .vload then (List.range 4).foldl (fun v i => v + ctlRead m (thread m a.t).fw (a.addr - ctlBase + 8 * i) 8 * 2 ^ (64 * i)) 0
           else ctlRead m (thread m a.t).fw (a.addr - ctlBase) (accBytes a.kind))
        else readNat m a.addr (accBytes a.kind)
       (∀ r, r ≤ 31 → g w a.t r = if a.rd = r ∧ r ≠ 0 ∧ a.kind ≠ .vload then
          (match a.kind with
            | .load n sg => if sg then BitVec.ofInt 64 (signedElem (8 * n) x) else BitVec.ofNat 64 x
            | _ => 0) else g m a.t r) ∧
       (∀ r, r ≤ 31 → v w a.t r = if a.rd = r ∧ a.kind = .vload then BitVec.ofNat 256 x else v m a.t r)) ∧
      (if a.kind = .vload then a.rd ∉ (thread w a.t).pendV else a.rd ∉ (thread w a.t).pendG) ∧
      (thread w a.t).pc = (thread m a.t).pc ∧ (thread w a.t).fstat = (thread m a.t).fstat ∧
      (∀ q ∈ (core w tug.val).slots, q.1 = slot → isPrefetch q.2.kind = true) ∧
      (acquirePending s a.t = true → loadsDone (freeTheSlot s tug.val slot) a.t = true →
        (core w tug.val).dcache = [] ∧ acquirePending w a.t = false)
  ) ∧
  (
  (∀ p ∈ ([(.sd, 8), (.sw, 4), (.sh, 2), (.sb, 1)] : List ((Tid → RegIx → RegIx → BitVec 16 → Instr) × Nat)),
    ∀ (t : Tid) (rs ra : RegIx) (imm : BitVec 16) (s : State) (a : Access), issues (p.1 t rs ra imm) t [rs.val, ra.val] [] s →
      acquirePending s t.val = false →
      a = ⟨t.val, .store p.2, (g s t.val ra.val + imm.signExtend 64).toNat, 0,
        BitVec.ofNat 256 ((g s t.val rs.val).toNat % 2 ^ (8 * p.2)), 0⟩ →
      verdict s t.val a.kind a.addr = .perform → admits s t.val a.addr = true →
      ∃ u, exec (p.1 t rs ra imm) s = .next u ∧ onlyTugs s u ∧ otherThreads t.val s u ∧
        thread u t.val = { thread s t.val with pc := (thread s t.val).pc + 4, issued := (thread s t.val).issued + 1 } ∧
        (core u (t.val / 4)).slots = (core s (t.val / 4)).slots ++ [(freeSlot (core s (t.val / 4)).slots, a)] ∧
        (core u (t.val / 4)).dcache = (writeThrough (core s (t.val / 4)) a).dcache) ∧
  (∀ (t : Tid) (vs ra : RegIx) (imm : BitVec 16) (s : State) (a : Access), issues (.vst t vs ra imm) t [ra.val] [vs.val] s →
      acquirePending s t.val = false →
      a = ⟨t.val, .vstore, (g s t.val ra.val + imm.signExtend 64).toNat, 0, v s t.val vs.val, 0⟩ →
      verdict s t.val a.kind a.addr = .perform → admits s t.val a.addr = true →
      ∃ u, exec (.vst t vs ra imm) s = .next u ∧ onlyTugs s u ∧ otherThreads t.val s u ∧
        thread u t.val = { thread s t.val with pc := (thread s t.val).pc + 4, issued := (thread s t.val).issued + 1 } ∧
        (core u (t.val / 4)).slots = (core s (t.val / 4)).slots ++ [(freeSlot (core s (t.val / 4)).slots, a)] ∧
        (core u (t.val / 4)).dcache = (writeThrough (core s (t.val / 4)) a).dcache)
  ) ∧
  (
  ∀ (tug : Fin 128) (slot : Nat) (s : State) (a : Access), slotAccess s tug.val slot = some a →
    isStoreLike a.kind = true → isAtomic a.kind = false → inTurn slot (core s tug.val).slots a = true →
    (windowOf a.addr ≠ .control →
      ∃ w, exec (.storePerformed tug slot) s = .next w ∧ onlyStored s w ∧ w.threads = s.threads ∧
        readNat w a.addr (accBytes a.kind) = a.data.toNat % 2 ^ (8 * accBytes a.kind) ∧
        memKept [(a.addr, accBytes a.kind)] s w ∧
        (∀ q ∈ (core w tug.val).slots, q.1 = slot → isPrefetch q.2.kind = true)) ∧
    (windowOf a.addr = .control → storeHeld s a = false →
      exec (.storePerformed tug slot) s =
        .next ((storeAccs a).foldl (fun u w => ctlWrite u (agentOf s a.t) w) (freeTheSlot s tug.val slot))) ∧
    (storeHeld s a = true → exec (.storePerformed tug slot) s = .next s)
  )

/-- Atomics (Table 03-8, R80): an atomic issues into a request slot, with rl only once earlier stores and command words are
performed; on its return the old value, sign-extended, is in rd and the stated function of it and g[rb] in memory. cas
writes g[rb] only where the old value equals g[rd]. An acquiring one holds back later accesses until no load of its thread
is outstanding, and empties the data cache then. -/
def Obligations.AtomicsReadModifyWrite : Prop :=
  (∀ p ∈ ([(.amoswap, .swap), (.amoadd, .add), (.amoand, .and), (.amoor, .or), (.amomax, .max), (.amomin, .min),
      (.amomaxu, .maxu), (.amominu, .minu), (.amocas, .cas)]
      : List ((Tid → RegIx → RegIx → RegIx → AmoSize → Bool → Bool → Instr) × AmoOp)),
    ∀ (t : Tid) (rd ra rb : RegIx) (sz : AmoSize) (aq rl : Bool) (s : State) (a : Access),
      issues (p.1 t rd ra rb sz aq rl) t (if p.2 = .cas then [rd.val, ra.val, rb.val] else [ra.val, rb.val]) [] s →
      acquirePending s t.val = false →
      a = ⟨t.val, .amo p.2 sz aq, (g s t.val ra.val).toNat, rd.val, (g s t.val rb.val).setWidth 256, g s t.val rd.val⟩ →
      verdict s t.val a.kind a.addr = .perform → admits s t.val a.addr = true →
      (rl = true → (storesDone s t.val && wordsArrived s t.val) = false →
        exec (p.1 t rd ra rb sz aq rl) s = .next (useLine s t.val)) ∧
      ((rl = true → storesDone s t.val = true ∧ wordsArrived s t.val = true) →
        ∃ u, exec (p.1 t rd ra rb sz aq rl) s = .next u ∧ onlyTugs s u ∧ otherThreads t.val s u ∧
          (core u (t.val / 4)).slots = (core s (t.val / 4)).slots.map (fun q => (q.1, loseDest false t.val rd.val q.2)) ++
            [(freeSlot (core s (t.val / 4)).slots, a)] ∧
          thread u t.val = { thread s t.val with
            pendG := (thread u t.val).pendG
            acq := aq
            pc := (thread s t.val).pc + 4
            issued := (thread s t.val).issued + 1 } ∧
          (rd.val ≠ 0 → rd.val ∈ (thread u t.val).pendG))) ∧
  (∀ (tug : Fin 128) (slot : Nat) (errs : List MemErr) (s m : State) (a : Access) (op : AmoOp) (sz : AmoSize) (aq : Bool),
    slotAccess s tug.val slot = some a → a.kind = .amo op sz aq → a.t / 4 = tug.val →
    inTurn slot (core s tug.val).slots a = true → m = meetErrors s errs → windowOf a.addr ≠ .control →
    poisonedRange m a.addr (accBytes a.kind) = false →
    let n := if sz = .w then 4 else 8
    let old := readNat m a.addr n
    let new := a.data.toNat % 2 ^ (8 * n)
    let so := signedElem (8 * n) old
    let sn := signedElem (8 * n) new
    ∃ w, exec (.loadDataReturn tug slot errs) s = .next w ∧ onlyStored m w ∧ otherThreads a.t m w ∧
      (∀ r, g w a.t r = if a.rd = r ∧ r ≠ 0 then BitVec.ofInt 64 so else g m a.t r) ∧ (∀ r, v w a.t r = v m a.t r) ∧
      a.rd ∉ (thread w a.t).pendG ∧
      readNat w a.addr n = (match op with
        | .swap => new
        | .add => (old + new) % 2 ^ (8 * n)
        | .and => old &&& new
        | .or => old ||| new
        | .max => if so < sn then new else old
        | .min => if sn < so then new else old
        | .maxu => Nat.max old new
        | .minu => Nat.min old new
        | .cas => if old = a.cmp.toNat % 2 ^ (8 * n) then new else old) ∧
      memKept [(a.addr, n)] m w ∧
      (acquirePending s a.t = true → loadsDone (freeTheSlot s tug.val slot) a.t = true →
        (core w tug.val).dcache = [] ∧ acquirePending w a.t = false)) ∧
  (∀ (t : Tid) (rd ra : RegIx) (imm : BitVec 16) (s : State), issues (.ld t rd ra imm) t [ra.val] [] s →
    acquirePending s t.val = true → exec (.ld t rd ra imm) s = .next (useLine s t.val))

/-- What an access may touch (R78, R80, R99 to R101, R270): a misaligned one is violation kind 7; a job's outside its
regions, an atomic in control space, and a control access that can act on no bit are violations of the kind of Table 03-15;
firmware's outside every populated window is counted. Each completes with zero in its destination register and changes no
memory. Admission (R282, R283): with 48 slots of the Tug taken, or 36 for the access's target, the access holds its thread
in place until REQUEST_SLOT_FREE admits it. Instruction fetch (R68, R100, R270): a miss brings the 128 bytes of the line
into the instruction cache, which keeps at most the four most recently used lines of a set, and the thread's next fetch
finds its word; a job's fetch from a page that it may not execute is an illegal instruction, and control space reads as the
zero word. -/
def Obligations.DeniedAndHeldAccesses : Prop :=
  (
  (∀ (s : State) (t : Nat) (kind : AccKind) (a : Nat),
    (a % accBytes kind ≠ 0 → verdict s t kind a = .violation 7) ∧
    (a % accBytes kind = 0 → windowOf a ≠ .control → (thread s t).fw = false →
      (populatedRange s a (accBytes kind) && regionOk s (t / 256) (needOf kind) a (accBytes kind)) = false →
      verdict s t kind a = .violation (match kind with
        | .load _ _ => 0
        | .store _ => 1
        | .amo _ _ _ => 2
        | .vload => 3
        | .vstore => 3
        | .prefetch _ => 0)) ∧
    (a % accBytes kind = 0 → windowOf a = .control → isAtomic kind = true → verdict s t kind a = .violation 2) ∧
    (a % accBytes kind = 0 → windowOf a = .control → isAtomic kind = false → (thread s t).fw = false → ctlTouches s kind a = false →
      verdict s t kind a = .violation (violKind kind)) ∧
    (a % accBytes kind = 0 → windowOf a ≠ .control → (thread s t).fw = true → populatedRange s a (accBytes kind) = false →
      verdict s t kind a = .noWindow)) ∧
  (∀ p ∈ ([(.ld, .load 8 true), (.lw, .load 4 true), (.lwu, .load 4 false), (.lh, .load 2 true), (.lhu, .load 2 false),
      (.lb, .load 1 true), (.lbu, .load 1 false)] : List ((Tid → RegIx → RegIx → BitVec 16 → Instr) × AccKind)),
    ∀ (t : Tid) (rd ra : RegIx) (imm : BitVec 16) (s : State) (d : Verdict), issues (p.1 t rd ra imm) t [ra.val] [] s →
      acquirePending s t.val = false → verdict s t.val p.2 (g s t.val ra.val + imm.signExtend 64).toNat = d → d ≠ .perform →
      ∃ u, exec (p.1 t rd ra imm) s = .next u ∧ g u t.val rd.val = 0 ∧ (∀ r, r ≠ rd.val → g u t.val r = g s t.val r) ∧
        (∀ r, v u t.val r = v s t.val r) ∧ (thread u t.val).pc = (thread s t.val).pc + 4 ∧ u.mem = s.mem ∧ otherThreads t.val s u ∧
        (d = .noWindow → fget u F.errNowinNowin = Nat.min (fget s F.errNowinNowin + 1) (2 ^ F.errNowinNowin.w - 1)) ∧
        (∀ k, d = .violation k → (thread s t.val).fw = true ∨ flag s (F.tugViolCountDiag (t.val / 256)) = false →
          u.fields = s.fields) ∧
        (∀ k, d = .violation k → (thread s t.val).fw = false → flag s (F.tugViolCountDiag (t.val / 256)) = true →
          fget u (F.tugViolCountCount (t.val / 256)) = Nat.min (fget s (F.tugViolCountCount (t.val / 256)) + 1) (2 ^ 32 - 1))) ∧
  (∀ p ∈ ([(.sd, 8), (.sw, 4), (.sh, 2), (.sb, 1)] : List ((Tid → RegIx → RegIx → BitVec 16 → Instr) × Nat)),
    ∀ (t : Tid) (rs ra : RegIx) (imm : BitVec 16) (s : State), issues (p.1 t rs ra imm) t [rs.val, ra.val] [] s →
      acquirePending s t.val = false → verdict s t.val (.store p.2) (g s t.val ra.val + imm.signExtend 64).toNat ≠ .perform →
      ∃ u, exec (p.1 t rs ra imm) s = .next u ∧ u.mem = s.mem ∧ u.cores = (useLine s t.val).cores ∧
        thread u t.val = { thread s t.val with pc := (thread s t.val).pc + 4, issued := (thread s t.val).issued + 1 } ∧
        otherThreads t.val s u) ∧
  (∀ (t : Tid) (x ra : RegIx) (imm : BitVec 16) (s : State), acquirePending s t.val = false →
    (issues (.vld t x ra imm) t [ra.val] [] s → verdict s t.val .vload (g s t.val ra.val + imm.signExtend 64).toNat ≠ .perform →
      ∃ u, exec (.vld t x ra imm) s = .next u ∧ v u t.val x.val = 0 ∧ (∀ r, r ≠ x.val → v u t.val r = v s t.val r) ∧
        (∀ r, g u t.val r = g s t.val r) ∧ (thread u t.val).pc = (thread s t.val).pc + 4 ∧ u.mem = s.mem ∧ otherThreads t.val s u) ∧
    (issues (.vst t x ra imm) t [ra.val] [x.val] s → verdict s t.val .vstore (g s t.val ra.val + imm.signExtend 64).toNat ≠ .perform →
      ∃ u, exec (.vst t x ra imm) s = .next u ∧ u.mem = s.mem ∧ u.cores = (useLine s t.val).cores ∧
        thread u t.val = { thread s t.val with pc := (thread s t.val).pc + 4, issued := (thread s t.val).issued + 1 } ∧
        otherThreads t.val s u)) ∧
  (∀ p ∈ ([(.amoswap, .swap), (.amoadd, .add), (.amoand, .and), (.amoor, .or), (.amomax, .max), (.amomin, .min),
      (.amomaxu, .maxu), (.amominu, .minu), (.amocas, .cas)]
      : List ((Tid → RegIx → RegIx → RegIx → AmoSize → Bool → Bool → Instr) × AmoOp)),
    ∀ (t : Tid) (rd ra rb : RegIx) (sz : AmoSize) (aq rl : Bool) (s : State),
      issues (p.1 t rd ra rb sz aq rl) t (if p.2 = .cas then [rd.val, ra.val, rb.val] else [ra.val, rb.val]) [] s →
      acquirePending s t.val = false → (rl = true → storesDone s t.val = true ∧ wordsArrived s t.val = true) →
      verdict s t.val (.amo p.2 sz aq) (g s t.val ra.val).toNat ≠ .perform →
      ∃ u, exec (p.1 t rd ra rb sz aq rl) s = .next u ∧ g u t.val rd.val = 0 ∧ (∀ r, r ≠ rd.val → g u t.val r = g s t.val r) ∧
        (∀ r, v u t.val r = v s t.val r) ∧ (thread u t.val).pc = (thread s t.val).pc + 4 ∧ u.mem = s.mem ∧ otherThreads t.val s u)
  ) ∧
  (
  (∀ (s : State) (t a : Nat), admits s t a = true ↔
    (core s (t / 4)).slots.length < 48 ∧
    ((core s (t / 4)).slots.filter (fun p => decide (target s p.2.addr = target s a))).length < 36) ∧
  (∀ (s : State) (a : Access), admits s a.t a.addr = false →
    holdAccess s a = setThread s a.t { thread s a.t with held := some a } ∧
    ∀ (t : Tid) (gs vs : List Nat), t.val = a.t → canIssue (holdAccess s a) t.val gs vs = false) ∧
  (∀ (t : Tid) (s : State) (a : Access), (thread s t.val).held = some a → a.t = t.val →
    (admits s t.val a.addr = false → exec (.requestSlotFree t) s = .next s) ∧
    (admits s t.val a.addr = true →
      ∃ u, exec (.requestSlotFree t) s = .next u ∧ onlyTugs s u ∧ (thread u t.val).held = none ∧
        (core u (t.val / 4)).slots = ((core s (t.val / 4)).slots.map (fun q => (q.1,
            if isLoadLike a.kind then loseDest (isSimd a.kind) t.val a.rd q.2 else q.2))) ++ [(freeSlot (core s (t.val / 4)).slots, a)] ∧
        (thread u t.val).pc = (thread s t.val).pc + 4 ∧ (∀ r, g u t.val r = g s t.val r) ∧ (∀ r, v u t.val r = v s t.val r) ∧
        otherThreads t.val s u))
  ) ∧
  (
  (∀ (t : Tid) (errs : List MemErr) (s m : State), mayIssue s t.val = true → fetchWord s t.val = .miss → m = meetErrors s errs →
    poisonedRange m ((thread s t.val).pc.toNat / 128 * 128) 128 = false →
    ((core s (t.val / 4)).icache.map (·.1)).Nodup →
    let l := (thread s t.val).pc.toNat / 128
    ∃ u, exec (.fetchMissFill t errs) s = .next u ∧ onlyCaches m u ∧ u.threads = s.threads ∧
      icacheLine (core u (t.val / 4)) l = some (BitVec.ofNat 1024 (readNat s (l * 128) 128)) ∧
      (∀ k, k % 128 ≠ l % 128 → icacheLine (core u (t.val / 4)) k = icacheLine (core s (t.val / 4)) k) ∧
      ((core u (t.val / 4)).icache.filter (fun q => decide (q.1 % 128 = l % 128))) =
        (l, BitVec.ofNat 1024 (readNat s (l * 128) 128)) ::
          ((core s (t.val / 4)).icache.filter (fun q => decide (q.1 % 128 = l % 128))).take 3 ∧
      (core u (t.val / 4)).dcache = (core s (t.val / 4)).dcache ∧ (core u (t.val / 4)).slots = (core s (t.val / 4)).slots) ∧
  (∀ (s : State) (t : Tid), windowOf (thread s t.val).pc.toNat = .control → fetched s t = some (decodeFlx t 0)) ∧
  (∀ (s : State) (t : Tid), windowOf (thread s t.val).pc.toNat ≠ .control → (thread s t.val).fw = false →
    regionOk s (t.val / 256) .exec (thread s t.val).pc.toNat 4 = false → fetched s t = some (.ill t .fetchDenied))
  )

/-- State registers (R74, R101, Table 03-4): rdsr gives each readable register its value and wrsr writes FSTAT, SKEY and, at
firmware privilege, SCRATCH; any other access is a violation of kind 4 that reads zero and writes nothing. fence (R92, Table
03-11): with everything it orders performed, the fence goes on, emptying the core's data cache for acq and its instruction
cache for i; while an ordered access is outstanding the thread stays at the fence. -/
def Obligations.StateRegistersAndFences : Prop :=
  (
  (∀ (t : Tid) (rd : RegIx) (s : State),
    ∀ p ∈ ([(0, BitVec.ofNat 64 t.val),
        (1, BitVec.ofNat 64 ((if (thread s t.val).fw then 1 else 0) + (if flag s (F.tugViolCountDiag (t.val / 256)) then 2 else 0))),
        (2, (thread s t.val).fstat.setWidth 64), (3, (thread s t.val).skey), (0x10, BitVec.ofNat 64 s.tide.now), (0x11, s.perf.tc),
        (0x12, BitVec.ofNat 64 (fget s F.tideSchedSlot)), (0x20, (thread s t.val).issued)] : List (BitVec 12 × Word)),
      issues (.rdsr t rd p.1) t [] [] s →
      ∃ u, exec (.rdsr t rd p.1) s = .next u ∧ wroteG t.val rd.val p.2 ((thread s t.val).pc + 4) (useLine s t.val) u) ∧
  (∀ (t : Tid) (rd : RegIx) (n : BitVec 12) (s : State), issues (.rdsr t rd n) t [] [] s → (thread s t.val).fw = true →
    0x100 ≤ n.toNat → n.toNat < 0x110 →
    ∃ u, exec (.rdsr t rd n) s = .next u ∧
      wroteG t.val rd.val (Tab.get 0 (thread s t.val).scratch (n.toNat - 0x100)) ((thread s t.val).pc + 4) (useLine s t.val) u) ∧
  (∀ (t : Tid) (rd : RegIx) (s : State), issues (.rdsr t rd 0x110) t [] [] s → (thread s t.val).fw = true →
    ∃ u, exec (.rdsr t rd 0x110) s = .next u ∧
      wroteG t.val rd.val (freeAt s 0) ((thread s t.val).pc + 4) { useLine s t.val with free := s.free + 1 } u) ∧
  (∀ (t : Tid) (rd ra : RegIx) (n : BitVec 12) (s : State),
    ((thread s t.val).fw = true → n.toNat < 0x100 ∨ 0x110 ≤ n.toNat) →
    (n.toNat ∉ [0, 1, 2, 3, 0x10, 0x11, 0x12, 0x20] → ((thread s t.val).fw = true → n.toNat ≠ 0x110) → issues (.rdsr t rd n) t [] [] s →
      ∃ u, exec (.rdsr t rd n) s = .next u ∧
        wroteG t.val rd.val 0 ((thread s t.val).pc + 4) (violation (useLine s t.val) t.val 4 n.toNat) u) ∧
    (n.toNat ∉ [2, 3] → issues (.wrsr t ra n) t [ra.val] [] s →
      ∃ u, exec (.wrsr t ra n) s = .next u ∧ onlyTugs (violation (useLine s t.val) t.val 4 n.toNat) u ∧ otherThreads t.val s u ∧
        u.cores = (useLine s t.val).cores ∧
        thread u t.val = { thread s t.val with pc := (thread s t.val).pc + 4, issued := (thread s t.val).issued + 1 })) ∧
  (∀ (t : Tid) (ra : RegIx) (s : State),
    (issues (.wrsr t ra 2) t [ra.val] [] s → ∃ u, exec (.wrsr t ra 2) s = .next u ∧ onlyTugs s u ∧ otherThreads t.val s u ∧ u.cores = (useLine s t.val).cores ∧
      thread u t.val = { thread s t.val with
        fstat := (g s t.val ra.val).setWidth 4
        pc := (thread s t.val).pc + 4
        issued := (thread s t.val).issued + 1 }) ∧
    (issues (.wrsr t ra 3) t [ra.val] [] s → ∃ u, exec (.wrsr t ra 3) s = .next u ∧ onlyTugs s u ∧ otherThreads t.val s u ∧ u.cores = (useLine s t.val).cores ∧
      thread u t.val = { thread s t.val with
        skey := g s t.val ra.val
        pc := (thread s t.val).pc + 4
        issued := (thread s t.val).issued + 1 }) ∧
    ((thread s t.val).fw = true → ∀ n : BitVec 12, 0x100 ≤ n.toNat → n.toNat < 0x110 → issues (.wrsr t ra n) t [ra.val] [] s →
      ∃ u, exec (.wrsr t ra n) s = .next u ∧ onlyTugs s u ∧ otherThreads t.val s u ∧
        thread u t.val = { thread s t.val with
          scratch := Tab.set 0 (thread s t.val).scratch (n.toNat - 0x100) (g s t.val ra.val)
          pc := (thread s t.val).pc + 4
          issued := (thread s t.val).issued + 1 }))
  ) ∧
  (
  ∀ (t : Tid) (imm : BitVec 12) (s : State), imm.toNat < 32 → atInstr (.fence t imm) t s = true →
    ((imm.getLsbD 0 = true → loadsDone s t.val = true) →
      (imm.getLsbD 1 = true ∨ imm.getLsbD 2 = true → storesDone s t.val = true ∧ wordsArrived s t.val = true) →
      (imm.getLsbD 4 = true → outstanding s t.val = []) →
      ∃ u, exec (.fence t imm) s = .next u ∧ onlyTugs s u ∧ otherThreads t.val s u ∧
        thread u t.val = { thread s t.val with pc := (thread s t.val).pc + 4, issued := (thread s t.val).issued + 1 } ∧
        (core u (t.val / 4)).slots = (core s (t.val / 4)).slots ∧
        (core u (t.val / 4)).dcache = (if imm.getLsbD 0 then [] else (core s (t.val / 4)).dcache) ∧
        (core u (t.val / 4)).icache = (if imm.getLsbD 3 then [] else (core (useLine s t.val) (t.val / 4)).icache) ∧
        (∀ k, k ≠ t.val / 4 → core u k = core s k)) ∧
    ((imm.getLsbD 0 = true ∧ loadsDone s t.val = false ∨
        (imm.getLsbD 1 = true ∨ imm.getLsbD 2 = true) ∧ (storesDone s t.val = false ∨ wordsArrived s t.val = false) ∨
        imm.getLsbD 4 = true ∧ outstanding s t.val ≠ []) →
      exec (.fence t imm) s = .next (useLine s t.val))
  )

/-- Giving up the core (R70 to R72): a thread that waits, yields to a READY thread, stalls on Warehouse data or has used its
timeslice leaves RUN, and the next READY thread of its core, in the order t + 1, t + 2, t + 3, takes it; the threads'
registers stay as they are. tidewait and slotwait (R96, R97): tidewait of an instant that has been reached goes on at once;
otherwise the thread waits, and when its instant has been passed by 1 Tide ns, or a boundary makes the slot counter its
value, it becomes READY or takes an idle core. tstart and tstop (R73, R98): firmware starts thread g[ra] mod 512 at g[rb]
with bits [1:0] clear, its registers cleared and job privilege, and parks a thread with tstop; at job privilege each is a
violation of kind 5 with no other effect (R101). -/
def Obligations.ThreadsStartWaitAndPassTheCore : Prop :=
  (
  (∀ (s : State) (t : Tid) (st : TState) (w : Option WaitOn), st ≠ .ready →
    onlyTugs s (giveUp s t.val st w) ∧ (giveUp s t.val st w).cores = s.cores ∧
    thread (giveUp s t.val st w) t.val = { thread s t.val with st := st, waitOn := w } ∧
    (∀ u, u ≠ t.val →
      thread (giveUp s t.val st w) u =
        if [1, 2, 3].map (fun i => t.val / 4 * 4 + (t.val + i) % 4) |>.find? (fun x => decide ((thread s x).st = .ready)) |>.any (· == u)
        then { thread s u with st := .run } else thread s u)) ∧
  (∀ (t : Tid) (s : State),
    (issues (.yield t) t [] [] s → othersReady s t.val = true → exec (.yield t) s = .next (giveUp (retire (atIssue s t.val) t.val) t.val .ready none)) ∧
    (issues (.yield t) t [] [] s → othersReady s t.val = false → exec (.yield t) s = .next (retire (atIssue s t.val) t.val)) ∧
    (issues (.halt t) t [] [] s → ∃ u, exec (.halt t) s = .next u ∧ u = park (retire (atIssue s t.val) t.val) t.val ∧ onlyTugs s u ∧ thread u t.val = { thread s t.val with
      st := .parked
      pc := (thread s t.val).pc + 4
      issued := (thread s t.val).issued + 1
      waitOn := none
      held := none })) ∧
  (∀ (t : Tid) (s : State), (thread s t.val).st = .run → othersReady s t.val = true →
    exec (.timesliceExpiry t) s = .next (giveUp s t.val .ready none)) ∧
  (∀ (t : Tid) (rd ra rb : RegIx) (s : State), atInstr (.add t rd ra rb) t s = true → ra.val ≠ 0 →
    (thread s t.val).pendG.contains ra.val = true → onWarehouse s t.val false ra.val = true →
    exec (.add t rd ra rb) s = .next (giveUp (useLine s t.val) t.val .wait (some (.warehouse false ra.val)))) ∧
  (∀ (t : Tid) (rd ra : RegIx) (imm : BitVec 16) (s : State), atInstr (.addi t rd ra imm) t s = true → ra.val ≠ 0 →
    (thread s t.val).pendG.contains ra.val = true → onWarehouse s t.val false ra.val = false →
    exec (.addi t rd ra imm) s = .next (useLine s t.val))
  ) ∧
  (
  (∀ (t : Tid) (ra : RegIx) (s : State),
    (issues (.tidewait t ra) t [ra.val] [] s → (g s t.val ra.val).toNat ≤ s.tide.now →
      exec (.tidewait t ra) s = .next (retire (atIssue s t.val) t.val)) ∧
    (issues (.tidewait t ra) t [ra.val] [] s → s.tide.now < (g s t.val ra.val).toNat → exec (.tidewait t ra) s = .next
      (giveUp (retire (atIssue s t.val) t.val) t.val .wait (some (.tide (g s t.val ra.val))))) ∧
    (issues (.slotwait t ra) t [ra.val] [] s →
      exec (.slotwait t ra) s = .next (giveUp (retire (atIssue s t.val) t.val) t.val .wait
        (some (.slot ((g s t.val ra.val).setWidth 32) s.tide.lastBoundary))))) ∧
  (∀ (t : Tid) (s : State),
    (∀ at_, (thread s t.val).waitOn = some (.tide at_) → at_.toNat + 1 ≤ s.tide.now →
      exec (.tidewaitComplete t) s = .next (setThread s t.val { thread s t.val with
        st := if coreBusy s t.val then .ready else .run, waitOn := none })) ∧
    (∀ x since, (thread s t.val).waitOn = some (.slot x since) → fget s F.tideSchedSlot = x.toNat →
      s.tide.lastBoundary.isSome = true → s.tide.lastBoundary ≠ since →
      exec (.slotwaitComplete t) s = .next (setThread s t.val { thread s t.val with
        st := if coreBusy s t.val then .ready else .run, waitOn := none })) ∧
    (∀ at_, (thread s t.val).waitOn = some (.tide at_) → s.tide.now ≤ at_.toNat →
      exec (.tidewaitComplete t) s = .next s))
  ) ∧
  (
  (∀ (t w : Tid) (ra rb : RegIx) (s : State), issues (.tstart t ra rb) t [ra.val, rb.val] [] s → (thread s t.val).fw = true →
    w.val = (g s t.val ra.val).toNat % 512 →
    ∃ u, exec (.tstart t ra rb) s = .next u ∧ onlyTugs s u ∧
      (thread u w.val).pc = g s t.val rb.val &&& ~~~3#64 ∧ (thread u w.val).fw = false ∧ (∀ r, g u w.val r = 0) ∧
      (∀ r, v u w.val r = 0) ∧ (thread u w.val).fstat = 0 ∧ (thread u w.val).skey = 0 ∧ (thread u w.val).issued = 0 ∧
      (thread u w.val).pendG = [] ∧ (thread u w.val).pendV = [] ∧
      ((thread u w.val).st = .run ∨ (thread u w.val).st = .ready) ∧
      (w ≠ t → (thread u t.val).pc = (thread s t.val).pc + 4 ∧ (∀ r, g u t.val r = g s t.val r))) ∧
  (∀ (t w : Tid) (ra : RegIx) (s : State), issues (.tstop t ra) t [ra.val] [] s → (thread s t.val).fw = true →
    w.val = (g s t.val ra.val).toNat % 512 →
    ∃ u, exec (.tstop t ra) s = .next u ∧ onlyTugs s u ∧
      thread u w.val = { thread (if w = t then retire s t.val else s) w.val with st := .parked, waitOn := none, held := none } ∧
      (thread u t.val).pc = (thread s t.val).pc + 4) ∧
  (∀ (t : Tid) (ra rb : RegIx) (s : State), (thread s t.val).fw = false →
    (issues (.tstart t ra rb) t [ra.val, rb.val] [] s →
      exec (.tstart t ra rb) s = .next (retire (violation (atIssue s t.val) t.val 5 0) t.val)) ∧
    (issues (.tstop t ra) t [ra.val] [] s →
      exec (.tstop t ra) s = .next (retire (violation (atIssue s t.val) t.val 5 0) t.val)))
  )

/-- Issue to a Crane queue (R94, R95): from the bound thread, with an entry free, cissue sends its word towards the Crane
under the next sequence number, which it writes to rd; with none free the thread waits until CISSUE_ACCEPT; from any other
thread it is violation kind 6 and reads zero. cqdepth reads the free entries; cwait waits for a retirement and then has
acquire semantics, and later commands of the Crane are ordered after those it covers (R119). -/
def Obligations.CraneWordsAreIssuedInSequence : Prop :=
  (∀ (t : Tid) (rd ra rb : RegIx) (c : Nat) (s : State), issues (.cissue t rd ra rb) t [ra.val, rb.val] [] s →
    acquirePending s t.val = false → c = (g s t.val ra.val).toNat % 16 →
    (boundTo s t.val c = true → 0 < fgFree s c →
      ∃ u, exec (.cissue t rd ra rb) s = .next u ∧
        crane u c = { crane s c with
          flight := (crane s c).flight ++ [((crane s c).fgSeq, g s t.val rb.val)], fgSeq := (crane s c).fgSeq + 1 } ∧
        (∀ k, k ≠ c → crane u k = crane s k) ∧
        g u t.val rd.val = (if rd.val = 0 then 0 else (crane s c).fgSeq.setWidth 64) ∧
        (∀ r, r ≠ rd.val → g u t.val r = g s t.val r) ∧ (thread u t.val).pc = (thread s t.val).pc + 4 ∧
        otherThreads t.val s u ∧ u.mem = s.mem ∧ u.fields = s.fields) ∧
    (boundTo s t.val c = true → fgFree s c = 0 →
      exec (.cissue t rd ra rb) s = .next (giveUp (useLine s t.val) t.val .wait (some (.queue c (g s t.val rb.val) rd.val)))) ∧
    (boundTo s t.val c = false → ∃ u, exec (.cissue t rd ra rb) s = .next u ∧
      wroteG t.val rd.val 0 ((thread s t.val).pc + 4) (violation (useLine s t.val) t.val 6 c) u)) ∧
  (∀ (t : Tid) (c rd : Nat) (word : Word) (s : State), (thread s t.val).waitOn = some (.queue c word rd) → 0 < fgFree s c →
    ∃ u, exec (.cissueAccept t) s = .next u ∧
      crane u c = { crane s c with
        flight := (crane s c).flight ++ [((crane s c).fgSeq, word)], fgSeq := (crane s c).fgSeq + 1 } ∧
      g u t.val rd = (if rd = 0 then 0 else (crane s c).fgSeq.setWidth 64) ∧ (thread u t.val).waitOn = none ∧
      (thread u t.val).pc = (thread s t.val).pc + 4 ∧ u.mem = s.mem ∧ u.fields = s.fields) ∧
  (∀ (t : Tid) (rd ra : RegIx) (s : State), issues (.cqdepth t rd ra) t [ra.val] [] s →
    ∃ u, exec (.cqdepth t rd ra) s = .next u ∧
      wroteG t.val rd.val (BitVec.ofNat 64 (64 - (crane s ((g s t.val ra.val).toNat % 16)).flight.length -
        (crane s ((g s t.val ra.val).toNat % 16)).fgq.length)) ((thread s t.val).pc + 4) (useLine s t.val) u) ∧
  (∀ (t : Tid) (ra rb : RegIx) (c : Nat) (seq : BitVec 32) (s : State), issues (.cwait t ra rb) t [ra.val, rb.val] [] s →
    c = (g s t.val ra.val).toNat % 16 → seq = (g s t.val rb.val).setWidth 32 →
    ((BitVec.ofNat 32 (fget s (F.craneStatusFgRetired c)) - seq).toNat < 2 ^ 31 →
      ∃ u, exec (.cwait t ra rb) s = .next u ∧ (core u (t.val / 4)).dcache = [] ∧ onlyTugs (noteWaited s c seq) u ∧ otherThreads t.val s u ∧
        thread u t.val = { thread s t.val with pc := (thread s t.val).pc + 4, issued := (thread s t.val).issued + 1 }) ∧
    (2 ^ 31 ≤ (BitVec.ofNat 32 (fget s (F.craneStatusFgRetired c)) - seq).toNat →
      exec (.cwait t ra rb) s = .next
        (giveUp (retire (atIssue s t.val) t.val) t.val .wait (some (.crane c seq))))) ∧
  (∀ (t : Tid) (c : Nat) (seq : BitVec 32) (s : State), (thread s t.val).waitOn = some (.crane c seq) →
    (BitVec.ofNat 32 (fget s (F.craneStatusFgRetired c)) - seq).toNat < 2 ^ 31 →
    ∃ u, exec (.cwaitComplete t) s = .next u ∧ (core u (t.val / 4)).dcache = [] ∧
      thread u t.val = { thread s t.val with st := if coreBusy s t.val then .ready else .run, waitOn := none } ∧
      onlyTugs (noteWaited s c seq) u ∧ otherThreads t.val s u) ∧
  (∀ (s : State) (c : Nat) (seq : BitVec 32) (k : Nat),
    crane (noteWaited s c seq) k = if k = c then { crane s c with fgDone := pastSeq seq (crane s c).fgDone } else crane s k)

/-! ### The Tide, the Lighthouse and the time cells -/

/-- ACQUIRE_ENTRY (R30, R33, R39, Table 02-2): before the first lock, the Lighthouse with a valid reference loads its time
of day or zero, and a follower whose first candidate in SERVICE gives an accepted hop count loads that parent's time;
nothing else changes, and after the first lock nothing does. STEER_UPDATE (R32, R38, R42, Table 02-2): on a 65,536 ns
boundary the rate takes a free value within the steering limit and the operand, which stands for the filter's output, is
shown as the offset (both the model's choice, assumption 10), and the lock state follows the offset: 64 good updates in a
row lock ACQUIRE, 8 lock a follower in HOLDOVER, and more than 250 ps takes LOCKED to HOLDOVER. PARENT_LINK_FAIL (R39, R40,
Table 02-2): a follower takes the first other candidate that is usable, with its hop count plus one, and in ACQUIRE starts
its run of updates again; with none left, ACQUIRE falls back to FREE, LOCKED to HOLDOVER, and HOLDOVER stays. -/
def Obligations.TheTideIsAcquiredAndSteered : Prop :=
  (
  (∀ (p : PortIx) (parentTime : Word) (hops : Nat) (s : State),
    s.tide.running = true → lockState s = 0 → s.tide.everLocked = false →
    (role s = 1 → flag s F.tideStateRef10mhzOk = true → flag s F.tideStateRefPpsOk = true →
      exec (.acquireEntry p parentTime hops) s = .next
        (fput (fput (fput (setTide s { s.tide with
            now := if flag s F.tideStatePtpOk then s.tide.tai.toNat else 0
            okRun := 0
            offsets := [] }) F.tideStateLockState 1) F.tideStateParentPort 0x3F) F.tideStateHops 0)) ∧
    (role s ≠ 1 → (candidates s).find? (inService s) = some p.val → hops + 1 ≤ 32 →
      exec (.acquireEntry p parentTime hops) s = .next
        (fput (fput (fput (setTide s { s.tide with now := parentTime.toNat, okRun := 0, offsets := [] })
          F.tideStateLockState 1) F.tideStateParentPort p.val) F.tideStateHops (hops + 1)))) ∧
  (∀ (p : PortIx) (parentTime : Word) (hops : Nat) (s : State), s.tide.everLocked = true →
    exec (.acquireEntry p parentTime hops) s = .next s)
  ) ∧
  (
  ∀ (o : Int) (s : State), s.tide.running = true → s.tide.now % 65536 = 0 → s.tide.lastSteer ≠ some s.tide.now →
    1 ≤ lockState s → (role s = 1 → lockState s ≠ 3) → (role s ≠ 1 → parentPort s < 32) →
    ∃ (r : Int), -(fget s F.tideCfgSteerLimitPpb : Int) ≤ r ∧ r ≤ (fget s F.tideCfgSteerLimitPpb : Int) ∧
      ∃ n, n = (if o.natAbs ≤ 100 then s.tide.okRun + 1 else 0) ∧
      ∃ t, t = fput (tookFree (setTide s { s.tide with
          rate := r, offsets := [], lastSteer := some s.tide.now, okRun := n }) 1) F.tideStateOffsetPs (BitVec.ofInt 32 o).toNat ∧
      (lockState s = 1 → n ≠ 64 → exec (.steerUpdate o) s = .next t) ∧
      (lockState s = 1 → n = 64 → exec (.steerUpdate o) s = .next (fput (setTide t { t.tide with
        okRun := 0, everLocked := true, lossReported := false }) F.tideStateLockState 2)) ∧
      (lockState s = 2 → o.natAbs ≤ 250 → exec (.steerUpdate o) s = .next t) ∧
      (lockState s = 2 → 250 < o.natAbs → exec (.steerUpdate o) s = .next (fput (setTide t { t.tide with
        okRun := 0, holdoverAt := s.tide.now, lossReported := false }) F.tideStateLockState 3)) ∧
      (lockState s = 3 → n ≠ 8 → exec (.steerUpdate o) s = .next t) ∧
      (lockState s = 3 → n = 8 → exec (.steerUpdate o) s = .next (fput (setTide t { t.tide with
        okRun := 0, everLocked := true, lossReported := false }) F.tideStateLockState 2))
  ) ∧
  (
  ∀ (p : PortIx) (s : State), s.tide.running = true → role s ≠ 1 → parentPort s = p.val →
    (∀ q, nextParent s p.val = some q → 2 ≤ lockState s →
      exec (.parentLinkFail p) s = .next
        (fput (fput s F.tideStateParentPort q) F.tideStateHops ((port s q).farHops + 1))) ∧
    (∀ q, nextParent s p.val = some q → lockState s = 1 →
      exec (.parentLinkFail p) s = .next
        (setTide (fput (fput s F.tideStateParentPort q) F.tideStateHops ((port s q).farHops + 1)) { s.tide with okRun := 0 })) ∧
    (nextParent s p.val = none → lockState s = 1 →
      exec (.parentLinkFail p) s = .next
        (fput (setTide (fput (fput s F.tideStateParentPort 0x3F) F.tideStateHops 0x3F) { s.tide with okRun := 0 })
          F.tideStateLockState 0)) ∧
    (nextParent s p.val = none → lockState s = 2 →
      exec (.parentLinkFail p) s = .next
        (fput (setTide (fput (fput s F.tideStateParentPort 0x3F) F.tideStateHops 0x3F)
          { s.tide with okRun := 0, holdoverAt := s.tide.now, lossReported := false }) F.tideStateLockState 3)) ∧
    (nextParent s p.val = none → lockState s = 3 →
      exec (.parentLinkFail p) s = .next (fput (fput s F.tideStateParentPort 0x3F) F.tideStateHops 0x3F)) ∧
    (∀ q, nextParent s p.val = some q → q ∈ candidates s ∧ q ≠ p.val ∧ inService s q = true ∧ (port s q).farHops + 1 ≤ 32)
  )

/-- Losing and regaining the reference, and the roles (R34 to R36, R43): a loss on the Lighthouse hands its role over at the
second hold boundary when the standby is valid, takes ACQUIRE to FREE in any case and LOCKED to HOLDOVER without one; a
valid standby that hears no time cell for 65,536 ns does the same on its side; the hand-over keeps the counter; a reference
that returns locks the Lighthouse again; a follower 2 ms in HOLDOVER reports Tide loss once. The monitored inputs (R34): on
every module, whatever its role, a change of an input shows in its bit and in nothing else; an IEEE 1588 message that is
valid also leaves its time of day. -/
def Obligations.LighthouseRolesAndInputs : Prop :=
  (
  (∀ (s : State) (valid : Bool), s.tide.running = true → role s = 1 → lockState s = 2 →
    (s.tide.handoverAt = none → valid = true →
      exec (.referenceLoss .tenMHz valid) s = .next
        (setTide (fput s F.tideStateRef10mhzOk 0) { s.tide with handoverAt := some ((s.tide.now / 16384 + 2) * 16384) }) ∧
      exec (.referenceLoss .onePps valid) s = .next
        (setTide (fput s F.tideStateRefPpsOk 0) { s.tide with handoverAt := some ((s.tide.now / 16384 + 2) * 16384) })) ∧
    (valid = false →
      exec (.referenceLoss .onePps valid) s = .next
        (fput (setTide (fput s F.tideStateRefPpsOk 0) { s.tide with okRun := 0, holdoverAt := s.tide.now, lossReported := false })
          F.tideStateLockState 3))) ∧
  (∀ s : State, s.tide.running = true → role s = 1 → lockState s = 1 →
    exec (.referenceLoss .onePps false) s = .next
      (fput (setTide (fput s F.tideStateRefPpsOk 0) { s.tide with okRun := 0 }) F.tideStateLockState 0) ∧
    (s.tide.handoverAt = none → exec (.referenceLoss .onePps true) s = .next
      (setTide (fput (fput s F.tideStateRefPpsOk 0) F.tideStateLockState 0)
        { s.tide with okRun := 0, handoverAt := some ((s.tide.now / 16384 + 2) * 16384) }))) ∧
  (∀ s : State, s.tide.running = true → role s = 2 → referenceOk s = true → s.tide.handoverAt = none →
    (exec (.referenceLoss .tenMHz true) s = .next
      (setTide s { s.tide with handoverAt := some ((s.tide.now / 16384 + 2) * 16384) })) ∧
    (s.tide.lastLhCell + 65536 ≤ s.tide.now → exec .lighthouseTimeCellTimeout s = .next
      (setTide s { s.tide with handoverAt := some ((s.tide.now / 16384 + 2) * 16384) }))) ∧
  (∀ s : State, s.tide.running = true → s.tide.handoverAt = some s.tide.now →
    (role s = 2 → referenceOk s = true → exec .lighthouseHandover s = .next
      (fput (fput (fput (setTide s { s.tide with handoverAt := none }) F.tideStateRole 1) F.tideStateParentPort 0x3F)
        F.tideStateHops 0)) ∧
    (role s = 1 → ∃ u, exec .lighthouseHandover s = .next u ∧ role u = 0 ∧ u.tide.now = s.tide.now ∧ u.mem = s.mem ∧
      u.threads = s.threads ∧ (lockState s = 0 → parentPort u = 0x3F) ∧
      (1 ≤ lockState s → ∀ q, nextParent s 0x3F = some q → parentPort u = q) ∧
      (1 ≤ lockState s → nextParent s 0x3F = none → parentPort u = 0x3F ∧ (lockState s = 2 → lockState u = 3)))) ∧
  (∀ s : State, s.tide.running = true → role s = 1 → lockState s = 3 →
    exec .referenceRestored s = .next
      (fput (setTide (fput (fput s F.tideStateRef10mhzOk 1) F.tideStateRefPpsOk 1)
        { s.tide with okRun := 0, everLocked := true, lossReported := false }) F.tideStateLockState 2)) ∧
  (∀ s : State, s.tide.running = true → role s ≠ 1 → lockState s = 3 → s.tide.lossReported = false →
    s.tide.holdoverAt + 2000000 ≤ s.tide.now →
    exec .tideLoss s = .next
      (fatal (fput (setTide s { s.tide with lossReported := true }) F.tideStateTideLoss 1) 0x30 0 0))
  ) ∧
  (
  ∀ (s : State) (valid : Bool) (tai : Word), s.tide.running = true →
    exec (.referenceInputChange .tenMHz valid) s = .next (fput s F.tideStateRef10mhzOk (if valid then 1 else 0)) ∧
    exec (.referenceInputChange .onePps valid) s = .next (fput s F.tideStateRefPpsOk (if valid then 1 else 0)) ∧
    exec (.referenceInputChange .timeOfDay valid) s = .next (fput s F.tideStatePtpOk (if valid then 1 else 0)) ∧
    exec (.ptpMessageReceive valid tai) s = .next
      (fput (setTide s { s.tide with tai := if valid then tai else s.tide.tai }) F.tideStatePtpOk (if valid then 1 else 0))
  )

/-- Time cells (R37, R319, Table 11-6): every 4,096 Tide ns a cell waits on each port in SERVICE, once; its payload carries
the counter and echoes the last one received; from one received, delay = ((t4 − t1) − (t3 − t2)) / 2 and offset = ((t2 − t1)
− (t4 − t3)) / 2 (a half picosecond dropped downwards: assumption 11), and the offset is kept for steering only on the
parent's port; one in error is counted and otherwise without effect. -/
def Obligations.TimeCellsMeasureDelayAndOffset : Prop :=
  (∀ (p : PortIx) (s : State), s.tide.running = true → s.tide.now % 4096 = 0 → inService s p.val = true →
    (port s p.val).retraining = false →
    ((port s p.val).timeAt ≠ some s.tide.now →
      exec (.timeCellSend p) s = .next (setPort s p.val { port s p.val with
        timeAt := some s.tide.now, waiting := (port s p.val).waiting ++ [mkCell 2 []] })) ∧
    ((port s p.val).timeAt = some s.tide.now → exec (.timeCellSend p) s = .next s)) ∧
  (∀ (s : State) (p : Nat) (ps : BitVec 16) (c : TimeCell) (ns : Word) (rx : BitVec 16),
    (timeCellOf s p ps).txNs = BitVec.ofNat 64 s.tide.now ∧ (timeCellOf s p ps).txPs = ps ∧
    (timeCellOf s p ps).tseq = (port s p).tseq ∧
    (timeCellOf s p ps).hops = BitVec.ofNat 16 (fget s F.tideStateHops) ∧
    ((port s p).lastTime = none → (timeCellOf s p ps).echoTseq = 0xFFFF) ∧
    ((port s p).lastTime = some (c, ns, rx) → (timeCellOf s p ps).echoTseq = c.tseq ∧ (timeCellOf s p ps).echoTxNs = c.txNs ∧
      (timeCellOf s p ps).echoTxPs = c.txPs ∧ (timeCellOf s p ps).echoRxNs = ns ∧ (timeCellOf s p ps).echoRxPs = rx)) ∧
  (∀ (p : PortIx) (wire : List Byte) (fec : Bool) (rxPs : BitVec 16) (s : State), s.tide.running = true →
    inService s p.val = true → (port s p.val).retraining = false → (cellIn wire fec).typ = 2 →
    (cellInError (cellIn wire fec) = true → exec (.timeCellReceive p wire fec rxPs) s =
      .next (fcount (countEvent s 3 p.val 5 1 0) (F.quayPortCntTimeLost p.val) 1)) ∧
    (cellInError (cellIn wire fec) = false → s.tide.now < 2 ^ 64 →
      let c := readTime (cellIn wire fec).payload
      let t1 : Int := c.echoTxNs.toNat * 1000 + c.echoTxPs.toNat
      let t2 : Int := c.echoRxNs.toNat * 1000 + c.echoRxPs.toNat
      let t3 : Int := c.txNs.toNat * 1000 + c.txPs.toNat
      let t4 : Int := s.tide.now * 1000 + rxPs.toNat
      ∃ u, exec (.timeCellReceive p wire fec rxPs) s = .next u ∧
      (port u p.val).lastTime = some (c, BitVec.ofNat 64 s.tide.now, rxPs) ∧ (port u p.val).farHops = c.hops.toNat ∧
      (c.echoTseq ≠ 0xFFFF → (port u p.val).delayPs = ((t4 - t1) - (t3 - t2)) / 2 ∧
        (port u p.val).offsetPs = ((t2 - t1) - (t4 - t3)) / 2) ∧
      u.tide.offsets = (if c.echoTseq ≠ 0xFFFF ∧ parentPort s = p.val then s.tide.offsets ++ [((t2 - t1) - (t4 - t3)) / 2]
        else s.tide.offsets) ∧
      u.tide.now = s.tide.now ∧ u.mem = s.mem ∧ u.threads = s.threads ∧ ∀ q, q ≠ p.val → port u q = port s q))

/-! ### Schedule time, entries, holds and drops -/

/-- SLOT_BOUNDARY (R45, R51): outside a hold the slot counter advances by one, or restarts at slot 0 after the epoch's last
slot or for a new epoch; the entries whose first slot it is reach it in table order, and those that waited already are late;
work under a dl entry has its deadline its slack after the end of the entry's last slot (R53). The entries of Table 02-6
(R50, R51): the first waiting entry of a unit starts its work in its first slot if the unit is free, whatever its data, and
is late otherwise; a late one starts as soon as the unit is free and counts as a local overrun. No entry starts in a hold
(R56). -/
def Obligations.ScheduleTimeAndEntries : Prop :=
  (
  ∀ (s : State) (ep : Epoch), s.tide.epoch = some ep → s.tide.running = true → s.tide.now % 64 = 0 → inHold s = false →
    holdBeginsNow s = false → s.tide.lastBoundary ≠ some s.tide.now → ep.slots ≤ 2 ^ 32 →
    ∃ u, exec .slotBoundary s = .next u ∧
      fget u F.tideSchedSlot =
        (if s.tide.awaitFirst then 0 else if fget s F.tideSchedSlot + 1 < ep.slots then fget s F.tideSchedSlot + 1 else 0) ∧
      (∀ f, fieldKey f ≠ fieldKey F.tideSchedSlot → fget u f = fget s f) ∧
      u.tide.lastBoundary = some s.tide.now ∧ u.tide.now = s.tide.now ∧ u.tide.awaitFirst = false ∧
      u.tide.due.map (·.entry) = s.tide.due.map (·.entry) ++
        (if s.job.stopped then [] else ep.entries.filter (fun e => decide (e.start = fget u F.tideSchedSlot))) ∧
      (∀ n d, n < s.tide.due.length → u.tide.due[n]? = some d → d.late = true) ∧
      (s.job.stopped = false → ∀ e ∈ ep.entries, e.start = fget u F.tideSchedSlot → e.dl = true →
        ⟨e, s.tide.now + 64 * (e.len + e.slack)⟩ ∈ u.tide.dls) ∧
      u.mem = s.mem ∧ u.threads = s.threads ∧ u.barges = s.barges ∧ u.ports = s.ports ∧
      (∀ c, c < 16 → (crane u c).bgLast = (crane s c).bgLast.bind (fun n => if n = 0 then none else some (n - 1)) ∧
        ((crane s c).ballastLast = some 0 → (crane u c).ballast = 0))
  ) ∧
  (
  (∀ (s : State) (d : Due), s.tide.running = true → inHold s = false → holdBeginsNow s = false → s.job.stopped = false →
    d.late = false →
    (∀ p : PortIx, dueFor s 1 p.val = some d → (port s p.val).tx = none →
      exec (.quayTx p) s = .next (startTx (dropDue s 1 p.val) p.val d.entry.stream)) ∧
    (∀ p : PortIx, dueFor s 2 p.val = some d → (port s p.val).rx.all (·.closed) = true →
      exec (.quayRx p) s = .next (startRx (dropDue s 2 p.val) p.val d.entry.stream)) ∧
    (∀ b : BargeIx, dueFor s 3 b.val = some d → (bargeSt s b.val).cur = none → (bargeSt s b.val).queue = [] →
      exec (.barge b) s = .next (enqueueStart (dropDue s 3 b.val) b.val { stream := d.entry.stream, job := !fwStream d.entry.stream })) ∧
    (∀ c : CraneIx, dueFor s 4 c.val = some d → (crane s c.val).bgLast = none →
      ((crane s c.val).bgPast = true → (crane s c.val).bgCmds = []) →
      exec (.craneBg c) s = .next (startBg (dropDue s 4 c.val) d.entry)) ∧
    (∀ c : CraneIx, dueFor s 5 c.val = some d → fget s F.tideSchedSlot < d.entry.start + d.entry.len →
      exec (.ballast c) s = .next (setCrane (dropDue s 5 c.val) c.val { crane s c.val with
        ballast := d.entry.stream, ballastLast := some (d.entry.start + d.entry.len - 1 - fget s F.tideSchedSlot) })) ∧
    (dueFor s 6 0 = some d → exec .marker s = .next (passMarker (dropDue s 6 0) d.entry)) ∧
    (∀ p : PortIx, dueFor s 1 p.val = some d → (port s p.val).tx ≠ none →
      exec (.quayTx p) s = .next (markLate s 1 p.val)) ∧
    (∀ p : PortIx, dueFor s 2 p.val = some d → (port s p.val).rx.all (·.closed) = false →
      exec (.quayRx p) s = .next (markLate s 2 p.val)) ∧
    (∀ b : BargeIx, dueFor s 3 b.val = some d → ((bargeSt s b.val).cur ≠ none ∨ (bargeSt s b.val).queue ≠ []) →
      exec (.barge b) s = .next (markLate s 3 b.val)) ∧
    (∀ c : CraneIx, dueFor s 4 c.val = some d → resourceFree s 4 c.val = false →
      exec (.craneBg c) s = .next (markLate s 4 c.val))) ∧
  (∀ (s : State) (d : Due) (k : EntryKind) (n : Nat), s.tide.running = true → inHold s = false → holdBeginsNow s = false →
    s.job.stopped = false → d.late = true → dueFor s (entryCode k) n = some d → resourceFree s (entryCode k) n = true →
    exec (.entryLateStart k n) s = .next (startEntry (countOverrun (dropDue s (entryCode k) n)) d.entry)) ∧
  (∀ (s : State) (p : PortIx) (b : BargeIx) (c : CraneIx), inHold s = true →
    exec (.quayTx p) s = .next s ∧ exec (.quayRx p) s = .next s ∧ exec (.barge b) s = .next s ∧
    exec (.craneBg c) s = .next s ∧ exec (.ballast c) s = .next s ∧ exec .marker s = .next s)
  )

/-- The drop record (R383, Table 14-3): at the cutoff marker of a live job the mask of the step is formed from the drops so
far and the forced ones, the record is written with final clear (step, contributing micro-batches, dropped ones, M, forced
bit and mask), and from then on no consumption of poison drops a micro-batch; once the Partner has the log,
DROP_RECORD_FINAL sets final and writes s + 1 to the drop gate word. A step_end marker ends the step: firmware copies the
runs fields and the gate word (R392) and the next step begins with no drop. -/
def Obligations.DropRecordIsWrittenThenFinal : Prop :=
  (∀ (s : State) (e : Entry), jobLive s = true → e.stream = 0x0100 → e.stepEnd = false → s.job.m ≤ 1024 →
    ∃ u, passMarker s e = u ∧ u.job = { s.job with cutoff := true, dropped := u.job.dropped, gateWritten := false } ∧
      (∀ m, m ∈ u.job.dropped ↔ m < s.job.m ∧ (m ∈ s.job.dropped ∨ m ∈ forcedDrops s s.job.curStep)) ∧
      (let a := s.job.dropLog + s.job.curStep % 512 * dropRecordBytes s.job.m
       readNat u a 4 = s.job.curStep % 2 ^ 32 ∧
       readNat u (a + 4) 4 = s.job.m - u.job.dropped.length ∧
       readNat u (a + 8) 2 = u.job.dropped.length ∧
       readNat u (a + 10) 2 = s.job.m ∧
       readNat u (a + 12) 1 = (if forcedDrops s s.job.curStep = [] then 0 else 1) ∧
       readNat u (a + 13) 3 = 0 ∧
       (∀ m, m < s.job.m → (memByte u (a + 16 + m / 8)).getLsbD (m % 8) = decide (m ∈ u.job.dropped)) ∧
       memKept [(a, dropRecordBytes s.job.m)] s u) ∧
      (∀ a c, containedIn u a c = none) ∧ u.threads = s.threads ∧ u.tide = s.tide) ∧
  (∀ (s : State) (e : Entry), jobLive s = true → e.stream ≠ 0x0100 → e.stepEnd = true →
    passMarker s e = { s with job := { s.job with
      runsCopied := s.mem.filter (fun p => stepEndByte s p.1)
      curStep := s.job.curStep + 1
      cutoff := false
      dropped := []
      gateWritten := false } }) ∧
  (∀ (s : State) (e : Entry), jobLive s = true → e.stream = 0x0100 → e.stepEnd = true →
    passMarker s e = passMarker (passMarker s { e with stepEnd := false }) { e with stream := 0 }) ∧
  (∀ (s : State) (e : Entry), jobLive s = false ∨ e.stream ≠ 0x0100 ∧ e.stepEnd = false → passMarker s e = s) ∧
  (∀ s : State, jobLive s = true → s.job.cutoff = true → s.job.gateWritten = false →
    ∃ u, exec .dropRecordFinal s = .next u ∧ u.job = { s.job with gateWritten := true } ∧
      (let a := s.job.dropLog + s.job.curStep % 512 * dropRecordBytes s.job.m + 12
       memKept [(s.job.dropGate, 8), (a, 1)] s u ∧
       ((a < s.job.dropGate ∨ s.job.dropGate + 8 ≤ a) → memByte u a = memByte s a ||| 2#8) ∧
       readNat u s.job.dropGate 8 = (s.job.curStep + 1) % 2 ^ 64) ∧
      u = { s with mem := u.mem, poison := u.poison, writer := u.writer, job := u.job })

/-- Holds (R53 to R57, Table 02-7): where running work under a dl entry is predicted to complete past its deadline (the
prediction is the sender's: assumption 74), a request asks for ceil(shortfall / 1,024) quanta, at most 15, with the smallest
boundary at least 8,192 ns ahead, at most once an interval; a HOLD cell in error is NAKed, one in order taken and one after
a gap held (R313, R315); a late request is a step-fatal Tide protocol fault and a repeat is discarded; the latch takes the
largest q for its boundary; the hold begins one boundary later, lasts q × 1,024 ns and moves the deadlines that lie after
it. -/
def Obligations.HoldsAreRequestedLatchedAndInserted : Prop :=
  (∀ (kind : EntryKind) (unit : Nat) (stream : BitVec 16) (predicted : Word) (s : State) (d : DlWork) (n : Nat),
    s.tide.running = true → dlRunning s (entryCode kind) unit stream.toNat = some d →
    n = predicted.toNat - deadlineLatched s d.deadline → 0 < n → s.tide.raisedIn ≠ some (s.tide.now / 16384) →
    ∃ r : HoldReq, r.q.toNat = Nat.min ((n + 1023) / 1024) 15 ∧ r.origin = BitVec.ofNat 16 (hallIndex s) ∧
      r.tr = BitVec.ofNat 64 s.tide.now ∧
      (∃ b, r.b = BitVec.ofNat 64 b ∧ b % 16384 = 0 ∧ s.tide.now + 8192 ≤ b ∧ b < s.tide.now + 8192 + 16384) ∧
      ∃ u, exec (.holdRequestRaise kind unit stream predicted) s = .next u ∧
        u.tide = { s.tide with
          reqs := s.tide.reqs ++ [r]
          seen := s.tide.seen ++ [(r.origin, r.tr)]
          raisedIn := some (s.tide.now / 16384) } ∧
        fget u F.tideHoldRaisedRaised = Nat.min (fget s F.tideHoldRaisedRaised + 1) (2 ^ 32 - 1) ∧
        (∀ p, p < 32 → (port u p).waiting =
          (port s p).waiting ++ (if inService s p then [mkCell 3 (holdPayload r)] else [])) ∧
        u.mem = s.mem ∧ u.threads = s.threads) ∧
  (∀ (kind : EntryKind) (unit : Nat) (stream : BitVec 16) (predicted : Word) (s : State), s.tide.raisedIn = some (s.tide.now / 16384) →
    exec (.holdRequestRaise kind unit stream predicted) s = .next s) ∧
  (∀ (p : PortIx) (wire : List Byte) (fec : Bool) (s : State), inService s p.val = true → (port s p.val).retraining = false →
    (cellIn wire fec).typ = 3 →
    let c := cellIn wire fec
    let t := takeAck s p.val c.ack
    let again := seqBefore c.lseq (port s p.val).rxSeq || (port s p.val).reorder.any (fun y => decide (y.lseq = c.lseq))
    (cellInError c = true → exec (.holdCellReceive p wire fec) s = .next (receivedBad s p.val c)) ∧
    (cellInError c = false → again = true → exec (.holdCellReceive p wire fec) s = .next t) ∧
    (cellInError c = false → again = false → c.lseq = (port s p.val).rxSeq →
      exec (.holdCellReceive p wire fec) s =
        .next (releaseReorder 1024 (takeRequest (acceptNext t p.val) (readHold c.payload)) p.val)) ∧
    (cellInError c = false → again = false → c.lseq ≠ (port s p.val).rxSeq →
      exec (.holdCellReceive p wire fec) s = .next (holdAfterGap t p.val c))) ∧
  (∀ (s : State) (r : HoldReq), s.tide.seen.contains (r.origin, r.tr) = true → takeRequest s r = s) ∧
  (∀ (s : State) (r : HoldReq), s.tide.seen.contains (r.origin, r.tr) = false →
    (r.b.toNat ≤ s.tide.now → takeRequest s r =
      fatal (setTide s { s.tide with seen := s.tide.seen ++ [(r.origin, r.tr)] }) 0x21 0 0) ∧
    (s.tide.now < r.b.toNat → (takeRequest s r).tide.reqs = s.tide.reqs ++ [r] ∧
      ∀ p, p < 32 → inService s p = true →
        (port (takeRequest s r) p).waiting = (port s p).waiting ++ [mkCell 3 (holdPayload r)])) ∧
  (∀ s : State, s.tide.running = true → s.tide.now % 16384 = 0 →
    ∃ q, (∀ r ∈ s.tide.reqs, r.b.toNat = s.tide.now → r.q.toNat ≤ q) ∧
      (q = 0 ∨ ∃ r ∈ s.tide.reqs, r.b.toNat = s.tide.now ∧ r.q.toNat = q) ∧
      exec .holdLatch s = .next (setTide s { s.tide with
        reqs := s.tide.reqs.filter (fun r => decide (r.b.toNat ≠ s.tide.now))
        latched := if q = 0 then s.tide.latched else s.tide.latched ++ [(s.tide.now + 16384, q)] })) ∧
  (∀ (s : State) (q : Nat), s.tide.running = true → inHold s = false →
    holdNow s = some (s.tide.now, q) →
    ∃ u, exec .holdStart s = .next u ∧ u.tide = { s.tide with
        latched := s.tide.latched.filter (fun l => decide (l.1 ≠ s.tide.now))
        holdEnd := s.tide.now + q * 1024
        dls := s.tide.dls.map (fun d => if s.tide.now < d.deadline then { d with deadline := d.deadline + q * 1024 } else d) } ∧
      inHold u = true ∧ fget u F.tideHoldHolds = min (fget s F.tideHoldHolds + 1) (2 ^ 32 - 1) ∧
      fget u F.tideHoldQuanta = min (fget s F.tideHoldQuanta + q) (2 ^ 32 - 1) ∧ fget u F.tideSchedSlot = fget s F.tideSchedSlot ∧
      u.mem = s.mem ∧ u.ports = s.ports ∧ u.barges = s.barges) ∧
  (∀ s : State, s.tide.running = true → inHold s = true → s.tide.holdEnd ≤ s.tide.now →
    exec .holdEnd s = .next (fput s F.tideSchedInHold 0))

/-! ### Staged settings -/

/-- Shadow writes (R58, R61): a write to a staged register outside a check or an armed commit of its group changes the
shadow values alone, and takes a pass that selects the group back to idle; inside one it is ignored and write_while_armed is
set. The check bit (R59, R60, R63): refused with busy while a check runs or a commit is armed; otherwise the groups are
being checked, firmware's those it selects, a job's or the host's the Drain tables alone, and owner names the side. What is
refused changes nothing but busy. A write with another group from a job or the host is ignored as a whole, and a job's is a
violation of kind 1 (R101). Arm and abort (R60, R63): an arm is accepted only in pass, from the side that owns it, at least
16,384 ns ahead, and for the schedule epoch at a hold boundary; an abort until 16,384 ns before the commit; what is refused
sets busy, or late with code 0x08 and the groups whose rule failed. -/
def Obligations.StagedSettingsAreCheckedAndArmed : Prop :=
  (
  ∀ (s : State) (off : BitVec 26) (v : Word), groupOf off.toNat < 4 →
    ((stageState s = 1 ∨ stageState s = 4) → s.stage.groups.getLsbD (groupOf off.toNat) = true →
      exec (.shadowWrite off v) s = .next (fput s F.tideStageStatusWriteWhileArmed 1)) ∧
    ((stageState s ≠ 1 ∧ stageState s ≠ 4) ∨ s.stage.groups.getLsbD (groupOf off.toNat) = false →
      ∃ u, exec (.shadowWrite off v) s = .next u ∧
        u = { s with stage := { s.stage with shadow := u.stage.shadow }, fields := u.fields } ∧
        (∀ f, fieldKey f ≠ fieldKey F.tideStageStatusStageState → fget u f = fget s f) ∧
        (stageState u = if stageState s = 2 ∧ s.stage.groups.getLsbD (groupOf off.toNat) = true then 0 else stageState s) ∧
        (groupOf off.toNat = 1 → shadowGet u F.tideTableBaseBase = v.toNat / 64 % 2 ^ 42) ∧
        (groupOf off.toNat = 2 → shadowGet u F.pwrRampFloor = v.toNat / 2 ^ F.pwrRampFloor.lo % 2 ^ F.pwrRampFloor.w ∧
          shadowGet u F.pwrRampStepUs = v.toNat / 2 ^ F.pwrRampStepUs.lo % 2 ^ F.pwrRampStepUs.w) ∧
        (groupOf off.toNat = 3 → shadowGet u F.tideCfgRoleSel = v.toNat % 4 ∧
          shadowGet u F.tideCfgSteerLimitPpb = v.toNat / 16 % 2 ^ 12))
  ) ∧
  (
  (∀ (s : State) (who : Agent) (gr : BitVec 5), (who = .fw ∨ gr &&& 15#5 = 0) → (stageState s = 1 ∨ stageState s = 4) →
    exec (.stageCheck who gr) s = .next (fput s F.tideStageStatusBusy 1)) ∧
  (∀ (s : State) (gr : BitVec 5), stageState s ≠ 1 → stageState s ≠ 4 →
    exec (.stageCheck .fw gr) s = .next
      (fput (fput { fput s F.tideStageCtrlGroups gr.toNat with
          stage := { s.stage with groups := gr, epoch := none, fromImage := false } }
        F.tideStageStatusStageState 1) F.tideStageStatusOwner 0) ∧
    ∀ who : Agent, who ≠ .fw → gr &&& 15#5 = 0 →
      exec (.stageCheck who gr) s = .next
        (fput (fput { fput s F.tideStageCtrlGroups gr.toNat with
            stage := { s.stage with groups := 16#5, epoch := none, fromImage := false } }
          F.tideStageStatusStageState 1) F.tideStageStatusOwner 1)) ∧
  (∀ (s : State) (gr : BitVec 5), gr &&& 15#5 ≠ 0 → exec (.stageCheck .host gr) s = .next s ∧
    ∀ t : Tid, exec (.stageCheck (.job t) gr) s = .next (violation s t.val 1 0x40100040))
  ) ∧
  (
  ∀ (s : State) (who : Agent),
    ((stageState s ≠ 2 ∨ fget s F.tideStageStatusOwner ≠ (if who = .fw then 0 else 1)) →
      exec (.stageArm who) s = .next (fput s F.tideStageStatusBusy 1)) ∧
    (stageState s = 2 → fget s F.tideStageStatusOwner = (if who = .fw then 0 else 1) →
      (fget s F.tideCommitAtCommitNs < s.tide.now + 16384 → exec (.stageArm who) s = .next
        (fput (fput (fput s F.tideStageStatusLate 1) F.tideStageStatusFailCode 8) F.tideStageStatusFailedGroups
          s.stage.groups.toNat)) ∧
      (s.tide.now + 16384 ≤ fget s F.tideCommitAtCommitNs →
        (s.stage.groups.getLsbD 1 = true → fget s F.tideCommitAtCommitNs % 16384 ≠ 0 → exec (.stageArm who) s = .next
          (fput (fput (fput s F.tideStageStatusLate 1) F.tideStageStatusFailCode 8) F.tideStageStatusFailedGroups 2)) ∧
        ((s.stage.groups.getLsbD 1 = false ∨ fget s F.tideCommitAtCommitNs % 16384 = 0) →
          exec (.stageArm who) s = .next
            (fput { s with stage := { s.stage with armedAt := fget s F.tideCommitAtCommitNs } } F.tideStageStatusStageState 4)))) ∧
    (stageState s = 4 → fget s F.tideStageStatusOwner = (if who = .fw then 0 else 1) →
      s.tide.now + 16384 ≤ s.stage.armedAt →
      exec (.stageAbort who) s = .next (fput s F.tideStageStatusStageState 2)) ∧
    ((stageState s ≠ 4 ∨ fget s F.tideStageStatusOwner ≠ (if who = .fw then 0 else 1) ∨
        s.stage.armedAt < s.tide.now + 16384) →
      exec (.stageAbort who) s = .next (fput s F.tideStageStatusBusy 1))
  )

/-- The check's result (R59, R473, R474, Table 02-9): every selected group that fails is listed, the code is the lowest
failing group's, a pass keeps the checked copy of the epoch, and a failure keeps no pass. The commit (R46, R59, R60, R61):
at the instant that the arm took from commit_ns every selected group becomes active at once from its shadow values, a new
epoch from the copy that the check read, with its slot 0 next; groups that are not selected keep their active values. -/
def Obligations.CheckResultsAndCommits : Prop :=
  (
  ∀ s : State, stageState s = 1 →
    ∃ u, exec .stageCheckComplete s = .next u ∧
      (∀ gr, gr < 5 → (fget u F.tideStageStatusFailedGroups).testBit gr = decide (groupFailure s gr ≠ 0)) ∧
      (∀ gr, gr < 5 → s.stage.groups.getLsbD gr = false → groupFailure s gr = 0) ∧
      (∀ gr, gr < 5 → groupFailure s gr ≠ 0 → (∀ k, k < gr → groupFailure s k = 0) →
        fget u F.tideStageStatusFailCode = groupFailure s gr % 256 ∧ stageState u = 3) ∧
      ((∀ gr, gr < 5 → groupFailure s gr = 0) →
        fget u F.tideStageStatusFailCode = 0 ∧ stageState u = 2 ∧ u.stage.epoch = checkedEpoch s) ∧
      (∀ f, fieldKey f ≠ fieldKey F.tideStageStatusFailedGroups → fieldKey f ≠ fieldKey F.tideStageStatusFailCode →
        fieldKey f ≠ fieldKey F.tideStageStatusStageState → fget u f = fget s f) ∧
      u = { s with fields := u.fields, stage := { s.stage with epoch := u.stage.epoch } } ∧
      (s.stage.groups.getLsbD 2 = true →
        (groupFailure s 2 = 4 ↔ shadowGet s F.pwrRampFloor < 13 ∨ shadowGet s F.pwrRampStepUs < 1000)) ∧
      (s.stage.groups.getLsbD 3 = true →
        (groupFailure s 3 = 5 ↔ shadowGet s F.tideCfgSteerLimitPpb < 100 ∨ 2000 < shadowGet s F.tideCfgSteerLimitPpb))
  ) ∧
  (
  ∀ s : State, s.tide.running = true → stageState s = 4 → s.tide.now = s.stage.armedAt →
    ∃ u, exec .stageCommit s = .next u ∧ stageState u = 5 ∧ u.mem = s.mem ∧ u.threads = s.threads ∧
      (∀ f ∈ routingFields, fget u f = if s.stage.groups.getLsbD 0 then shadowGet s f % 2 ^ f.w else fget s f) ∧
      (∀ f ∈ [F.pwrRampFloor, F.pwrRampStepUs],
        fget u f = if s.stage.groups.getLsbD 2 then shadowGet s f % 2 ^ f.w else fget s f) ∧
      (∀ f ∈ [F.tideCfgRoleSel, F.tideCfgSteerLimitPpb],
        fget u f = if s.stage.groups.getLsbD 3 then shadowGet s f % 2 ^ f.w else fget s f) ∧
      (s.stage.groups.getLsbD 1 = false → u.tide.epoch = s.tide.epoch ∧ fget u F.tideTableBaseBase = fget s F.tideTableBaseBase) ∧
      (s.stage.groups = 4#5 →
        fget u F.pwrRampFloor = shadowGet s F.pwrRampFloor % 2 ^ F.pwrRampFloor.w ∧
        fget u F.pwrRampStepUs = shadowGet s F.pwrRampStepUs % 2 ^ F.pwrRampStepUs.w ∧
        (∀ f, fieldKey f ≠ fieldKey F.pwrRampFloor → fieldKey f ≠ fieldKey F.pwrRampStepUs →
          fieldKey f ≠ fieldKey F.tideStageStatusStageState → fget u f = fget s f)) ∧
      (s.stage.groups = 8#5 → shadowGet s F.tideCfgRoleSel = fget s F.tideCfgRoleSel →
        fget u F.tideCfgSteerLimitPpb = shadowGet s F.tideCfgSteerLimitPpb % 2 ^ 12 ∧ u.tide = s.tide) ∧
      (s.stage.groups = 2#5 → ∀ ep, s.stage.epoch = some ep →
        u.tide = { s.tide with epoch := some ep, awaitFirst := true, lastBoundary := none } ∧
        fget u F.tideSchedSlot = 0 ∧ fget u F.tideSchedEpochId = ep.id % 2 ^ 16 ∧
        fget u F.tideTableBaseBase = shadowGet s F.tideTableBaseBase % 2 ^ 42) ∧
      (s.stage.groups = 16#5 → u.tide = s.tide ∧ ∀ c slot, c < 16 → slot < 4 → fget s (F.craneActGenDirty c) < 16 →
        (let dirty := (fget s (F.craneActGenDirty c)).testBit slot
         Tab.get false (crane u c).ebb1 slot = (Tab.get false (crane s c).ebb1 slot ^^ dirty) ∧
         fget u (actGenField c slot) = (fget s (actGenField c slot) + if dirty then 1 else 0) % 256 ∧
         fget u (F.craneActGenDirty c) = 0 ∧
         ∀ n, Tab.get 0 (crane u c).act n = Tab.get 0 (crane s c).act n))
  )

/-! ### The Cranes -/

/-- Queues and issue (R94, R95, R115, R118, R120 to R122, R136): words arrive in order; the head of a queue issues when it
may, with a new identity and its sequence number, and otherwise waits; a word that fails a check ends with an error and its
cause, the first rejection captured; a foreground rejection stops the queue, after which every foreground word ends with an
error. The checks of a command word (R115, R118, Table 04-3): cause 1 for an unknown opcode, a reserved bit, or an array
mode that Table 04-1 lacks; then cause 2 for a solver command of the foreground, 6 for a complex mode that names bank 1, and
3 for a value of imm16 that the opcode does not define. By the model's choice (assumption 77) a nonzero pmode of another
opcode is cause 1 too. Descriptors and background work (R117 to R122, R182): a descriptor that arrives, after the errors its
reads meet, is checked against its opcode's rules, and its command is rejected with the cause or waits to act; a background
list is fetched while its queue has space; bank 1 is released when the entry has passed and its commands have retired. -/
def Obligations.CraneWordsIssueInOrder : Prop :=
  (
  (∀ (c : CraneIx) (w : BitVec 32 × Word) (rest : List (BitVec 32 × Word)) (s : State),
    (crane s c.val).flight = w :: rest →
    exec (.commandWordArrival c) s = .next (setCrane s c.val { crane s c.val with
      flight := rest, fgq := (crane s c.val).fgq ++ [w] })) ∧
  (∀ (c : CraneIx) (seq : BitVec 32) (w : Word) (rest : List (BitVec 32 × Word)) (s : State),
    (crane s c.val).fgq = (seq, w) :: rest →
    (let k : CraneCmd := { uid := s.uid, seq := seq, word := w, unordered := notOrdered s c.val .fg (cwSync w) }
     (flag s (F.craneStateFgStopped c.val) = true →
       ∃ u, exec (.craneCommandIssue c .fg) s = .next u ∧ (crane u c.val).fgq = rest ∧ u.mem = s.mem ∧ u.fields = s.fields ∧
         u.uid = s.uid + 1 ∧ (crane u c.val).fgCmds = (crane s c.val).fgCmds ++ [{ k with phase := .error }]) ∧
     (flag s (F.craneStateFgStopped c.val) = false → mayIssueWord (crane s c.val) .fg w = false →
       exec (.craneCommandIssue c .fg) s = .next s) ∧
     (flag s (F.craneStateFgStopped c.val) = false → mayIssueWord (crane s c.val) .fg w = true → wordCause false w = 0 →
       ∃ u, exec (.craneCommandIssue c .fg) s = .next u ∧ (crane u c.val).fgq = rest ∧ u.uid = s.uid + 1 ∧ u.mem = s.mem ∧
         u.fields = s.fields ∧ (∀ n, n ≠ c.val → crane u n = crane s n) ∧
         (crane u c.val).fgCmds = (crane s c.val).fgCmds ++
           [{ k with phase := if descLen (cwOp w) = 0 then .checked else .issued }]) ∧
     (flag s (F.craneStateFgStopped c.val) = false → mayIssueWord (crane s c.val) .fg w = true → wordCause false w ≠ 0 →
       (∀ y ∈ (crane s c.val).fgCmds, y.uid < s.uid) →
       ∃ u, exec (.craneCommandIssue c .fg) s = .next u ∧ (crane u c.val).fgq = rest ∧ u.mem = s.mem ∧
         flag u (F.craneStateFgStopped c.val) = true ∧
         (crane u c.val).fgCmds = (crane s c.val).fgCmds ++ [{ k with phase := .error }] ∧
         (flag s (F.craneRejectValid c.val) = true → ∀ f ∈ craneRejectFields c.val, fget u f = fget s f) ∧
         (flag s (F.craneRejectValid c.val) = false →
           fget u (F.craneRejectCause c.val) = wordCause false w ∧ fget u (F.craneRejectSeq c.val) = seq.toNat ∧
           fget u (F.craneRejectOpcode c.val) = cwOp w ∧ fget u (F.craneRejectBg c.val) = 0 ∧
           fget u (F.craneRejectValid c.val) = 1)))) ∧
  (∀ (c : CraneIx) (seq : BitVec 32) (w : Word) (rest : List (BitVec 32 × Word)) (s : State),
    (crane s c.val).bgq = (seq, w) :: rest → rest.length ≤ 64 →
    (let k : CraneCmd := { uid := s.uid, seq := seq, word := w, unordered := notOrdered s c.val .bg (cwSync w) }
     (mayIssueWord (crane s c.val) .bg w = false → exec (.craneCommandIssue c .bg) s = .next s) ∧
     (mayIssueWord (crane s c.val) .bg w = true →
       (∀ y ∈ (crane s c.val).bgCmds, y.uid < s.uid) →
       ∃ u, exec (.craneCommandIssue c .bg) s = .next u ∧ (crane u c.val).bgq = rest ∧ u.mem = s.mem ∧ u.uid = s.uid + 1 ∧
         fget u (F.craneStateBgFree c.val) = 64 - rest.length ∧ (crane u c.val).fgCmds = (crane s c.val).fgCmds ∧
         flag u (F.craneStateFgStopped c.val) = flag s (F.craneStateFgStopped c.val) ∧
         (crane u c.val).bgCmds = (crane s c.val).bgCmds ++
           [{ k with phase := if wordCause true w ≠ 0 then .error else if descLen (cwOp w) = 0 then .checked else .issued }] ∧
         (wordCause true w ≠ 0 → flag s (F.craneRejectValid c.val) = false →
           fget u (F.craneRejectCause c.val) = wordCause true w ∧ fget u (F.craneRejectSeq c.val) = seq.toNat ∧
           fget u (F.craneRejectOpcode c.val) = cwOp w ∧ fget u (F.craneRejectBg c.val) = 1 ∧
           fget u (F.craneRejectValid c.val) = 1)))) ∧
  (∀ (x : Crane) (q : Queue) (w : Word), mayIssueWord x q w = true ↔
    ((w.getLsbD 15 = true → cmds x q = []) ∧
     (q = .fg → (x.bgLast.isSome = true ∨ x.bgPast = true) → usesBank w 1 = false ∧ cwComplex w = false) ∧
     (q = .bg → x.bgLast.isSome = true) ∧
     ((x.fgCmds ++ x.bgCmds).filter (fun k => !k.begun && !ended k)).length < 4))
  ) ∧
  (
  ∀ (bg : Bool) (w : Word),
    (let op := w.toNat % 256
     let pm := w.toNat / 256 % 8
     let imm := w.toNat / 65536 % 65536
     let array := op = 1 ∨ op = 2 ∨ op = 0x10 ∨ op = 0x11
     let bad := op ∉ [1, 2, 3, 4, 5, 8, 9, 0x10, 0x11, 0x12, 0x3F] ∨ w.getLsbD 55 = true ∨ w.getLsbD 62 = true ∨
       w.getLsbD 63 = true ∨ (array ∧ (pm = 0 ∨ pm = 6 ∨ pm = 7)) ∨ (¬array ∧ pm ≠ 0)
     let fgSolver := bg = false ∧ (op = 0x10 ∨ op = 0x11)
     let badBank := (op = 1 ∨ op = 2) ∧ (pm = 4 ∨ pm = 5) ∧ w.getLsbD 11 = true
     let goodImm := (op = 2 → 1 ≤ imm ∧ imm ≤ 128) ∧ (op = 9 → 1 ≤ imm ∧ imm ≤ 128) ∧ (op = 0x12 → imm ≤ 1) ∧
       (op = 0x10 → imm < 8 ∧ imm % 4 ≠ 3) ∧ (op = 0x11 → imm < 64 ∧ imm / 16 ≠ 3) ∧
       (op ∈ [1, 3, 4, 5, 8, 0x3F] → imm = 0)
     (bad → wordCause bg w = 1) ∧ (¬bad → fgSolver → wordCause bg w = 2) ∧
     (¬bad → ¬fgSolver → badBank → wordCause bg w = 6) ∧
     (¬bad → ¬fgSolver → ¬badBank → ¬goodImm → wordCause bg w = 3) ∧
     (¬bad → ¬fgSolver → ¬badBank → goodImm → wordCause bg w = 0))
  ) ∧
  (
  (∀ (c : CraneIx) (q : Queue) (errs : List MemErr) (k : CraneCmd) (s : State), awaiting (crane s c.val) q = some k →
    (let m := meetErrors s errs
     let a := berthAddr (dieOfCrane c.val) (cwDesc k.word)
     let n := descLen (cwOp k.word)
     let d := craneBytes m k a n
     ∃ u, exec (.craneDescriptorArrival c q errs) s = .next u ∧
       (descCause m c.val q k d = 0 → cmds (crane u c.val) q = replaceCmd
         { k with desc := d, phase := .checked, actBank := resolvedBank m c.val k d } (cmds (crane s c.val) q)) ∧
       (descCause m c.val q k d ≠ 0 → (crane u c.val).bank0 = (crane s c.val).bank0 ∧ (crane u c.val).bank1 = (crane s c.val).bank1 ∧
         (q = .fg → flag u (F.craneStateFgStopped c.val) = true ∧
           (crane u c.val).fgCmds = (replaceCmd { k with desc := d, phase := .error } (crane s c.val).fgCmds).map
             (fun y => if k.uid < y.uid then { y with phase := .error } else y)) ∧
         (q = .bg → (crane u c.val).bgCmds = replaceCmd { k with desc := d, phase := .error } (crane s c.val).bgCmds) ∧
         (flag s (F.craneRejectValid c.val) = false → fget u (F.craneRejectCause c.val) = descCause m c.val q k d ∧
           fget u (F.craneRejectSeq c.val) = k.seq.toNat ∧ fget u (F.craneRejectValid c.val) = 1)) ∧
       (poisonedRange m a n = true → flag u F.errPoisonValid = true) ∧
       (poisonedRange m a n = false → u.mem = m.mem ∧ u.poison = m.poison ∧
         (descCause m c.val q k d = 0 → u.fields = m.fields)))) ∧
  (∀ (c : CraneIx) (off left : Nat) (rest : List (Nat × Nat)) (s : State), (crane s c.val).lists = (off, left) :: rest →
    (crane s c.val).bgq.length < 64 →
    (let n := min left (64 - (crane s c.val).bgq.length)
     (rest = [] ∨ 64 - (crane s c.val).bgq.length < left) →
     ∃ u, exec (.bgListFetch c) s = .next u ∧ u.mem = s.mem ∧
       (crane u c.val).lists = (if left ≤ 64 - (crane s c.val).bgq.length then [] else (off + 8 * n, left - n) :: rest) ∧
       (crane u c.val).bgSeq = (crane s c.val).bgSeq + BitVec.ofNat 32 n ∧
       (crane u c.val).bgq = (crane s c.val).bgq ++ (List.range n).map (fun i =>
         ((crane s c.val).bgSeq + BitVec.ofNat 32 i,
           BitVec.ofNat 64 (readNat s (berthAddr (dieOfCrane c.val) (off + 8 * i)) 8))))) ∧
  (∀ (c : CraneIx) (s : State), (crane s c.val).bgPast = true → (crane s c.val).bgLast = none → (crane s c.val).bgCmds = [] →
    exec (.bank1Release c) s = .next
      (fput (setCrane s c.val { crane s c.val with bgPast := false }) (F.craneStateBgEntry c.val) 0)) ∧
  (∀ (s : State) (c : CraneIx) (e : Entry), e.res = c.val →
    (let u := startBg s e
     let n := (bgJob s c.val e.stream).2
     fget u (F.craneStateBgEntry c.val) = 1 ∧ (crane u c.val).bgLast = slotsLeft s e ∧ u.mem = s.mem ∧
       (crane u c.val).bgPast = decide (slotsLeft s e = none) ∧
       (fget s (F.craneBgqBaseCount c.val) ≤ e.stream →
         (crane u c.val).bgq = (crane s c.val).bgq ∧ (crane u c.val).lists = (crane s c.val).lists) ∧
       (e.stream < fget s (F.craneBgqBaseCount c.val) → (crane s c.val).lists = [] → (crane s c.val).bgq.length + n ≤ 64 →
         (crane u c.val).lists = [] ∧ (crane u c.val).bgq = (crane s c.val).bgq ++ (List.range n).map (fun i =>
           ((crane s c.val).bgSeq + BitVec.ofNat 32 i,
             BitVec.ofNat 64 (readNat s (berthAddr (dieOfCrane c.val) ((bgJob s c.val e.stream).1 + 8 * i)) 8))))))
  )

/-- MMA and GATHER (R109, R110, R128, R152 to R154, R168, R381): a ready array command runs its next segment: every element
of each bank it works in takes the terms of the segment's steps in order, each added with one rounding to odd in binary32,
starting from zero where acc is clear; the in-flight count rises by the steps; the command is done or waits for its
automatic spill. Poison among its operands poisons those banks. The operands of a step (R111 to R114, R116, Table 04-2): the
element of a tile's line and column that the orientation names, scaled by its block, zero in a phantom row or column; a
GATHER takes the row that its index names, and nothing above its rows. The terms of a step (R109, R110, R153, Table 04-1):
one product, or two or three in the pass modes when both hi operands are finite, or the two of a complex mode. -/
def Obligations.ArrayCommandsAccumulateInStepOrder : Prop :=
  (
  ∀ p ∈ ([(.mma, 1), (.gather, 2)] : List ((CraneIx → Queue → Instr) × Nat)),
    ∀ (c : CraneIx) (q : Queue) (k : CraneCmd) (s : State), readyCmd s c.val q p.2 = some k →
      (let lo := stepsBefore k
       let hi := min (lo + mKspill k.desc) (mSteps k.word k.desc)
       let m := (modeOf k.word k.desc).getD .bf
       ∃ u, exec (p.1 c q) s = .next u ∧
         (∀ b, b < 2 → usesBank k.word b = true →
           (∀ i j, i < 128 → j < 128 →
             (let old := bankOf (crane s c.val) b
              let start := if lo = 0 ∧ cwAcc k.word = false then (nzero, false)
                else (dec32 (Tab.get 0 old.vals (128 * i + j)), Tab.get false old.sat (128 * i + j))
              let r := ((List.range (hi - lo)).flatMap (fun n => arrayTerms s k c.val m b i j (lo + n))).foldl
                (fun a t => (rto32 (nadd a.1 t), a.2 || exceeds f32 (nadd a.1 t))) start
              Tab.get 0 (bankOf (crane u c.val) b).vals (128 * i + j) = enc32 r.1 ∧
              Tab.get false (bankOf (crane u c.val) b).sat (128 * i + j) = r.2)) ∧
           (bankOf (crane u c.val) b).inflight = (bankOf (crane s c.val) b).inflight + (hi - lo) ∧
           (lo = 0 → readsPoison s (operandFoot s k c.val) = true → (bankOf (crane u c.val) b).poison = true)) ∧
         (∀ b, b < 2 → usesBank k.word b = false → bankOf (crane u c.val) b = bankOf (crane s c.val) b) ∧
         cmds (crane u c.val) q = replaceCmd
           { k with begun := true, steps := hi, phase := if hi < mSteps k.word k.desc then .segment hi true else .done }
           (cmds (crane s c.val) q) ∧
         (∀ n, n ≠ c.val → crane u n = crane s n) ∧
         (readsPoison s (operandFoot s k c.val) = false → u.mem = s.mem ∧ u.fields = s.fields))
  ) ∧
  (
  (∀ (s : State) (k : CraneCmd) (cr part kk i : Nat) (d : List Byte) (m : Mode),
    (at_ d 0x2E 1 < i → aOperand s k cr d m part kk i = nzero) ∧ (at_ d 0x2F 1 < i → bOperand s k cr d m part kk i = nzero)) ∧
  (∀ (s : State) (k : CraneCmd) (cr kk i : Nat) (d : List Byte) (m : Mode), i ≤ at_ d 0x2E 1 → m ≠ .block8 →
    ∀ p ∈ ([(0, 0), (1, 8)] : List (Nat × Nat)),
      (let tile := at_ d p.2 4 + kk / 128 * at_ d 0x18 4
       let r := if k.word.getLsbD 13 then kk % 128 else i
       let e := if k.word.getLsbD 13 then i else kk % 128
       aOperand s k cr d m p.1 kk i = decode bf16 (craneNat s k (berthAddr (dieOfCrane cr)
         (tile + r / 64 * 0x800000 + (r % 64 * 256 + 2 * ((e + 128 - r) % 128)))) 2))) ∧
  (∀ (s : State) (k : CraneCmd) (cr kk j : Nat) (d : List Byte) (m : Mode), j ≤ at_ d 0x2F 1 → m ≠ .block8 →
    ∀ p ∈ ([(0, 4), (1, 0xC)] : List (Nat × Nat)),
      (let tile := at_ d p.2 4 + kk / 128 * at_ d 0x1C 4
       let r := if k.word.getLsbD 14 then j else kk % 128
       let e := if k.word.getLsbD 14 then kk % 128 else j
       bOperand s k cr d m p.1 kk j = decode bf16 (craneNat s k (berthAddr (dieOfCrane cr)
         (tile + r / 64 * 0x800000 + (r % 64 * 256 + 2 * ((e + 128 - r) % 128)))) 2))) ∧
  (∀ (s : State) (k : CraneCmd) (cr kk i : Nat) (d : List Byte), i ≤ at_ d 0x2E 1 →
    (let tile := at_ d 0 4 + kk / 128 * at_ d 0x18 4
     let scales := at_ d 0x10 4 + kk / 128 * at_ d 0x20 4
     let blk := 16 * 2 ^ (at_ d 0x2D 1 % 4)
     let r := if k.word.getLsbD 13 then kk % 128 else i
     let e := if k.word.getLsbD 13 then i else kk % 128
     let e8 := craneByte s k (berthAddr (dieOfCrane cr) (scales + r * (128 / blk) + e / blk))
     let x := dec8 (decide (at_ d 0x2C 1 % 16 = 1)) (craneByte s k (berthAddr (dieOfCrane cr)
       (tile + r / 64 * 0x800000 + (r % 64 * 128 + (e + 256 - 2 * r) % 128))))
     aOperand s k cr d .block8 0 kk i = if e8 = 0 ∨ e8 = 0xFF then nzero else nscale x ((e8.toNat : Int) - 127))) ∧
  (∀ (s : State) (k : CraneCmd) (cr i j kk : Nat) (m : Mode) (b : Nat), k.word.toNat % 256 = 2 →
    (let row := craneNat s k (berthAddr (dieOfCrane cr) (at_ k.desc 0x30 4 + 2 * (128 * kk + i))) 2
     let r := row % 128
     arrayTerms s k cr m b i j kk =
       if k.word.toNat / 65536 % 65536 ≤ i then []
       else if at_ k.desc 0x2E 1 < i ∨ at_ k.desc 0x2F 1 < j then [nzero]
       else [decode bf16 (craneNat s k (berthAddr (dieOfCrane cr) (at_ k.desc 0 4 + row / 128 * at_ k.desc 0x18 4 +
         r / 64 * 0x800000 + (r % 64 * 256 + 2 * ((j + 128 - r) % 128)))) 2)]))
  ) ∧
  (
  ∀ a0 a1 b0 b1 : Machine.Num,
    stepTerms .bf 0 a0 a1 b0 b1 = [nmul a0 b0] ∧ stepTerms .block8 0 a0 a1 b0 b1 = [nmul a0 b0] ∧
    (isFinite a0 = true → isFinite b0 = true →
      stepTerms .pass2 0 a0 a1 b0 b1 = [nmul a0 b0, nmul a1 b0] ∧
      stepTerms .pass3 0 a0 a1 b0 b1 = [nmul a0 b0, nmul a0 b1, nmul a1 b0]) ∧
    ((isFinite a0 = false ∨ isFinite b0 = false) →
      stepTerms .pass2 0 a0 a1 b0 b1 = [nmul a0 b0, nzero] ∧ stepTerms .pass3 0 a0 a1 b0 b1 = [nmul a0 b0, nzero, nzero]) ∧
    stepTerms .complex4 0 a0 a1 b0 b1 = [nmul a0 b0, nneg (nmul a1 b1)] ∧
    stepTerms .complex4 1 a0 a1 b0 b1 = [nmul a0 b1, nmul a1 b0] ∧
    stepTerms .gauss 0 a0 a1 b0 b1 = [nmul b0 (rtoBf (nadd a0 a1)), nneg (nmul a1 (rtoBf (nadd b0 b1)))] ∧
    stepTerms .gauss 1 a0 a1 b0 b1 = [nmul b0 (rtoBf (nadd a0 a1)), nmul a0 (rtoBf (nsub b1 b0))]
  )

/-- SPILL and the automatic spill (R165, R170 to R173, R381): each element of the partial buffer takes the bank's element,
or the sum rounded to odd in binary64 of its own and the bank's; the bank's values are then zero. A SPILL writes a record;
the second bank of a complex command has its buffer right after the first. Poison in the bank or the old partial poisons the
new one. -/
def Obligations.SpillsAddTheBankToItsPartial : Prop :=
  (∀ (c : CraneIx) (q : Queue) (k : CraneCmd) (s : State), readyMover s c.val q 3 = some k →
    (let b := bankOf (crane s c.val) (cwBank k.word)
     let off := at_ k.desc 0 4
     let rcd := berthAddr (dieOfCrane c.val) (at_ k.desc 4 4)
     ∃ u, exec (.spill c q) s = .next u ∧
       (bankOf (crane u c.val) (cwBank k.word)).vals = [] ∧ (bankOf (crane u c.val) (cwBank k.word)).inflight = b.inflight ∧
       bankOf (crane u c.val) (1 - cwBank k.word) = bankOf (crane s c.val) (1 - cwBank k.word) ∧
       cmds (crane u c.val) q = replaceCmd { k with begun := true, phase := .done } (cmds (crane s c.val) q) ∧
       (∀ n, n ≠ c.val → crane u n = crane s n) ∧
       (readsPoison s (spillFoot c.val k.desc) = false → u.fields = s.fields ∧
         (partialOk c.val off = true → partialIn off 16384 = true → at_ k.desc 4 4 + 32 ≤ 0x20000000 →
           memKept ((rcd, 32) :: (List.range 8).map (fun n => (berthAddr (dieOfCrane c.val) (off + n * 0x800000), 16384))) s u ∧
           ((∀ n, n < 8 → apart rcd 32 (berthAddr (dieOfCrane c.val) (off + n * 0x800000)) 16384) →
             (b.poison = true → ∀ i j, i < 128 → j < 128 → poisoned u (partialAddr c.val off i j) = true) ∧
             ((∀ a, unorderedByte s k a = false) →
               (∀ i j, i < 128 → j < 128 → readNat u (partialAddr c.val off i j) 8 =
                 encode f64 (rto64 (if at_ k.desc 8 1 % 2 = 1 then dec32 (Tab.get 0 b.vals (128 * i + j))
                   else nadd (decode f64 (readNat s (partialAddr c.val off i j) 8))
                     (dec32 (Tab.get 0 b.vals (128 * i + j))))) % 2 ^ 64) ∧
               readNat u (rcd + 0x10) 4 = 16384 ∧ readNat u (rcd + 0x18) 1 = 6 ∧ readNat u (rcd + 0x1C) 4 = k.seq.toNat)))))) ∧
  (∀ (c : CraneIx) (q : Queue) (k : CraneCmd) (s : State), spillingCmd s c.val q = some k →
    (let off := fun b => mSpill k.desc + (if twoBanks k.word then 16384 * b else 0)
     let banks := (List.range 2).filter (fun b => twoBanks k.word || decide (b = cwBank k.word))
     let first := k.steps = mKspill k.desc ∧ cwAcc k.word = false
     ∃ u, exec (.automaticSpill c q) s = .next u ∧
       cmds (crane u c.val) q = replaceCmd
         { k with phase := .segment k.steps false, spilled := true, accumulated := k.steps } (cmds (crane s c.val) q) ∧
       (∀ b, b < 2 → b ∉ banks → bankOf (crane u c.val) b = bankOf (crane s c.val) b) ∧
       (∀ b ∈ banks, (bankOf (crane u c.val) b).vals = [] ∧ (bankOf (crane u c.val) b).sat = (bankOf (crane s c.val) b).sat ∧
         (bankOf (crane u c.val) b).inflight = (bankOf (crane s c.val) b).inflight - (k.steps - k.accumulated)) ∧
       (∀ n, n ≠ c.val → crane u n = crane s n) ∧
       (partialOk c.val (mSpill k.desc) = true → partialIn (mSpill k.desc) (16384 * banks.length) = true →
         (¬first → ∀ b ∈ banks, readsPoison s (partialFoot c.val (off b) false) = false) →
         u.fields = s.fields ∧
         memKept (banks.flatMap (fun b => (List.range 8).map (fun n =>
           (berthAddr (dieOfCrane c.val) (off b + n * 0x800000), 16384)))) s u ∧
         (∀ b ∈ banks, (bankOf (crane s c.val) b).poison = true →
           ∀ i j, i < 128 → j < 128 → poisoned u (partialAddr c.val (off b) i j) = true) ∧
         ((∀ a, unorderedByte s k a = false) → ∀ b ∈ banks, ∀ i j, i < 128 → j < 128 →
           (let x := dec32 (Tab.get 0 (bankOf (crane s c.val) b).vals (128 * i + j))
            readNat u (partialAddr c.val (off b) i j) 8 =
              encode f64 (if first then x
                else rto64 (nadd (decode f64 (readNat s (partialAddr c.val (off b) i j) 8)) x)) % 2 ^ 64)))))

/-- ZERO, LOADACC and MARK (Table 04-4, R129, R136): ZERO leaves its bank zero with its bits, flag and mark clear; LOADACC
leaves some values in it, which the manual does not give; MARK ends when it is the oldest of its queue. The drain interlock
and retirement (R94, R119, R128, R129): a bank's in-flight count falls to zero as its steps settle, those of a complex
command in the other bank too; the oldest command of a queue that has ended retires, its sequence number then the queue's
retired count, and one that has not ended stays. -/
def Obligations.CraneCommandsFinishAndRetire : Prop :=
  (
  (∀ (c : CraneIx) (q : Queue) (k : CraneCmd) (s : State), readyMover s c.val q 4 = some k →
    ∃ u, exec (.zero c q) s = .next u ∧ bankOf (crane u c.val) (cwBank k.word) = {} ∧
      bankOf (crane u c.val) (1 - cwBank k.word) = bankOf (crane s c.val) (1 - cwBank k.word) ∧
      cmds (crane u c.val) q = replaceCmd { k with begun := true, phase := .done } (cmds (crane s c.val) q) ∧
      (∀ n, n ≠ c.val → crane u n = crane s n) ∧ u.mem = s.mem ∧ u.fields = s.fields) ∧
  (∀ (c : CraneIx) (q : Queue) (k : CraneCmd) (s : State), readyMover s c.val q 5 = some k →
    ∃ u, exec (.loadacc c q) s = .next u ∧ (bankOf (crane u c.val) (cwBank k.word)).sat = [] ∧
      (bankOf (crane u c.val) (cwBank k.word)).rsv = false ∧ (bankOf (crane u c.val) (cwBank k.word)).inflight = 0 ∧
      bankOf (crane u c.val) (1 - cwBank k.word) = bankOf (crane s c.val) (1 - cwBank k.word) ∧
      cmds (crane u c.val) q = replaceCmd { k with begun := true, phase := .done } (cmds (crane s c.val) q) ∧
      (∀ n, n ≠ c.val → crane u n = crane s n) ∧ u.mem = s.mem ∧ u.fields = s.fields) ∧
  (∀ (c : CraneIx) (q : Queue) (k : CraneCmd) (rest : List CraneCmd) (s : State), cmds (crane s c.val) q = k :: rest →
    cwOp k.word = 0x3F → k.phase = .checked →
    ∃ u, exec (.mark c q) s = .next u ∧ cmds (crane u c.val) q = replaceCmd { k with begun := true, phase := .done } (k :: rest) ∧
      u.mem = s.mem ∧ u.fields = s.fields ∧ (crane u c.val).bank0 = (crane s c.val).bank0 ∧
      (crane u c.val).bank1 = (crane s c.val).bank1)
  ) ∧
  (
  (∀ (c : CraneIx) (bank : Bool) (s : State), moverWaits (crane s c.val) (if bank then 1 else 0) = true →
    (bankOf (crane s c.val) (if bank then 1 else 0)).inflight ≠ 0 →
    (let b := if bank then 1 else 0
     let x := crane s c.val
     let f := fun (k : CraneCmd) => if usesBank k.word b then { k with accumulated := k.steps } else k
     ∃ u, exec (.drainInterlockRelease c bank) s = .next u ∧
       bankOf (crane u c.val) b = { bankOf x b with inflight := 0 } ∧
       bankOf (crane u c.val) (1 - b) = { bankOf x (1 - b) with
         inflight := (bankOf x (1 - b)).inflight - (((x.fgCmds ++ x.bgCmds).filter (fun k => usesBank k.word b &&
           usesBank k.word (1 - b))).map (fun k => k.steps - k.accumulated)).sum } ∧
       (crane u c.val).fgCmds = x.fgCmds.map f ∧ (crane u c.val).bgCmds = x.bgCmds.map f ∧
       u.mem = s.mem ∧ u.fields = s.fields)) ∧
  (∀ (c : CraneIx) (q : Queue) (k : CraneCmd) (rest : List CraneCmd) (s : State), cmds (crane s c.val) q = k :: rest →
    (k.phase = .done ∨ k.phase = .error) →
    ∃ u, exec (.craneRetire c q) s = .next u ∧ cmds (crane u c.val) q = rest ∧
      (∀ b, b < 2 → bankOf (crane u c.val) b = { bankOf (crane s c.val) b with
        inflight := (bankOf (crane s c.val) b).inflight - (if usesBank k.word b then k.steps - k.accumulated else 0) }) ∧
      (q = .fg → (crane u c.val).bgCmds = (crane s c.val).bgCmds ∧
        (crane u c.val).fgDone = (crane s c.val).fgDone ++ [(k.uid, k.seq)] ∧
        (crane u c.val).bgDone = (crane s c.val).bgDone) ∧
      (q = .bg → (crane u c.val).fgCmds = (crane s c.val).fgCmds ∧
        (crane u c.val).bgDone = (crane s c.val).bgDone ++ [(k.uid, k.seq)] ∧
        (crane u c.val).fgDone = (crane s c.val).fgDone) ∧
      (∀ n, n ≠ c.val → crane u n = crane s n) ∧
      (q = .fg ∨ (cwOp k.word ≠ 0x10 ∧ cwOp k.word ≠ 0x11) ∨ s.job.cycles = [] →
        u.mem = s.mem ∧ u.tide = s.tide ∧ u.job = s.job ∧
        (q = .fg → fget u (F.craneStatusFgRetired c.val) = k.seq.toNat ∧
          fget u (F.craneStatusBgRetired c.val) = fget s (F.craneStatusBgRetired c.val)) ∧
        (q = .bg → fget u (F.craneStatusBgRetired c.val) = k.seq.toNat ∧
          fget u (F.craneStatusFgRetired c.val) = fget s (F.craneStatusFgRetired c.val)))) ∧
  (∀ (c : CraneIx) (q : Queue) (k : CraneCmd) (rest : List CraneCmd) (s : State), cmds (crane s c.val) q = k :: rest →
    k.phase ≠ .done → k.phase ≠ .error → exec (.craneRetire c q) s = .next s)
  )

/-- DRAIN's stages (R169, R176 to R181, Table 06-4): the bank's element, or its sum with the partial in binary64 rounded to
odd in binary32; the scale; a bias by column or row; the clip, through which a NaN passes; the resolved activation table;
and dropout, which gives zero or the value scaled. DRAIN (R146 to R151, R165 to R169, R174 to R180): a ready command writes
each row in its format, with its block exponents, lo parts or row sums, then its record, and nothing else; the bank is then
zero. TOPK (R165, R174, R186): of each row the k highest-ranking values and their columns are written, zero and 0xFFFFFFFF
where the row has fewer, then the record; the bank is then zero. PIVOT (R235, R236): each lane gives 1/x, or 1/√x, rounded
once to odd; a NaN or zero pivot, for the root one not above zero, gives zero and its zero flag, and a pivot not above its
threshold gives zero and its tiny flag. TOPK's ranking (R186): every column of the row appears once, a greater value before
a smaller one, a NaN after every number, and equal values in column order. -/
def Obligations.DrainTopkPivotWriteTheirOutputs : Prop :=
  (
  (∀ (s : State) (k : CraneCmd) (c i j : Nat) (b : Bank),
    (let x := dec32 (Tab.get 0 b.vals (128 * i + j))
     let f := rto64 (nadd (decode f64 (craneNat s k (partialAddr c (at_ k.desc 0x18 4) i j) 8)) x)
     drainSource s k c b i j =
       if (at_ k.desc 0x56 2).testBit 11 then (rto32 f, Tab.get false b.sat (128 * i + j) || exceeds f32 f)
       else (x, Tab.get false b.sat (128 * i + j)))) ∧
  (∀ (s : State) (k : CraneCmd) (c i j : Nat) (y : Machine.Num),
    (let ctl := at_ k.desc 0x56 2
     let mode := ctl / 32 % 4
     let idx := at_ k.desc 0x48 8 + i * at_ k.desc 0x50 4 + j
     let y1 := rto64 (nmul y (f32At k.desc 0x28))
     let n := if mode = 1 then j else i
     let bias := decode f32 (craneNat s k (berthAddr (dieOfCrane c) (at_ k.desc 0x1C 4 + 4 * n)) 4)
     let y2 := if mode = 0 then y1 else rto64 (nadd y1 bias)
     let lo := f32At k.desc 0x2C
     let hi := f32At k.desc 0x30
     let y3 := if ctl.testBit 7 then (if isNan y2 then y2 else nmin (nmax y2 lo) hi) else y2
     let y4 := if ctl.testBit 8 then act (tableWord (crane s c) k) y3 else y3
     drainStages s k c i j y =
       if ctl.testBit 12 then
         (if dropped (draw s.job.seed (BitVec.ofNat 64 (at_ k.desc 0x40 8)) 3 idx) (BitVec.ofNat 32 (at_ k.desc 0x38 4))
          then nzero else rto64 (nmul y4 (f32At k.desc 0x34)))
       else y4))
  ) ∧
  (
  ∀ (c : CraneIx) (q : Queue) (k : CraneCmd) (s : State), readyMover s c.val q 8 = some k →
    (let d := k.desc
     let b := bankOf (crane s c.val) (cwBank k.word)
     let at' := fun off => berthAddr (dieOfCrane c.val) off
     let fmt := at_ d 0x56 2 % 8
     let y := fun i j => drainStages s k c.val i j (drainSource s k c.val b i j).1
     let outs := (drainRanges k.word d).filter (fun r => r.2.2)
     ∃ u, exec (.drain c q) s = .next u ∧ bankOf (crane u c.val) (cwBank k.word) = {} ∧
       bankOf (crane u c.val) (1 - cwBank k.word) = bankOf (crane s c.val) (1 - cwBank k.word) ∧
       cmds (crane u c.val) q = replaceCmd { k with begun := true, phase := .done } (cmds (crane s c.val) q) ∧
       (∀ n, n ≠ c.val → crane u n = crane s n) ∧
       ((fmt = 0 ∨ fmt = 1 ∨ fmt = 2 ∨ fmt = 3 ∨ fmt = 5) → (∀ r ∈ outs, r.1 + r.2.1 ≤ 0x20000000) →
         readsPoison s (drainFoot c.val k.word d) = false →
         u.fields = s.fields ∧ memKept (outs.map (fun r => (at' r.1, r.2.1))) s u ∧
         ((∀ a, unorderedByte s k a = false) → outs.Pairwise (fun x z => apart x.1 x.2.1 z.1 z.2.1) →
           (∀ i j, i ≤ at_ d 0x54 1 → j ≤ at_ d 0x55 1 →
             (let o := at' (at_ d 0 4 + i * at_ d 4 4)
              let g := decide (fmt = 1)
              let blk := 16 * 2 ^ (at_ d 0x56 2 / 8 % 4)
              let block := (List.range (min blk (at_ d 0x55 1 + 1 - j / blk * blk))).map (fun n => y i (j / blk * blk + n))
              let e8 := chooseE8 g block
              let rnd := if fmt = 1 then Rnd.stoch (drawLow16 (draw s.job.seed (BitVec.ofNat 64 (at_ d 0x40 8)) 1
                (at_ d 0x48 8 + i * at_ d 0x50 4 + j))) else .rne
              (fmt = 2 → readNat u (o + 2 * j) 2 = encode bf16 (narrow bf16 .rne (y i j)) % 2 ^ 16) ∧
              (fmt = 3 → readNat u (o + 4 * j) 4 = encode f32 (narrow f32 .rne (y i j)) % 2 ^ 32) ∧
              (fmt = 5 → readNat u (o + 2 * j) 2 = encode bf16 (narrow bf16 .rne (y i j)) % 2 ^ 16 ∧
                readNat u (at' (at_ d 8 4 + i * at_ d 4 4) + 2 * j) 2 = encode bf16 (loPart .rne (y i j)) % 2 ^ 16) ∧
              (fmt ≤ 1 → memByte u (at' (at_ d 0xC 4 + i * at_ d 0x10 4) + j / blk) = BitVec.ofNat 8 e8 ∧
                memByte u (o + j) = if e8 = 0 then 0
                  else enc8 g (narrow (fmt8 g) rnd (nscale (y i j) (127 - (e8 : Int))))))) ∧
           ((at_ d 0x56 2).testBit 13 = true → ∀ i, i ≤ at_ d 0x54 1 →
             readNat u (at' (at_ d 0x20 4) + 4 * i) 4 =
               encode f32 (rne32 ((List.range (at_ d 0x55 1 + 1)).foldl (fun a j => rto64 (nadd a (y i j))) nzero)) % 2 ^ 32) ∧
           readNat u (at' (at_ d 0x14 4) + 0x10) 4 = (at_ d 0x54 1 + 1) * (at_ d 0x55 1 + 1) ∧
           readNat u (at' (at_ d 0x14 4) + 0x18) 1 = fmt ∧ readNat u (at' (at_ d 0x14 4) + 0x1C) 4 = k.seq.toNat)))
  ) ∧
  (
  ∀ (c : CraneIx) (q : Queue) (k : CraneCmd) (s : State), readyMover s c.val q 9 = some k →
    (let d := k.desc
     let b := bankOf (crane s c.val) (cwBank k.word)
     let at' := fun off => berthAddr (dieOfCrane c.val) off
     let fmt := at_ d 0x56 2 % 8
     let f := if fmt = 2 then bf16 else f32
     let width := if fmt = 2 then 2 else 4
     let n := at_ d 0x55 1 + 1
     let y := fun i j => drainStages s k c.val i j (drainSource s k c.val b i j).1
     let outs := (drainRanges k.word d).filter (fun r => r.2.2)
     ∃ u, exec (.topk c q) s = .next u ∧ bankOf (crane u c.val) (cwBank k.word) = {} ∧
       bankOf (crane u c.val) (1 - cwBank k.word) = bankOf (crane s c.val) (1 - cwBank k.word) ∧
       cmds (crane u c.val) q = replaceCmd { k with begun := true, phase := .done } (cmds (crane s c.val) q) ∧
       (∀ m, m ≠ c.val → crane u m = crane s m) ∧
       ((fmt = 2 ∨ fmt = 3) → (∀ r ∈ outs, r.1 + r.2.1 ≤ 0x20000000) → readsPoison s (drainFoot c.val k.word d) = false →
         u.fields = s.fields ∧ memKept (outs.map (fun r => (at' r.1, r.2.1))) s u ∧
         ((∀ a, unorderedByte s k a = false) → outs.Pairwise (fun x z => apart x.1 x.2.1 z.1 z.2.1) →
           (∀ i r, i ≤ at_ d 0x54 1 → r < k.word.toNat / 65536 % 65536 →
             (let o := at' (at_ d 0 4 + i * at_ d 4 4) + width * r
              let p := at' (at_ d 0x20 4 + i * at_ d 0x24 4) + 4 * r
              let col := (rankOrder (fun j => if j < n then y i j else nzero) n).getD r 0
              (r < n → readNat u o width = encode f (narrow f .rne (y i col)) % 2 ^ (8 * width) ∧
                readNat u p 4 = (at_ d 0x3C 4 + col) % 2 ^ 32) ∧
              (n ≤ r → readNat u o width = 0 ∧ readNat u p 4 = 0xFFFFFFFF))) ∧
           readNat u (at' (at_ d 0x14 4) + 0x18) 1 = fmt ∧ readNat u (at' (at_ d 0x14 4) + 0x1C) 4 = k.seq.toNat)))
  ) ∧
  (
  (∀ (rsq : Bool) (x : Machine.Num) (tiny : Bool),
    (let zero := isNan x = true ∨ (rsq = false ∧ isZero x = true) ∨ (rsq = true ∧ nle x nzero = true)
     (zero ∨ tiny = true → (pivotLane rsq x tiny).1 = nzero) ∧ ((pivotLane rsq x tiny).2.1 = true ↔ zero) ∧
     (pivotLane rsq x tiny).2.2 = tiny ∧
     (¬zero → tiny = false → (pivotLane rsq x tiny).1 =
       rto32 (if rsq then nsqrt (ndiv (largest f32) none1 x) else ndiv (largest f32) none1 x)))) ∧
  (∀ (c : CraneIx) (q : Queue) (k : CraneCmd) (s : State), readyCmd s c.val q 0x12 = some k →
    (let d := k.desc
     let n := at_ d 0x14 1 + 1
     let out := berthAddr (dieOfCrane c.val) (at_ d 8 4)
     let flags := berthAddr (dieOfCrane c.val) (at_ d 0xC 4)
     let lane := fun off l => decode f32 (readNat s (berthAddr (dieOfCrane c.val) (off + 4 * l)) 4)
     let r := fun l => pivotLane (decide (k.word.toNat / 65536 % 65536 = 1)) (lane (at_ d 0 4) l)
       (decide (at_ d 4 4 ≠ 0) && nle (nabs (lane (at_ d 0 4) l)) (nmul (f32At d 0x10) (lane (at_ d 4 4) l)))
     ∃ u, exec (.pivot c q) s = .next u ∧ (crane u c.val).bank0 = (crane s c.val).bank0 ∧
       (crane u c.val).bank1 = (crane s c.val).bank1 ∧
       cmds (crane u c.val) q = replaceCmd { k with begun := true, phase := .done } (cmds (crane s c.val) q) ∧
       (∀ m, m ≠ c.val → crane u m = crane s m) ∧
       (readsPoison s (pivotFoot c.val d) = false → at_ d 8 4 + 4 * n ≤ 0x20000000 → at_ d 0xC 4 + 32 ≤ 0x20000000 →
         u.fields = s.fields ∧ memKept [(out, 4 * n), (flags, 32)] s u ∧
         ((∀ a, unorderedByte s k a = false) → apart out (4 * n) flags 32 → n ≤ 128 →
           ∀ l, l < n → readNat u (out + 4 * l) 4 = encode f32 (r l).1 % 2 ^ 32 ∧
             (memByte u (flags + l / 8)).getLsbD (l % 8) = (r l).2.1 ∧
             (memByte u (flags + 16 + l / 8)).getLsbD (l % 8) = (r l).2.2))))
  ) ∧
  (
  ∀ (ys : Nat → Machine.Num) (n : Nat), (rankOrder ys n).Perm (List.range n) ∧
    (rankOrder ys n).Pairwise (fun a b => ranksAbove (ys b) (ys a) = false ∧ (ranksAbove (ys a) (ys b) = false → a < b))
  )

/-- ROOTNS (R219, R220, R223, R224, R231 to R233, Table 08-2) on a batch of one facet: a start writes state 0 with no
iterations and start 2 after a rejected warm start, an iteration the facet's state from the stopping tests and its count;
both write the residual, the one before, and X and M; with no active facet the command does nothing. CHOL (R225, R226, R232
to R234) on a batch of one facet: a block beyond the facet changes no memory; a failed pivot ends the facet in state 5 with
its index and kind and writes nothing else; a block that factors writes only L; the last block of the Form phase ends the
facet in state 1 with residual zero; with no active facet the command does nothing. -/
def Obligations.SolverCommandsAdvanceTheirFacets : Prop :=
  (
  (∀ (c : CraneIx) (k : CraneCmd) (s : State), readyCmd s c.val .bg 0x10 = some k →
    (anyActive s k c.val = false →
      exec (.rootns c) s = .next (setCmd s c.val .bg { k with begun := true, phase := .done })) ∧
    (anyActive s k c.val = true → ∃ u, exec (.rootns c) s = .next u ∧ (crane u c.val).bank0 = (crane s c.val).bank0 ∧
      (crane u c.val).bank1.vals = [] ∧ (crane u c.val).bank1.sat = [] ∧
      cmds (crane u c.val) .bg = replaceCmd { k with begun := true, phase := .done } (cmds (crane s c.val) .bg))) ∧
  (∀ (c : CraneIx) (k : CraneCmd) (e : List Byte) (s : State), readyCmd s c.val .bg 0x10 = some k → at_ k.desc 4 1 = 0 →
    (∀ a, unorderedByte s k a = false) → e = readBytes s (svEntry c.val k.desc 0) 64 → at_ e 2 1 = 0 →
    readsPoison s (entryReads c.val k.word e) = false →
    (let n := at_ e 0 2
     let p := Machine.orderOf (cwImm k.word % 4)
     let init := cwImm k.word / 4 = 1
     let r := if init then startSolve n p (decide (at_ e 4 1 = 1)) (readArea s k c.val (at_ e 8 4) n)
         (if at_ e 4 1 = 1 then readArea s k c.val (at_ e 0x1C 4) n else []) (f32At e 0x20) (f32At e 0x24)
       else iterate n p (readArea s k c.val (at_ e 0xC 4) n) (readArea s k c.val (at_ e 0x10 4) n)
     let it := if init then 0 else at_ e 3 1 + 1
     let st := if init then 0 else stopState it (at_ k.desc 5 1) r.e (f32At e 0x28) (f32At k.desc 8) (f32At k.desc 0xC)
     let a := svEntry c.val k.desc 0
     ∃ u, exec (.rootns c) s = .next u ∧ u.fields = s.fields ∧
       readNat u (a + 2) 1 = st ∧ readNat u (a + 3) 1 = it % 256 ∧
       readNat u (a + 4) 1 = (if init ∧ at_ e 4 1 = 1 ∧ r.warm = false then 2 else at_ e 4 1) ∧
       readNat u (a + 0x28) 4 = encode f32 r.e % 2 ^ 32 ∧ readNat u (a + 0x2C) 4 = at_ e 0x28 4 ∧
       (1 ≤ n → n ≤ 1024 → (∀ o ∈ svAreas e, svAreaOk c.val e o = true) →
         areasApart ((svAreas e).map (fun o => (o, areaBytes e))) = true →
         (∀ o ∈ svAreas e, ∀ b, b < 2 →
           apart a 64 (berthAddr (dieOfCrane c.val) (o + b * 0x800000)) (areaBytes e)) →
         memKept ((a, 64) :: [at_ e 0xC 4, at_ e 0x10 4, at_ e 0x14 4, at_ e 0x18 4].flatMap (fun o =>
           (List.range 2).map (fun b => (berthAddr (dieOfCrane c.val) (o + b * 0x800000), areaBytes e)))) s u ∧
         (st ≠ 3 → st ≠ 4 → ∀ i j, i < n → j < n → i / 128 ≤ j / 128 →
           ∀ z ∈ [(at_ e 0xC 4, r.x), (at_ e 0x10 4, r.m)],
             readNat u (areaAddr c.val z.1 (nbOf n) i j false) 2 = encode bf16 (pElem z.2 i j).1 % 2 ^ 16 ∧
             readNat u (areaAddr c.val z.1 (nbOf n) i j true) 2 = encode bf16 (pElem z.2 i j).2 % 2 ^ 16)))) ∧
  (∀ (k itMax : Nat) (e ePrev tol accept : Machine.Num),
    (isNan e = true → stopState k itMax e ePrev tol accept = 3) ∧
    (isNan e = false → nlt (.fin false 2 0) e = true → stopState k itMax e ePrev tol accept = 3) ∧
    (isNan e = false → nlt (.fin false 2 0) e = false → nle e tol = true → stopState k itMax e ePrev tol accept = 1) ∧
    (isNan e = false → nlt (.fin false 2 0) e = false → nle e tol = false → 2 ≤ k → nle ePrev e = true →
      stopState k itMax e ePrev tol accept = if nle e accept then 2 else 4) ∧
    (isNan e = false → nlt (.fin false 2 0) e = false → nle e tol = false → (k < 2 ∨ nle ePrev e = false) → k ≠ itMax →
      stopState k itMax e ePrev tol accept = 0) ∧
    (isNan e = false → nlt (.fin false 2 0) e = false → nle e tol = false → (k < 2 ∨ nle ePrev e = false) → k = itMax →
      stopState k itMax e ePrev tol accept = if nle e accept then 2 else 4))
  ) ∧
  (
  (∀ (c : CraneIx) (k : CraneCmd) (s : State), readyCmd s c.val .bg 0x11 = some k →
    (anyActive s k c.val = false → exec (.chol c) s = .next (setCmd s c.val .bg { k with begun := true, phase := .done })) ∧
    (anyActive s k c.val = true → ∃ u, exec (.chol c) s = .next u ∧ (crane u c.val).bank0 = (crane s c.val).bank0 ∧
      (crane u c.val).bank1.vals = [] ∧ (crane u c.val).bank1.sat = [] ∧
      cmds (crane u c.val) .bg = replaceCmd { k with begun := true, phase := .done } (cmds (crane s c.val) .bg))) ∧
  (∀ (c : CraneIx) (k : CraneCmd) (e : List Byte) (s : State), readyCmd s c.val .bg 0x11 = some k → at_ k.desc 4 1 = 0 →
    (∀ a, unorderedByte s k a = false) → e = readBytes s (svEntry c.val k.desc 0) 64 → at_ e 2 1 = 0 →
    (let nb := (at_ e 0 2 + 127) / 128
     let blk := cwImm k.word % 16
     let phase := cwImm k.word / 16
     let a := svEntry c.val k.desc 0
     (nb ≤ blk → ∃ u, exec (.chol c) s = .next u ∧ u.mem = s.mem ∧ u.fields = s.fields) ∧
     (blk < nb → readsPoison s (cholReads c.val phase e) = false →
       (∀ f, phase = 0 → cholFactor s k c.val blk e = .inl f →
         ∃ u, exec (.chol c) s = .next u ∧ readNat u (a + 2) 1 = 5 ∧ readNat u (a + 5) 1 = f.kind % 256 ∧
           readNat u (a + 6) 2 = f.idx % 65536 ∧ memKept [(a + 2, 1), (a + 5, 3)] s u ∧ u.fields = s.fields) ∧
       (∀ ws, phase = 0 → cholFactor s k c.val blk e = .inr ws → svAreaOk c.val e (at_ e 0x14 4) = true →
         ∃ u, exec (.chol c) s = .next u ∧ u.fields = s.fields ∧
           memKept ((List.range 2).map (fun b =>
             (berthAddr (dieOfCrane c.val) (at_ e 0x14 4 + b * 0x800000), areaBytes e))) s u) ∧
       (phase = 2 → blk + 1 = nb →
         ∃ u, exec (.chol c) s = .next u ∧ readNat u (a + 2) 1 = 1 ∧ readNat u (a + 0x28) 4 = 0 ∧ u.fields = s.fields))))
  )

/-- The activation tables (R182 to R184): a write of a word pair enters the Flood bank and sets dirty, unless an unretired
command or an earlier held write uses that slot, when it is held until the bank is free; while the Drain tables group is
being checked or is armed it is ignored. -/
def Obligations.TableWritesEnterTheFloodBank : Prop :=
  (∀ (who : Agent) (c : CraneIx) (slot : Fin 4) (n : Fin 193) (x : Word) (s : State),
    floodInUse (crane s c.val) slot.val = false → (∀ h ∈ (crane s c.val).heldAct, h.slot ≠ slot.val) →
    (shadowLocked s 4 = true →
      exec (.actTableWrite who c slot n x) s = .next (fput s F.tideStageStatusWriteWhileArmed 1)) ∧
    (shadowLocked s 4 = false →
      ∃ u, exec (.actTableWrite who c slot n x) s = .next u ∧
        actWord (crane u c.val) slot.val (floodBank (crane s c.val) slot.val) (2 * n.val) = x.setWidth 32 ∧
        (n.val ≠ 192 →
          actWord (crane u c.val) slot.val (floodBank (crane s c.val) slot.val) (2 * n.val + 1) = x.extractLsb' 32 32) ∧
        (∀ (l : Fin 4) (b i : Nat), b < 2 → i < 385 →
          (l ≠ slot ∨ b ≠ floodBank (crane s c.val) slot.val ∨ i / 2 ≠ n.val) →
          actWord (crane u c.val) l.val b i = actWord (crane s c.val) l.val b i) ∧
        (fget u (F.craneActGenDirty c.val)).testBit slot.val = true ∧
        (fget u (F.craneActGenFloodValid c.val)).testBit slot.val = false ∧ u.mem = s.mem ∧
        (∀ k, k ≠ c.val → crane u k = crane s k))) ∧
  (∀ (who : Agent) (c : CraneIx) (slot : Fin 4) (n : Fin 193) (x : Word) (s : State),
    (floodInUse (crane s c.val) slot.val = true ∨ ∃ h ∈ (crane s c.val).heldAct, h.slot = slot.val) →
    exec (.actTableWrite who c slot n x) s = .next (setCrane s c.val { crane s c.val with
      heldAct := (crane s c.val).heldAct ++ [⟨slot.val, n.val, x, BitVec.allOnes 64⟩] })) ∧
  (∀ (c : CraneIx) (slot : Fin 4) (h : HeldAct) (before rest : List HeldAct) (s : State),
    (crane s c.val).heldAct = before ++ h :: rest → (∀ y ∈ before, y.slot ≠ slot.val) → h.slot = slot.val →
    (floodInUse (crane s c.val) slot.val = false → exec (.actTableWriteRelease c slot) s =
      .next (applyAct (setCrane s c.val { crane s c.val with heldAct := before ++ rest }) c.val h)) ∧
    (floodInUse (crane s c.val) slot.val = true → exec (.actTableWriteRelease c slot) s = .next s))

/-! ### Statistics, roots and updates -/

/-- FACTOR_MERGE (R202 to R206, R210, R246, R392): for a factor that the module owns, collected, in a step that kc divides
and whose shadow slot may be written, the committed record of the live slot is merged into the shadow slot's: a tainted or
empty collection copies it with skipped one higher; any other writes merges + 1, the step, N, each diagonal entry β·D + (1 −
β)·D'/N rounded once to odd in binary32 (D'/N alone at the first merge), their sum, and each finite row's scale and codes.
Otherwise nothing changes. Rows in YI8 (R141, R203): the scale is the smallest power of two, from 2^−149 on, of which 127
reach the row's largest magnitude; a code is the entry over the scale rounded to odd, within −127 to 127; a row of zeros has
scale and codes zero. REFRESH_CYCLE_START and ROOT_BANK_SWAP (R214 to R216, R240, R241): at a layer's step, with the records
of the step before committed and read for their securing, the Flood set takes the step and that of its swap, the committed
records are copied into its input area, and a factor without a merge, or not collected, has finished with an identity root;
nothing outside the set is written. Otherwise nothing happens. At the swap step or later, with every factor finished, the
Flood set takes the generation above Ebb's. -/
def Obligations.StatisticsAndRefreshCycles : Prop :=
  (
  ∀ (o : MergeOp) (l : Layer) (x : Factor) (w : Owned) (s : State), layerOf s o.layer.toNat = some l →
    (ownedFactors s l).find? (fun x => decide (x.g = o.g ∧ x.facet = o.facet.toNat)) = some x → ownedFactor s l x = some w →
    (let st := (nextStep s w.index).toNat
     let due := jobLive s = true ∧ lyCollect l o.g = true ∧ st % lyKc l = 0 ∧ mayShadow s st = true
     let r := liveRecord s w
     let v := shadowRecord s w
     let h := recHead s r
     let n := readNat s (o.aux.toNat + 0x10) 8
     let tainted := readNat s (o.aux.toNat + 0x18) 8 % 2 = 1
     let beta := decode f32 (lyBeta l)
     let d := fun i => rto32 (
       let x := div64 (decode f32 (readNat s (o.diag.toNat + 4 * i) 4)) (numOfInt n)
       if readNat s (r + 0x10) 4 = 0 then x
       else add64 (mul64 beta (decode f32 (readNat s (r + 0x40 + 4 * i) 4))) (mul64 (nsub none1 beta) x))
     (¬due → exec (.factorMerge o) s = .next s) ∧
     (due → clean s → h.form ≤ 2 → (∀ m, m ≤ headBytes h → populatedRange s v m = true) →
       ∃ u, exec (.factorMerge o) s = .next u ∧ memKept [(v, headBytes h)] s u ∧ u.fields = s.fields ∧
         u.ledger.shadows = s.ledger.shadows.filter (fun y => decide (y.index ≠ w.index)) ++
           [{ shadowOf s w.index with merged := (shadowOf s w.index).merged ++ [o.g] }] ∧
         ((tainted ∨ n = 0) → readNat u (v + 0x14) 4 = (readNat s (r + 0x14) 4 + 1) % 2 ^ 32 ∧
           ∀ i, i < headBytes h → (i < 0x14 ∨ 0x18 ≤ i) → memByte u (v + i) = memByte s (r + i)) ∧
         (¬tainted → n ≠ 0 →
           readNat u (v + 0x10) 4 = (readNat s (r + 0x10) 4 + 1) % 2 ^ 32 ∧ readNat u (v + 0x18) 4 = st ∧
           readNat u (v + 0x14) 4 = readNat s (r + 0x14) 4 ∧ readNat u (v + 0x20) 8 = n ∧
           readNat u (v + 0x1C) 4 = encode f32 (rto32 (((List.range h.dim).map d).foldl add64 nzero)) % 2 ^ 32 ∧
           (∀ i, i < h.dim → readNat u (v + 0x40 + 4 * i) 4 = encode f32 (d i) % 2 ^ 32) ∧
           (h.form ≠ 2 → ∀ i, i < h.dim →
             (let row := mergedRow s r o.offDiag.toNat h beta (numOfInt n) i
              row.all isFinite = true →
                readNat u (v + 0x40 + 4 * h.dim + 4 * i) 4 = (yiRow row).1 % 2 ^ 32 ∧
                ∀ j, j < row.length → memByte u (v + 0x40 + 8 * h.dim + rowStart h.form h.dim h.rank i + j) =
                  (yiRow row).2.getD j 0)))))
  ) ∧
  (
  (∀ (xs : List Machine.Num) (e : Int), rowExp xs = some e →
    -149 ≤ e ∧ (∀ (s : Bool) (m : Nat) (k : Int), Machine.Num.fin s m k ∈ xs → nle (nabs (.fin s m k)) (nscale (.fin false 127 0) e) = true) ∧
    (-149 < e → ∃ (s : Bool) (m : Nat) (k : Int), Machine.Num.fin s m k ∈ xs ∧
      nlt (nscale (.fin false 127 0) (e - 1)) (nabs (.fin s m k)) = true ∨ Machine.Num.inf s ∈ xs)) ∧
  (∀ (xs : List Machine.Num) (e : Int), rowExp xs = some e → xs.all isFinite = true →
    yiRow xs = (encode f32 (.fin false 1 e), xs.map (fun x => yiByte (narrow yi8 .odd (nscale x (-e)))))) ∧
  (∀ (xs : List Machine.Num), (∀ x ∈ xs, isZero x = true) → yiRow xs = (0, xs.map (fun _ => 0))) ∧
  (∀ (xs : List Machine.Num), 0x80#8 ∉ (yiRow xs).2)
  ) ∧
  (
  (∀ (layer step : BitVec 32) (places : List FacetPlace) (l : Layer) (s : State), layerOf s layer.toNat = some l →
    (let st := step.toNat
     let f := floodOf s l
     let fs := ownedFactors s l
     let total := inputOff s l fs.length
     let fresh := cycleOf s l.num = none ∧ 1 ≤ st ∧ st % lyKr l = lyPhase l ∧ s.job.curStep = st ∧ readNat s (f + 8) 4 ≠ st ∧
       committedAt s l (st - 1) = true ∧ secureRead s (st - 1) = true
     let running := (∃ c, cycleOf s l.num = some c) ∧ readNat s (f + 8) 4 = st
     ((jobLive s = false ∨ lyFrozen l = true ∨ (¬fresh ∧ ¬running)) →
       exec (.refreshCycleStart layer step places) s = .next s) ∧
     (jobLive s = true → lyFrozen l = false → fresh → clean s → places = [] →
       (∀ i m, i + m ≤ total → populatedRange s (f + i) m = true) → apart f total (ebbOf s l) 64 →
       (∀ k, k < (ownedPanels s).length → apart f total (ledgerRecord s k) 64) →
       (∀ x ∈ fs, ∃ w, ownedFactor s l x = some w ∧ apart f total (liveRecord s w) (factorBytes x)) →
       ∃ u, exec (.refreshCycleStart layer step places) s = .next u ∧ memKept [(f, total)] s u ∧ u.fields = s.fields ∧
         readNat u f 4 = l.num % 2 ^ 32 ∧ readNat u (f + 4) 4 = readNat s (f + 4) 4 ∧ readNat u (f + 8) 4 = st ∧
         readNat u (f + 0xC) 4 = (st + lyLag l) % 2 ^ 32 ∧ readNat u (f + 0x12) 6 = 0 ∧
         (∃ c, cycleOf u l.num = some c ∧ c.placed = [] ∧
           ∀ n x w, fs[n]? = some x → ownedFactor s l x = some w →
             (lyCollect l x.g = true → ∀ i, i < factorBytes x →
               memByte u (f + inputOff s l n + i) = memByte s (liveRecord s w + i)) ∧
             ((lyCollect l x.g = false ∨ readNat s (liveRecord s w + 0x10) 4 = 0) → n ∈ c.finished ∧
               (let bs := identityRoot l x (st - 1)
                ∀ i, i < bs.length → memByte u (f + rootOff s l n + i) = bs.getD i 0)) ∧
             (lyCollect l x.g = true → readNat s (liveRecord s w + 0x10) 4 ≠ 0 → n ∉ c.finished))))) ∧
  (∀ (layer : BitVec 32) (l : Layer) (s : State), layerOf s layer.toNat = some l →
    (let f := floodOf s l
     let due := jobLive s = true ∧ (∃ c, cycleOf s l.num = some c ∧ ∀ n, n < (ownedFactors s l).length → n ∈ c.finished) ∧
       readNat s (f + 0xC) 4 ≤ s.job.curStep
     (due → populatedRange s (f + 4) 4 = true →
       ∃ u, exec (.rootBankSwap layer) s = .next u ∧ memKept [(f + 4, 4)] s u ∧ u.fields = s.fields ∧
         readNat u (f + 4) 4 = (readNat s (ebbOf s l + 4) 4 + 1) % 2 ^ 32 ∧ cycleOf u l.num = none) ∧
     (¬due → exec (.rootBankSwap layer) s = .next s)))
  )

/-- A facet is placed (R211, R222 to R224, R227, Table 08-5): in its cycle, once, with a usable trace, its entry is written
for a warm start where the Ebb root's tag is that of the solve, else for a cold one, which is counted; B is the record over
its trace plus λ on the diagonal. SOLVE_RETRY (R227, R228): in a cycle, the first failure of a placed facet sets its entry
back for one cold start with more damping and counts a retry; without a usable trace, or after the retry, the previous root
is kept as stale, its run one longer; a facet that has finished or has not failed is left alone. Solved facets (R215, R239):
when the solver command retires on whose entry a placed facet has ended in state 1 or 2, its root, with the entry's
iterations and residual and the tiles of its X, enters the Flood set, is counted, and finishes its factor. Roots that
firmware forms (R227 to R230): a diagonal-only root is 1 over the p-th root of each entry over the trace plus λ, rounded to
binary32; a sketch's root is what its steps give, its columns beyond those kept zero, tried once more with more damping;
without a usable trace, or when both fail, the previous root is kept as stale. Each finishes its factor and is counted. The
products' inner order is the model's choice (assumption 82). -/
def Obligations.RootsAreRetriedKeptOrFormed : Prop :=
  (
  (∀ (layer step : BitVec 32) (p : FacetPlace) (l : Layer) (x : Factor) (c : Cycle) (s : State), layerOf s layer.toNat = some l →
    jobLive s = true → lyFrozen l = false → clean s → cycleOf s l.num = some c → readNat s (floodOf s l + 8) 4 = step.toNat →
    (ownedFactors s l)[p.slot]? = some x → x.form = 0 → p.entry.toNat + 64 ≤ 0x40000000 → p.slot ∉ c.finished →
    (∀ y ∈ c.placed, y.slot ≠ p.slot) → traceOk (inputTrace s l p.slot) = true →
    0x40000000 ≤ floodOf s l → populatedRange s (floodOf s l + 0x1A) 2 = true →
    (let f := floodOf s l
     let lam := lyLambda l
     let one := (tugAdd f64 none1 lam).1
     let warm := lyChol l x.g = false ∧ readNat s (ebbOf s l + rootOff s l p.slot) 8 = structureTag l x lam 1
     let e := p.entry.toNat
     ∃ u, exec (.refreshCycleStart layer step [p]) s = .next u ∧
       cycleOf u l.num = some { c with placed := c.placed ++ [⟨p.slot, e, false⟩] } ∧
       readNat u e 2 = x.dim % 2 ^ 16 ∧ readNat u (e + 2) 2 = 0 ∧ readNat u (e + 8) 4 = p.b.toNat ∧
       readNat u (e + 0xC) 4 = p.x.toNat ∧ readNat u (e + 0x10) 4 = p.m.toNat ∧ readNat u (e + 0x14) 4 = p.s1.toNat ∧
       readNat u (e + 0x18) 4 = p.s2.toNat ∧
       readNat u (e + 0x20) 4 = encode f32 (t32 (invRoot (lyPcode l x.g) one)) % 2 ^ 32 ∧
       readNat u (e + 0x24) 4 = encode f32 (t32 (tugDiv f64 none1 one).1) % 2 ^ 32 ∧
       (warm → readNat u (e + 4) 1 = 1 ∧ readNat u (e + 0x1C) 4 = p.r.toNat ∧
         readNat u (f + 0x1A) 2 = readNat s (f + 0x1A) 2) ∧
       (¬warm → readNat u (e + 4) 1 = 0 ∧ readNat u (e + 0x1C) 4 = 0 ∧
         readNat u (f + 0x1A) 2 = (readNat s (f + 0x1A) 2 + if lyChol l x.g then 0 else 1) % 2 ^ 16))) ∧
  (∀ (s : State) (a i j : Nat) (lam : Machine.Num), i < (recHead s a).dim → j < (recHead s a).dim →
    (let h := recHead s a
     let tr := src32 s (a + 0x1C)
     let q := fun (y : Machine.Num) => (tugDiv f64 y tr).1
     pElem (facetB s a lam) i j = splitPair (t32 (
       if i = j then (tugAdd f64 (q (diagEntry s a i)) lam).1
       else if i < j then q (offEntry s a h i (j - i - 1)) else q (offEntry s a h j (i - j - 1))))))
  ) ∧
  (
  ∀ (layer : BitVec 32) (slot : BitVec 16) (l : Layer) (c : Cycle) (x : Factor) (s : State), layerOf s layer.toNat = some l →
    cycleOf s l.num = some c → (ownedFactors s l)[slot.toNat]? = some x → x.form = 0 → jobLive s = true →
    (let n := slot.toNat
     let f := floodOf s l
     let usable := traceOk (inputTrace s l n) = true
     let kept := fun (t u : State) =>
       (let a := ebbOf t l + rootOff t l n
        let w := f + rootOff t l n
        memKept [(w, factorRootBytes x), (f + 0x16, 2)] t u ∧ u.fields = t.fields ∧ memByte u (w + 0xC) = 3 ∧
        readNat u (w + 0x18) 4 = (readNat t (a + 0x18) 4 + 1) % 2 ^ 32 ∧
        readNat u (f + 0x16) 2 = (readNat t (f + 0x16) 2 + 1) % 2 ^ 16 ∧
        (∀ i, i < factorRootBytes x → i ≠ 0xC → (i < 0x18 ∨ 0x1C ≤ i) → memByte u (w + i) = memByte t (a + i)) ∧
        ∃ d, cycleOf u l.num = some d ∧ d.finished = c.finished ++ [n] ∧ ∀ p ∈ d.placed, p.slot ≠ n)
     (n ∈ c.finished → exec (.solveRetry layer slot) s = .next s) ∧
     (n ∉ c.finished → ¬usable → clean s → populatedRange s (f + rootOff s l n) (factorRootBytes x) = true →
       populatedRange s (f + 0x16) 2 = true → ∃ u, exec (.solveRetry layer slot) s = .next u ∧ kept s u) ∧
     (∀ p, n ∉ c.finished → usable → c.placed.find? (fun p => decide (p.slot = n)) = some p →
       (let st := readNat s (p.entry + 2) 1
        ((st < 3 ∨ 5 < st) → exec (.solveRetry layer slot) s = .next s) ∧
        (3 ≤ st → st ≤ 5 → p.retried = true → clean s → populatedRange s (f + rootOff s l n) (factorRootBytes x) = true →
          populatedRange s (f + 0x16) 2 = true → ∃ u, exec (.solveRetry layer slot) s = .next u ∧ kept s u) ∧
        (3 ≤ st → st ≤ 5 → p.retried = false → clean s → p.entry + 64 ≤ 0x40000000 → 0x40000000 ≤ f →
          populatedRange s (f + 0x1C) 2 = true → populatedRange s (f + 0x1E) 2 = true →
          ∃ u, exec (.solveRetry layer slot) s = .next u ∧
            (let lam := lyLambda l
             let lamU := t32 (tugAdd f64 lam (retryLambda x.dim lam (f32At l.root 8) (f32At l.root 0xC))).1
             let one := (tugAdd f64 none1 lamU).1
             readNat u p.entry 2 = x.dim % 2 ^ 16 ∧ readNat u (p.entry + 2) 6 = 0 ∧
             (∀ i, i < 20 → memByte u (p.entry + 8 + i) = memByte s (p.entry + 8 + i)) ∧
             readNat u (p.entry + 0x20) 4 = encode f32 (t32 (invRoot (lyPcode l x.g) one)) % 2 ^ 32 ∧
             readNat u (p.entry + 0x24) 4 = encode f32 (t32 (tugDiv f64 none1 one).1) % 2 ^ 32 ∧
             readNat u (f + 0x1E) 2 = (readNat s (f + 0x1E) 2 + 1) % 2 ^ 16 ∧
             readNat u (f + 0x1C) 2 = (readNat s (f + 0x1C) 2 + if readNat s (p.entry + 4) 1 = 2 then 1 else 0) % 2 ^ 16 ∧
             ∃ d, cycleOf u l.num = some d ∧ d.finished = c.finished ∧ { p with retried := true } ∈ d.placed)))))
  ) ∧
  (
  ∀ (c : CraneIx) (k : CraneCmd) (rest : List CraneCmd) (l : Layer) (fin : List Nat) (p : Placed) (x : Factor) (s : State),
    cmds (crane s c.val) .bg = k :: rest → (k.phase = .done ∨ k.phase = .error) → (cwOp k.word = 0x10 ∨ cwOp k.word = 0x11) →
    layerOf s l.num = some l → s.job.cycles = [⟨l.num, fin, [p]⟩] →
    (∃ i, i < at_ k.desc 4 1 + 1 ∧ p.entry = svEntry c.val k.desc i) → (ownedFactors s l)[p.slot]? = some x → x.form = 0 →
    clean s →
    (let e := readBytes s p.entry 64
     let f := floodOf s l
     let w := f + rootOff s l p.slot
     let n := 64 + 65536 * triTiles (nbOf x.dim)
     let die := p.entry / 0x20000000
     let ends := fun (off : Nat) => ∃ u, exec (.craneRetire c .bg) s = .next u ∧
       memKept [(w, n), (f + off, 2), (f + 0x1C, 2)] s u ∧ memByte u (w + 0xC) = BitVec.ofNat 8 (at_ e 2 1) ∧
       memByte u (w + 0xD) = BitVec.ofNat 8 (at_ e 3 1) ∧ readNat u (w + 8) 4 = srcStep s l % 2 ^ 32 ∧
       readNat u (w + 0x10) 4 = at_ e 0x28 4 ∧
       readNat u (f + off) 2 = (readNat s (f + off) 2 + 1) % 2 ^ 16 ∧
       (∀ t q i, t < triTiles (nbOf x.dim) → q < 4 → i < 16384 →
         memByte u (w + 64 + 65536 * t + 16384 * q + i) =
           memByte s ((tileQuarters die (at_ e 0xC 4) t).getD q 0 + i)) ∧
       cycleOf u l.num = some ⟨l.num, fin ++ [p.slot], []⟩
     populatedRange s w n = true → populatedRange s (f + 0x1C) 2 = true → populatedRange s (f + 0x12) 4 = true →
     populatedRange s (f + 0x12) 2 = true → populatedRange s (f + 0x14) 2 = true →
     (at_ e 2 1 = 1 → ends 0x12) ∧ (at_ e 2 1 = 2 → ends 0x14) ∧
     (at_ e 2 1 ≠ 1 → at_ e 2 1 ≠ 2 → ∃ u, exec (.craneRetire c .bg) s = .next u ∧ u.mem = s.mem ∧ u.job = s.job))
  ) ∧
  (
  (∀ (layer : BitVec 32) (g : Bool) (form : Nat) (l : Layer) (n : Nat) (x : Factor) (s : State),
    openFactor s layer.toNat g form = some (l, n, x) → clean s → jobLive s = true →
    (let f := floodOf s l
     let a := f + inputOff s l n
     let w := f + rootOff s l n
     let tr := decode f32 (readNat s (a + 0x1C) 4)
     let h := recHead s a
     let stale := fun (u : State) =>
       (let b := ebbOf s l + rootOff s l n
        memByte u (w + 0xC) = 3 ∧ readNat u (w + 0x18) 4 = (readNat s (b + 0x18) 4 + 1) % 2 ^ 32 ∧
        (∀ i, i < factorRootBytes x → i ≠ 0xC → (i < 0x18 ∨ 0x1C ≤ i) → memByte u (w + i) = memByte s (b + i)) ∧
        readNat u (f + 0x16) 2 = (readNat s (f + 0x16) 2 + 1) % 2 ^ 16)
     let finished := fun (u : State) => ∃ d, cycleOf u l.num = some d ∧ n ∈ d.finished
     let sketched := fun (u : State) (k : SketchRoot) =>
       memByte u (w + 0xC) = 1 ∧ readNat u (w + 0x1C) 4 = encode f32 k.c % 2 ^ 32 ∧
       readNat u (w + 0x20) 2 = k.sigma.length % 2 ^ 16 ∧
       readNat u (f + 0x12) 2 = (readNat s (f + 0x12) 2 + 1) % 2 ^ 16 ∧
       (∀ j, j < h.rank → readNat u (w + 0x40 + 4 * j) 4 = encode f32 (k.sigma.getD j nzero) % 2 ^ 32) ∧
       (∀ i j, i < h.dim → j < h.rank →
         readNat u (w + 0x40 + 4 * h.rank + 2 * (i * h.rank + j)) 2 =
           (if j < k.sigma.length then encode bf16 (k.u i j).1 % 2 ^ 16 else 0) ∧
         readNat u (w + 0x40 + 4 * h.rank + 2 * h.dim * h.rank + 2 * (i * h.rank + j)) 2 =
           (if j < k.sigma.length then encode bf16 (k.u i j).2 % 2 ^ 16 else 0))
     (∀ i m, i + m ≤ 64 → populatedRange s (f + i) m = true) →
     (∀ m, m ≤ factorRootBytes x + 4 * h.rank + 4 * h.dim * h.rank → populatedRange s w m = true) →
     apart f 64 (ebbOf s l) (rootOff s l n + factorRootBytes x) →
     (form = 2 → ∃ u, exec (.diagonalRoot layer g) s = .next u ∧ u.fields = s.fields ∧ finished u ∧
       (traceOk tr = false → stale u) ∧
       (traceOk tr = true → memKept [(w, 64 + 4 * x.dim), (f + 0x12, 2)] s u ∧ memByte u (w + 0xC) = 1 ∧
         readNat u (w + 8) 4 = srcStep s l % 2 ^ 32 ∧ readNat u (f + 0x12) 2 = (readNat s (f + 0x12) 2 + 1) % 2 ^ 16 ∧
         ∀ i, i < x.dim → readNat u (w + 0x40 + 4 * i) 4 = encode f32 (t32 (invRoot (lyPcode l x.g) (tugAdd f64
           (tugDiv f64 (decode f32 (readNat s (a + 0x40 + 4 * i) 4)) tr).1 (lyLambda l)).1)) % 2 ^ 32)) ∧
     (form = 1 → ∃ u, exec (.sketchRoot layer g) s = .next u ∧ u.fields = s.fields ∧ finished u ∧
       (traceOk tr = false → stale u) ∧
       (traceOk tr = true →
         (∀ k, formSketch s l x.g a h (lyLambda l) = some k → sketched u k ∧
           readNat u (f + 0x1E) 2 = readNat s (f + 0x1E) 2) ∧
         (formSketch s l x.g a h (lyLambda l) = none →
           readNat u (f + 0x1E) 2 = (readNat s (f + 0x1E) 2 + 1) % 2 ^ 16 ∧
           (∀ k, formSketch s l x.g a h (lambdaU l x.dim true) = some k → sketched u k) ∧
           (formSketch s l x.g a h (lambdaU l x.dim true) = none → stale u))))))
  )

/-- GPACK (R243, R244, R250, R251, R392): for a panel of a trained layer, each block of its valid elements x plus the old
residual is converted with the draws of their places to codes and a scale, phantom codes are zero, and with ef_en the new
residuals u − code replace the old ones; the record follows and the operation of the die is carried out. EMIT (R265): for an
owned panel with emit_en, after its UPDATE, the image of the new master, w over the tensor scale in blocks to nearest even
behind a header of 64 bytes, is written into the image slot that is not live; the operation is carried out. -/
def Obligations.PanelsAreConvertedInBlocks : Prop :=
  (
  (∀ (o : GpackOp) (pn : Panel) (s : State), gpackPanel s o = some pn → clean s → jobLive s = true → 0 < undone s o.die →
    (lyEfEn pn.layer = true → o.step = 0 ∨ secureRead s (o.step.toNat - 1) = true) →
    (let b := 16 * 2 ^ (at_ pn.layer.upd 3 1 % 4)
     let res := residualAddr pn.layer pn.f pn.g
     let ef := lyEfEn pn.layer = true
     let out := [(o.codes.toNat, 1048576), (o.scales.toNat, 1048576 / b), (o.nsr.toNat, 32)] ++ (if ef then [(res, 2097152)] else [])
     let u' := fun r c => rto32 (nadd (decode f32 (readNat s (o.x.toNat + 4 * (1024 * r + c)) 4))
       (if ef then decode bf16 (readNat s (res + 2 * (1024 * r + c)) 2) else nzero))
     (∀ r ∈ out, populatedRange s r.1 r.2 = true) → out.Pairwise (fun x y => apart x.1 x.2 y.1 y.2) →
     ∃ u, exec (.gpack o) s = .next u ∧ undone u o.die + 1 = undone s o.die ∧ u.fields = s.fields ∧ memKept out s u ∧
       readNat u (o.nsr.toNat + 0x10) 4 = panelRows pn * panelCols pn ∧ readNat u (o.nsr.toNat + 0x18) 1 = 1 ∧
       (∀ r c, r < 1024 → c < 1024 → ¬(r < panelRows pn ∧ c < panelCols pn) →
         memByte u (o.codes.toNat + (1024 * r + c)) = 0 ∧ (ef → readNat u (res + 2 * (1024 * r + c)) 2 = 0)) ∧
       (∀ r c, r < panelRows pn → c < panelCols pn →
         (let e8 := chooseE8 true ((List.range (min b (panelCols pn - c / b * b))).map (fun n => u' r (c / b * b + n)))
          let draw16 := drawLow16 (draw s.job.seed (keyWord o.step (BitVec.ofNat 16 pn.layer.num) 0x8002#16) 1
            ((1024 * pn.f + r) * pn.layer.dc + 1024 * pn.g + c))
          let code := if e8 = 0 then 0#8 else enc8 true (narrow yf8g (.stoch draw16) (nscale (u' r c) (127 - (e8 : Int))))
          memByte u (o.scales.toNat + (1024 * r + c) / b) = BitVec.ofNat 8 e8 ∧
          memByte u (o.codes.toNat + (1024 * r + c)) = code ∧
          (ef → readNat u (res + 2 * (1024 * r + c)) 2 =
            encode bf16 (rtoBf (nsub (u' r c) (scaled8 true (BitVec.ofNat 8 e8) code))) % 2 ^ 16))))) ∧
  (∀ (o : GpackOp) (s : State), (gpackPanel s o = none ∨ jobLive s = false) → exec (.gpack o) s = .next s) ∧
  (∀ (o : GpackOp) (s : State) (l : Layer), layerOf s o.layer.toNat = some l →
    (lyFrozen l = true ∨ (l.dout + 1023) / 1024 ≤ o.f.toNat ∨ (l.dc + 1023) / 1024 ≤ o.g.toNat) → gpackPanel s o = none)
  ) ∧
  (
  ∀ (o : EmitOp) (pn : Panel) (s : State), recordPanel s o.index.toNat = some pn →
    (let k := o.index.toNat
     let sh := shadowOf s k
     let b := 16 * 2 ^ (at_ pn.layer.upd 3 1 / 4 % 4)
     let a := imageSlot s pn (shadowSlot s k)
     let m := stateSlot s pn (shadowSlot s k)
     let y := fun r c => div64 (decode f32 (readNat s (m + 4 * (1024 * r + c)) 4)) (f32At pn.layer.upd 0x14)
     ((jobLive s = false ∨ lyEmit pn.layer = false ∨ sh.updated = false) → exec (.emit o) s = .next s) ∧
     (jobLive s = true → lyEmit pn.layer = true → sh.updated = true → 0 < undone s o.die → clean s →
       populatedRange s a (64 + 1048576 + 1048576 / b) = true →
       ∃ u, exec (.emit o) s = .next u ∧ undone u o.die + 1 = undone s o.die ∧ u.fields = s.fields ∧
         memKept [(a, 64 + 1048576 + 1048576 / b)] s u ∧
         u.ledger.shadows = s.ledger.shadows.filter (fun y => decide (y.index ≠ sh.index)) ++ [{ sh with emitted := true }] ∧
         readNat u a 4 = (sh.step.toNat + 1) % 2 ^ 32 ∧ readNat u (a + 4) 4 = pn.layer.num % 2 ^ 32 ∧
         readNat u (a + 8) 4 = pn.q % 2 ^ 32 ∧ readNat u (a + 12) 4 = at_ pn.layer.upd 0x14 4 % 2 ^ 32 ∧
         (∀ r c, r < 1024 → c < 1024 → ¬(r < panelRows pn ∧ c < panelCols pn) → memByte u (a + 64 + (1024 * r + c)) = 0) ∧
         (∀ r c, r < panelRows pn → c < panelCols pn →
           (let e8 := chooseE8 false ((List.range (min b (panelCols pn - c / b * b))).map (fun n => y r (c / b * b + n)))
            memByte u (a + 64 + 1048576 + (1024 * r + c) / b) = BitVec.ofNat 8 e8 ∧
            memByte u (a + 64 + (1024 * r + c)) =
              if e8 = 0 then 0#8 else enc8 false (narrow yf8e .rne (nscale (y r c) (127 - (e8 : Int))))))))
  )

/-- UPDATE (R209, R255 to R257, R261): from the live slot into the shadow slot of an owned panel, each valid element's
momentum is b1·μ + P·(na/np) and its weight w − lr·μ' − lr·wd·w, in binary64 rounded to odd at each operation and once to
nearest even in binary32, and each finite block of √v is stored in YI8; a skipped panel (divisor 0, a value that is not
finite, or a norm that is not) copies the live slot. While its gradient or its roots are not there it waits. The roots
applied to a gradient (R255, Table 09-1): a side that is not collected, or whose root has status 0, passes the panel
through; a diagonal-only root scales its rows or columns, in binary64 rounded once to binary32; a facet root multiplies it,
on the left for the G side. -/
def Obligations.UpdateWritesMomentumAndWeight : Prop :=
  (
  ∀ (o : UpdateOp) (pn : Panel) (s : State), recordPanel s o.index.toNat = some pn →
    (let k := o.index.toNat
     let st := (nextStep s k).toNat
     let r := stateSlot s pn (liveSlot s k)
     let w := stateSlot s pn (shadowSlot s k)
     ((jobLive s = false ∨ mayShadow s st = false ∨ gradOf s o pn = none ∨ sideRoot s pn true st = none ∨
         sideRoot s pn false st = none) → exec (.update o) s = .next s) ∧
     (∀ gr rg ra, jobLive s = true → mayShadow s st = true → gradOf s o pn = some gr → sideRoot s pn true st = some rg →
       sideRoot s pn false st = some ra → 0 < undone s o.die → clean s →
       (∀ i m, i + m ≤ slotBytes pn → populatedRange s (w + i) m = true) →
       (let idx := validIdx pn
        let v : Upd := ⟨pn, r, gr, fun i => updP s pn gr rg ra (i / 1024) (i % 1024), st⟩
        let na := norm64 (idx.map (updA s v))
        let np := norm64 (idx.map v.p)
        let skipped := gr.divisor = 0 ∨ isFinite na = false ∨ isFinite np = false ∨ ∃ i ∈ idx, isFinite (gr.red i) = false
        ∃ u, exec (.update o) s = .next u ∧ undone u o.die + 1 = undone s o.die ∧ memKept [(w, slotBytes pn)] s u ∧
          u.fields = s.fields ∧
          (∃ sh ∈ u.ledger.shadows, sh.index = k ∧ sh.step = nextStep s k ∧ sh.updated = true ∧ sh.divisor = gr.divisor % 2 ^ 32 ∧
            sh.genG = genOfStep pn.layer st ∧ sh.genA = genOfStep pn.layer st ∧ (sh.skipped = true ↔ skipped)) ∧
          (skipped → ∀ i, i < 9469952 → memByte u (w + i) = memByte s (r + i)) ∧
          (¬skipped →
            (∀ i ∈ idx,
              (let x := decode f32 (readNat s (r + 4 * i) 4)
               let pg := if nlt nzero np then mul64 (v.p i) (div64 na np) else nzero
               let mu := add64 (mul64 (f32At pn.layer.upd 4) (decode f32 (readNat s (r + 4194304 + 4 * i) 4))) pg
               let lr := lyRate s pn.layer st
               readNat u (w + 4194304 + 4 * i) 4 = encode f32 (rne32 mu) % 2 ^ 32 ∧
               readNat u (w + 4 * i) 4 = encode f32 (rne32 (sub64 (sub64 x (mul64 lr mu))
                 (mul64 (mul64 lr (f32At pn.layer.upd 0x10)) x))) % 2 ^ 32)) ∧
            (∀ i, i < 1048576 → i ∉ idx → readNat u (w + 4 * i) 4 = 0 ∧ readNat u (w + 4194304 + 4 * i) 4 = 0) ∧
            (∀ n, n < 8192 → (momentBlock s v n).all isFinite = true →
              readNat u (w + 8388608 + 4 * n) 4 = (yiRow (momentBlock s v n)).1 % 2 ^ 32 ∧
              ∀ j, j < 128 → memByte u (w + 8421376 + 128 * n + j) = (yiRow (momentBlock s v n)).2.getD j 0)) ∧
          (∀ x ∈ attached pn, mergeDue pn st x = false → ∀ i, i < factorBytes x →
            memByte u (factorAddr s pn x (shadowSlot s k) + i) = memByte s (factorAddr s pn x (liveSlot s k) + i)))))
  ) ∧
  (
  ∀ (s : State) (pn : Panel) (g : Bool) (root : Nat × Nat) (m : Nat → Nat → Machine.Num),
    (let x := sideFactor pn g
     let applied := lyCollect pn.layer g = true ∧ srcNat s (root.1 + 0xC) 1 ≠ 0
     (¬applied → applySide s pn g root m = m) ∧
     (applied → x.form = 2 → ∀ r c, applySide s pn g root m r c =
       rne32 (rto64 (nmul (src32 s (root.1 + 0x40 + 4 * (1024 * (if g then pn.f else pn.g) + (if g then r else c)))) (m r c)))) ∧
     (applied → x.form = 0 → ∀ r c, applySide s pn g root m r c =
       if g then sum3 (List.range 1024) (fun k => rootElem s root.1 x.dim r k) (fun k => splitPair (m k c))
       else sum3 (List.range 1024) (fun k => splitPair (m r k)) (fun k => rootElem s root.1 x.dim k c)))
  )

/-- The operations of a die (R248, R268) issue while fewer than 16 are outstanding and retire in issue order, each counted
in its die's done field; a write held behind 16 issues when one frees. Flips (R254, R261 to R263, R379, R391, R392, Tables
09-3 and 09-5): a flip of an owned record is accepted while fewer than 16 are pending and the job has not been stopped, and
waits for its panel's UPDATE, EMIT and attached merges and for the securing of its step; performed, it writes the record
with the live slot exchanged and its flip count one higher, releases the panel's retained gradient, and is counted. -/
def Obligations.UpdateOperationsAndFlips : Prop :=
  (
  (∀ (d : Die) (x : Nat) (rest : List Nat) (s : State), updHeld s d = x :: rest →
    (16 ≤ (updOps s d).length → exec (.ledgerUpdRelease d) s = .next s) ∧
    ((updOps s d).length < 16 →
    ∃ u, exec (.ledgerUpdRelease d) s = .next u ∧ updOps u d = updOps s d ++ [⟨x, false⟩] ∧ updHeld u d = rest ∧
      (∀ e, e ≠ d → updOps u e = updOps s e ∧ updHeld u e = updHeld s e) ∧ u.mem = s.mem ∧ u.fields = s.fields)) ∧
  (∀ (d : Die) (x : UpdOp) (rest : List UpdOp) (s : State), updOps s d = x :: rest →
    (x.done = true → ∃ u, exec (.updateOpRetire d) s = .next u ∧ updOps u d = rest ∧ u.mem = s.mem ∧
      fget u (if d.val = 0 then F.ledgerDoneDone0 else F.ledgerDoneDone1) =
        (fget s (if d.val = 0 then F.ledgerDoneDone0 else F.ledgerDoneDone1) + 1) % 2 ^ 32 ∧
      (∀ f, fieldKey f ≠ fieldKey (if d.val = 0 then F.ledgerDoneDone0 else F.ledgerDoneDone1) → fget u f = fget s f)) ∧
    (x.done = false → exec (.updateOpRetire d) s = .next s))
  ) ∧
  (
  (∀ (i : BitVec 16) (s : State), fget s F.ledgerStatusPending < 16 → s.job.stopped = false →
    (recordPanel s i.toNat).isSome = true →
    ∃ u, exec (.ledgerFlip i) s = .next u ∧ fget u F.ledgerStatusPending = fget s F.ledgerStatusPending + 1 ∧
      fget u F.ledgerFlipIndex = i.toNat ∧ u.mem = s.mem ∧
      u.ledger = { s.ledger with flips := s.ledger.flips ++ [i.toNat] }) ∧
  (∀ (i : BitVec 16) (s : State), (16 ≤ fget s F.ledgerStatusPending ∨ s.job.stopped = true ∨
      (recordPanel s i.toNat).isSome = false) → exec (.ledgerFlip i) s = .next s) ∧
  (∀ (k : Nat) (rest : List Nat) (pn : Panel) (s : State), s.ledger.flips = k :: rest → recordPanel s k = some pn →
    (let sh := shadowOf s k
     let ready := sh.updated = true ∧ (lyEmit pn.layer = true → sh.emitted = true) ∧
       (∀ x ∈ attached pn, mergeDue pn sh.step.toNat x = true → x.g ∈ sh.merged) ∧ flipMayComplete s sh.step.toNat = true
     let a := ledgerRecord s k
     let old := readNat s (a + 6) 1
     (¬ready → exec .flipPerformed s = .next s) ∧
     (ready → clean s → populatedRange s a 64 = true →
       ∃ u, exec .flipPerformed s = .next u ∧ memKept [(a, 64)] s u ∧ u.ledger.flips = rest ∧
         (∀ y ∈ u.ledger.shadows, y.index ≠ k) ∧
         (∀ y ∈ u.ledger.retained, ¬(y.layer = pn.layer.num % 65536 ∧ y.first = gradElem pn 0 0)) ∧
         readNat u a 4 = 0x5247444C ∧ readNat u (a + 6) 1 % 2 = (if old % 2 = 1 then 0 else 1) ∧
         readNat u (a + 6) 1 / 2 % 2 = (if sh.skipped then 1 else 0) ∧ readNat u (a + 6) 1 / 4 % 2 = old / 4 % 2 ∧
         readNat u (a + 8) 8 = readNat s (a + 8) 8 ∧ readNat u (a + 0x10) 4 = sh.step.toNat ∧
         readNat u (a + 0x14) 4 = sh.divisor % 2 ^ 32 ∧ readNat u (a + 0x18) 4 = sh.genG % 2 ^ 32 ∧
         readNat u (a + 0x1C) 4 = sh.genA % 2 ^ 32 ∧
         readNat u (a + 0x20) 4 = (if sh.emitted then (sh.step.toNat + 1) % 2 ^ 32 else readNat s (a + 0x20) 4) ∧
         readNat u (a + 0x24) 4 = (readNat s (a + 0x24) 4 + if sh.skipped then 1 else 0) % 2 ^ 32 ∧
         readNat u (a + 0x28) 8 = (readNat s (a + 0x28) 8 + 1) % 2 ^ 64 ∧
         fget u F.ledgerStatusFlips = min (fget s F.ledgerStatusFlips + 1) (2 ^ F.ledgerStatusFlips.w - 1) ∧
         (1 ≤ fget s F.ledgerStatusPending → fget s F.ledgerStatusPending ≤ 16 →
           fget u F.ledgerStatusPending + 1 = fget s F.ledgerStatusPending))))
  )

/-! ### Barges, storage and the Hold -/

/-- Starts (R288): a permitted start joins the queue of its Barge, whose next descriptor is read while a stream is current,
or is held at the register while eight wait; a job's or the host's start of a firmware entry, or on a Barge that the epoch
schedules, is not carried out; a held start enters the queue once it has room. A stream at the head of a free Barge's queue
(R288, R293 to R295, R344, Table 10-5): one that a check rejects runs not at all and is captured in BARGE_FAULT, if it is
the first; one whose gate is closed, or whose image is not live, waits; else it begins, its bytes of memory read. The gate
of a stream in its current run opens at gate base plus runs times gate step. -/
def Obligations.BargeStartsAndGates : Prop :=
  (
  (∀ (who : Agent) (die : Die) (stream : BitVec 16) (b : Fin 32) (s : State),
    (let n := 32 * die.val + b.val
     let y := bargeSt s n
     let x : BargeStart := { stream := stream.toNat, job := decide (who ≠ .fw) }
     let free := who = .fw ∨ (fwStream stream.toNat = false ∧ bargeScheduled s n = false)
     (free → y.queue.length < 8 → y.held = [] →
       exec (.bargeStart who die stream b) s = .next (setBarge s n { y with
         queue := match y.cur, y.queue ++ [x] with
           | some _, z :: zs => { z with desc := some (z.desc.getD (readBytes s (bargeDescAddr s z.stream) 128)) } :: zs
           | _, q => q })) ∧
     (free → (8 ≤ y.queue.length ∨ y.held ≠ []) →
       exec (.bargeStart who die stream b) s = .next (setBarge s n { y with held := y.held ++ [x] })) ∧
     (¬free → (∀ t, who ≠ .job t) → exec (.bargeStart who die stream b) s = .next s) ∧
     (∀ t, ¬free → who = .job t →
       exec (.bargeStart who die stream b) s = .next (violation s t.val 1 (0x41A00008 + 0x100000 * die.val))))) ∧
  (∀ (b : BargeIx) (x : BargeStart) (rest : List BargeStart) (s : State), (bargeSt s b.val).held = x :: rest →
    (let y := bargeSt s b.val
     (y.queue.length < 8 → exec (.bargeStartRelease b) s = .next (setBarge s b.val { y with
       queue := (match y.cur, y.queue ++ [x] with
         | some _, z :: zs => { z with desc := some (z.desc.getD (readBytes s (bargeDescAddr s z.stream) 128)) } :: zs
         | _, q => q)
       held := rest })) ∧
     (8 ≤ y.queue.length → exec (.bargeStartRelease b) s = .next s)))
  ) ∧
  (
  (∀ (b : BargeIx) (errs : List MemErr) (x : BargeStart) (rest : List BargeStart) (s : State), (bargeSt s b.val).queue = x :: rest →
    (bargeSt s b.val).cur = none →
    (let m := meetErrors s errs
     let d := startDesc m x
     let die := b.val / 32
     let cause := streamCause m b.val x d
     (cause ≠ 0 → ∃ u, exec (.bargeStreamStart b errs) s = .next u ∧
       u = { m with fields := u.fields, perf := u.perf, barges := u.barges, job := { m.job with rejected := u.job.rejected } } ∧
       bargeSt u b.val = { bargeSt s b.val with queue := rest } ∧
       u.job.rejected = m.job.rejected ++ (if fwStream x.stream then [] else [die]) ∧
       (flag m (F.bargeFaultValid die) = false →
         flag u (F.bargeFaultValid die) = true ∧ fget u (F.bargeFaultCause die) = cause ∧
         fget u (F.bargeFaultStream die) = x.stream % 2 ^ 16 ∧ fget u (F.bargeFaultBarge die) = b.val % 32 ∧
         flag u (F.bargeFaultFw die) = fwStream x.stream) ∧
       (flag m (F.bargeFaultValid die) = true → u.fields = m.fields)) ∧
     (cause = 0 → streamGateOpen m d = false → ∃ u, exec (.bargeStreamStart b errs) s = .next u ∧
       u = { m with perf := u.perf, barges := u.barges } ∧
       (bargeSt u b.val).cur = some { start := x, desc := d, phase := .gate } ∧
       (bargeSt u b.val).queue = (match rest with
         | [] => []
         | z :: zs => { z with desc := some (z.desc.getD (readBytes m (bargeDescAddr m z.stream) 128)) } :: zs) ∧
       (∀ n, n ≠ b.val → bargeSt u n = bargeSt s n) ∧ ∀ e, exec (.bargeGatePoll b e) u = .next u) ∧
     (cause = 0 → streamGateOpen m d = true → clean m → ∃ u r, exec (.bargeStreamStart b errs) s = .next u ∧
       (bargeSt u b.val).cur = some r ∧ r.desc = liveImage m d ∧ r.start = x ∧ r.phase ≠ .gate ∧
       (bargeSt u b.val).queue.length = rest.length ∧ (bdSrcKind d = 0 → r.writes = (form m (liveImage m d) none).writes) ∧
       u.mem = m.mem ∧ u.fields = m.fields))) ∧
  (∀ (b : BargeIx) (errs : List MemErr) (r : BargeRun) (s : State), (bargeSt s b.val).cur = some r → r.phase = .gate →
    (let waits := imageReady s r.desc = false ∨ (at_ r.desc 0x53 1 / 2 % 2 = 1 ∧
       readNat s (at_ r.desc 0x60 8) 8 < (at_ r.desc 0x68 8 + at_ r.desc 0x54 4 * at_ r.desc 0x70 8) % 2 ^ 64)
     (¬waits → exec (.bargeGatePoll b errs) s = .next (beginStream (meetErrors s errs) b.val r)) ∧
     (waits → exec (.bargeGatePoll b errs) s = .next s)))
  )

/-- A stream from memory to memory that neither converts, transposes, splits nor rotates (R290, R292, R293) copies its rows,
each at its pitch, then writes its run count, one higher, to its done word and into its descriptor; no other byte of memory
changes. A stream from a Quay port takes the run that has arrived, and without one its completion waits; a stream whose
source and destination have not changed performs the writes it formed; one that is not ready stays as it is. A drop record
that a run has brought to an entry of the ward log gets its final flag (R383). A stream that converts to a format without
blocks (R187, R290, Table 06-10) writes each element's value, decoded exactly from its source with its block's scale and
rounded once to odd. -/
def Obligations.PlainStreamsCopyTheirRows : Prop :=
  (
  (∀ (b : BargeIx) (x : BargeStart) (rest : List BargeStart) (s : State),
    (let da := bargeDescAddr s x.stream
     let d := readBytes s da 128
     let rows := bdRows d
     let w := bdCols d * 2 ^ (bdGeom d % 4)
     let ds := (List.range rows).map (fun i => (bdDst d + i * bdDstPitch d, w))
     (bargeSt s b.val).queue = x :: rest → x.desc = none → (bargeSt s b.val).cur = none → streamCause s b.val x d = 0 → clean s →
     bdOp d = 0 → bdGated d = false → bdDone d ≠ 0 → apart (bdDone d) 8 (da + 0x54) 4 →
     (∀ i j, i < rows → j < rows → apart (bdSrc d + i * bdSrcPitch d) w (bdDst d + j * bdDstPitch d) w) →
     (∀ j, j < rows → apart (bdDst d + j * bdDstPitch d) w (da + 0x54) 4 ∧ apart (bdDst d + j * bdDstPitch d) w (bdDone d) 8) →
     ∃ u t, exec (.bargeStreamStart b []) s = .next u ∧ exec (.bargeStreamComplete b) u = .next t ∧
       u.mem = s.mem ∧ memKept (ds ++ [(bdDone d, 8), (da + 0x54, 4)]) s t ∧
       (∀ i k, i < rows → k < w → memByte t (bdDst d + i * bdDstPitch d + k) = memByte s (bdSrc d + i * bdSrcPitch d + k)) ∧
       readNat t (bdDone d) 8 = readNat s (da + 0x54) 4 + 1 ∧ readNat t (da + 0x54) 4 = (readNat s (da + 0x54) 4 + 1) % 2 ^ 32 ∧
       (bargeSt t b.val).cur = none ∧ t.fields = s.fields ∧ t.threads = s.threads ∧ t.cranes = s.cranes ∧ t.ports = s.ports)) ∧
  (∀ (b : BargeIx) (r : BargeRun) (s : State), (bargeSt s b.val).cur = some r →
    (r.phase = .ready → bdSrcKind r.desc = 1 → quayBytes s r.desc = none → exec (.bargeStreamComplete b) s = .next s) ∧
    (∀ p bs, r.phase = .ready → bdSrcKind r.desc = 1 → quayBytes s r.desc = some (p, bs) →
      bs.length = bdRows r.desc * bdCols r.desc * srcEs r.desc ∧
      ∃ t, exec (.bargeStreamComplete b) s = .next (finishStream t b.val r (form s r.desc (some bs)).writes
          (form s r.desc (some bs)).out (streamRecord s r.desc (form s r.desc (some bs)).nsr)) ∧
        t = setPort s p { port s p with rx := (port t p).rx } ∧ (port t p).rx.length + 1 = (port s p).rx.length) ∧
    (r.phase = .ready → bdSrcKind r.desc = 2 →
      exec (.bargeStreamComplete b) s = .next (finishStream s b.val r r.writes r.out r.record)) ∧
    (r.phase = .ready → bdSrcKind r.desc = 0 → (form s r.desc none).writes = r.writes →
      (∀ w ∈ r.writes, readBytes s w.addr w.bytes.length = w.old) →
      exec (.bargeStreamComplete b) s = .next (finishStream s b.val r r.writes r.out r.record)) ∧
    (r.phase ≠ .ready → exec (.bargeStreamComplete b) s = .next s)) ∧
  (∀ (d : List Byte) (i : Nat) (s : State),
    (bdSrcKind d = 1 → bdDstKind d = 0 → jobLive s = true → i < 512 → bdDst d = dropRecordAddr s s.job.wardLog i →
      memByte (sealWard s d) (bdDst d + 12) = memByte s (bdDst d + 12) ||| 2#8 ∧ memKept [(bdDst d + 12, 1)] s (sealWard s d)) ∧
    ((bdSrcKind d ≠ 1 ∨ bdDstKind d ≠ 0 ∨ jobLive s = false ∨ bdDst d < s.job.wardLog) → sealWard s d = s))
  ) ∧
  (
  ∀ (b : BargeIx) (x : BargeStart) (rest : List BargeStart) (s : State),
    (let da := bargeDescAddr s x.stream
     let d := readBytes s da 128
     let f := if bdDstFmt d = 3 then f32 else bf16
     let w := if bdDstFmt d = 3 then 4 else 2
     let sw := if bdSrcFmt d = 2 then 2 else if bdSrcFmt d = 3 then 4 else 1
     let after := [(da + 0x54, 4), (bdDone d, 8), (bdNsr d, 32)]
     let v := fun i j =>
       let a := bdSrc d + i * bdSrcPitch d + sw * j
       if bdSrcFmt d ≤ 1 then scaled8 (decide (bdSrcFmt d = 1)) (memByte s (bdSrcScale d + i * bdSrcSpitch d + j / srcBlk d)) (memByte s a)
       else if bdSrcFmt d = 2 then decode bf16 (readNat s a 2) else decode f32 (readNat s a 4)
     (bargeSt s b.val).queue = x :: rest → x.desc = none → (bargeSt s b.val).cur = none → streamCause s b.val x d = 0 → clean s →
     bdOp d = 0x20 → bdGated d = false → (bdDstFmt d = 2 ∨ bdDstFmt d = 3) →
     (∀ i j, i < bdRows d → j < bdRows d → apart (bdDst d + i * bdDstPitch d) (w * bdCols d) (bdDst d + j * bdDstPitch d) (w * bdCols d) ∨ i = j) →
     (∀ i, i < bdRows d → ∀ r ∈ after, apart (bdDst d + i * bdDstPitch d) (w * bdCols d) r.1 r.2) →
     (∀ i j, i < bdRows d → j < bdRows d → apart (bdSrc d + i * bdSrcPitch d) (sw * bdCols d) (bdDst d + j * bdDstPitch d) (w * bdCols d)) →
     ∃ u t, exec (.bargeStreamStart b []) s = .next u ∧ exec (.bargeStreamComplete b) u = .next t ∧
       ∀ i j, i < bdRows d → j < bdCols d →
         readNat t (bdDst d + i * bdDstPitch d + w * j) w = encode f (narrow f .odd (v i j)) % 2 ^ (8 * w))
  )

/-- Storage streams (R340, R343, R344, Table 12-3): the bytes of a completed Read wait until all of the extent's Reads have
come, and the extent is verified against its digest when the record asks for it: a mismatch is read once more and then fails
with cause 3; a failed or late Read is retried, on the other port where the target is reachable there, each retry a
corrected event, and the fifth failure ends the stream. The fault of a job's stream that is not a digest fault is step-fatal
with source 0x24. The storage ports (R342, Table 12-8): a connection stands while the link is up to a target of the table
that the port reaches; link, connections, readiness and reconnections show in the registers. -/
def Obligations.StorageReadsAreRetriedAndVerified : Prop :=
  (
  (∀ (b : BargeIx) (i : Nat) (data : List Byte) (reads : List StorRead) (second : Bool) (x : StorRead) (r : BargeRun) (s : State),
    (bargeSt s b.val).cur = some r → r.phase = .storage reads second → reads[i]? = some x →
    (let t := fcount s F.storBytesBytes data.length
     let e := readBytes s (bdSrc r.desc) 64
     let now := reads.set i { x with data := some data }
     let all := now.flatMap (fun y => y.data.getD [])
     let size := min 0x100000 (bdRows r.desc * bdCols r.desc * srcEs r.desc - i * 0x100000)
     let run := fun (l : List StorRead) (again : Bool) (v : State) =>
       setBarge v b.val { bargeSt v b.val with cur := some { r with phase := .storage l again } }
     let wrong := at_ e 1 1 % 2 = 1 ∧ digest all ≠ e.drop 32
     let other := portTo s (at_ e 0 1) (1 - x.port)
     let up := targetConnected s (at_ e 0 1)
     (x.data.isSome = true → exec (.storageReadComplete b i true data) s = .next s ∧
       exec (.storageReadComplete b i false data) s = .next s ∧ exec (.storageReadTimeout b i) s = .next s) ∧
     (x.data = none → data.length ≠ size → exec (.storageReadComplete b i true data) s = .next s) ∧
     (x.data = none → data.length = size →
       ((∃ y ∈ now, y.data = none) → exec (.storageReadComplete b i true data) s = .next (run now second t)) ∧
       ((∀ y ∈ now, y.data ≠ none) → ¬wrong → ∃ r', exec (.storageReadComplete b i true data) s =
           .next (setBarge t b.val { bargeSt s b.val with cur := some r' }) ∧
         r'.phase = .ready ∧ r'.desc = r.desc ∧ r'.start = r.start ∧ r'.writes = (form t r.desc (some all)).writes) ∧
       ((∀ y ∈ now, y.data ≠ none) → wrong → second = false →
         exec (.storageReadComplete b i true data) s = .next (run (askReads t b.val r.desc) true t)) ∧
       ((∀ y ∈ now, y.data ≠ none) → wrong → second = true →
         exec (.storageReadComplete b i true data) s = .next (storageFault t b.val r x.port 3))) ∧
     (x.data = none → x.failed < 4 →
       (let v := corrected (fcount (run (reads.set i { x with port := other, failed := x.failed + 1 }) second s) F.storRetryRetries 1)
        exec (.storageReadComplete b i false data) s = .next v ∧ exec (.storageReadTimeout b i) s = .next v)) ∧
     (x.data = none → 4 ≤ x.failed →
       exec (.storageReadComplete b i false data) s = .next (storageFault s b.val r x.port (if up then 1 else 4)) ∧
       exec (.storageReadTimeout b i) s = .next (storageFault s b.val r x.port (if up then 2 else 4))))) ∧
  (∀ (s : State) (b : BargeIx) (r : BargeRun) (p c : Nat), p < 2 → c < 8 → flag s F.storFaultValid = false → jobLive s = false →
    (bargeSt (storageFault s b.val r p c) b.val).cur = none ∧ fget (storageFault s b.val r p c) F.storFaultCause = c ∧
    fget (storageFault s b.val r p c) F.storFaultPort = p ∧
    (flag s F.errFirstValid = false → c ≠ 3 → fwStream r.start.stream = false →
      fget (storageFault s b.val r p c) F.errFirstSource = 0x24))
  ) ∧
  (
  ∀ (p : Fin 2) (up : Bool) (conn : BitVec 16) (n : Nat) (s : State),
    (let stands := fun k => up && conn.getLsbD k && decide (k ≤ fget s F.storTgtCountM1) &&
       (memByte s (fget s F.storTgtBase * 512 + 512 * k + 0x12)).getLsbD p.val
     ∃ u, exec (.storageLinkChange p up conn n) s = .next u ∧
       flag u (F.storPortLinkUp p.val) = up ∧
       flag u (F.storPortRoceReady p.val) = (List.range 16).any stands ∧
       fget u (F.storPortConns p.val) = (List.range 16).countP stands ∧
       fget u F.storRetryReconnects = min (fget s F.storRetryReconnects + n) (2 ^ F.storRetryReconnects.w - 1) ∧
       (∀ k, k < 16 → targetConnected u k = (stands k || (Tab.get 0 s.storConn (1 - p.val)).getLsbD k)) ∧
       u.mem = s.mem ∧ u.threads = s.threads ∧ u.barges = s.barges)
  )

/-- Upkeep of the Hold (R278, R279, R458): a patrol pass counts its errors, poisons the lines it could not correct, and
queues their pages and those corrected twice; HOLD_REMAP between jobs sends one page outside the pool to the pool's next
spare page, which it reads as from then on, and takes it off the queue; otherwise it only keeps what was written. By the
model's choice (assumption 84) the spare pages are used in order. What a read meets (R273, R279, R458): an error counts for
its memory and die, or its Warehouse port; a corrected one is a corrected event, a replayed transfer one for each replay and
its cause; what cannot be corrected, or not be transferred in 4 replays, poisons its line; a page of the Hold with an error
that cannot be corrected is queued unless it has been retired; and a Berth row with one, or with a second corrected word
within 24 h, is a new fault to be recorded. -/
def Obligations.HoldPagesAreQueuedAndRetired : Prop :=
  (
  (∀ (d : Die) (cor unc : List Nat) (s : State), firmwareUp s = true →
    (∀ l ∈ cor, l < 0x24000000) → (∀ l ∈ unc, l < 0x24000000) →
    ∃ u, exec (.patrolScrub d cor unc) s = .next u ∧ u.mem = s.mem ∧ retiredPages u d.val = retiredPages s d.val ∧
      fget u (F.holdScrubPasses d.val) = min (fget s (F.holdScrubPasses d.val) + 1) (2 ^ (F.holdScrubPasses d.val).w - 1) ∧
      fget u (F.errMemHoldUnc d.val) = min (fget s (F.errMemHoldUnc d.val) + unc.length) (2 ^ (F.errMemHoldUnc d.val).w - 1) ∧
      (∀ l, Tab.get false u.poison (lineOf (holdBase + d.val * 0x1200000000) + l) =
        (Tab.get false s.poison (lineOf (holdBase + d.val * 0x1200000000) + l) || unc.contains l)) ∧
      (∀ p, p ∈ queuedPages u d.val ↔ (p ∈ queuedPages s d.val ∨ (p ∉ retiredPages s d.val ∧
        ((∃ l ∈ unc, l / 32 = p) ∨ 2 ≤ (cor.map (· / 32)).count p ∨
          ((∃ l ∈ cor, l / 32 = p) ∧ p ∈ correctedPages s d.val ∧ fget s (F.holdScrubPeriodH d.val) ≤ 24)))))) ∧
  (∀ (d : Die) (page : BitVec 36) (s : State),
    (canRemap s d.val page.toNat = true →
      (let spare := holdBase + d.val * 0x1200000000 + (0x11F0000 + (retiredPages s d.val).length) * 4096
       ∃ u, exec (.holdRemap d page) s = .next u ∧ retiredPages u d.val = retiredPages s d.val ++ [page.toNat - firstPage d.val] ∧
        page.toNat - firstPage d.val ∉ queuedPages u d.val ∧ fget u (F.holdRemapPage d.val) = page.toNat ∧
        fget u (F.holdRemapGo d.val) = 1 ∧
        (if d.val = 0 then fget u F.errRetireRetired0 else fget u F.errRetireRetired1) = (retiredPages s d.val).length + 1 ∧
        (∀ i, i < 4096 → memByte u (page.toNat * 4096 + i) = memByte s (spare + i)) ∧
        memKept [(page.toNat * 4096, 4096)] s u ∧ u.threads = s.threads)) ∧
    (canRemap s d.val page.toNat = false → exec (.holdRemap d page) s =
      .next (fput (fput s (F.holdRemapPage d.val) page.toNat) (F.holdRemapGo d.val) 1)))
  ) ∧
  (
  ∀ (a : Addr) (kind : MemErrKind) (s : State),
    (let u := meetError s ⟨a, kind⟩
     let n := a.toNat
     let d := homeDie s n
     let up := fun (f : Field) (k : Nat) => fget u f = min (fget s f + k) (2 ^ f.w - 1)
     u.mem = s.mem ∧ u.threads = s.threads ∧ u.cranes = s.cranes ∧
     (windowOf n = .berth → kind = .corrected → up (F.errMemBerthCorr d) 1 ∧ up F.errCorrCorrected 1 ∧ u.poison = s.poison) ∧
     (windowOf n = .berth → kind = .uncorrectable → up (F.errMemBerthUnc d) 1 ∧ poisoned u n = true) ∧
     (windowOf n = .hold → kind = .corrected → up (F.errMemHoldCorr d) 1 ∧ up F.errCorrCorrected 1 ∧ u.poison = s.poison) ∧
     (windowOf n = .hold → ∀ k, kind = .replayed k → up (F.errMemHoldCorr d) (k.val + 1) ∧ up F.errCorrCorrected (k.val + 1) ∧
       u.poison = s.poison) ∧
     (windowOf n = .hold → kind = .uncorrectable → up (F.errMemHoldUnc d) 1 ∧ poisoned u n = true ∧
       (let p := (n - (holdBase + d * 0x1200000000)) / 4096
        p ∉ retiredPages s d → p ∈ queuedPages u d)) ∧
     (windowOf n = .hold → kind = .replaysFailed → up (F.errMemHoldUnc d) 1 ∧ poisoned u n = true) ∧
     (windowOf n = .whse → kind = .corrected →
       up (whseCorr (whsePortOf s n)) 1 ∧ up F.errCorrCorrected 1 ∧ u.poison = s.poison) ∧
     (windowOf n = .whse → kind = .uncorrectable → up (whseUnc (whsePortOf s n)) 1 ∧ poisoned u n = true) ∧
     (windowOf n = .berth → betweenJobs s = false → n / 128 ∉ s.sec.rowsWorn →
       (let e : RepairEntry := ⟨3, d, n % 0x20000000 / 0x800000, n % 0x800000 / 128, 0⟩
        let again := ∃ x ∈ s.sec.rowsCorrected, x.1 = n / 128 ∧ s.tide.now ≤ x.2 + 86400000000000
        e ∉ s.sec.repairs →
        (kind = .uncorrectable → u.sec.found = s.sec.found ++ [e]) ∧
        (kind = .corrected → again → u.sec.found = s.sec.found ++ [e]) ∧
        (kind = .corrected → ¬again → u.sec.found = s.sec.found ∧ (n / 128, s.tide.now) ∈ u.sec.rowsCorrected))))
  )

/-! ### The Quays -/

/-- The states of a port (R303 to R308, Table 11-2): signal on eight lanes trains an enabled port that is DOWN; FEC lock
brings IDENT with fresh link sequence numbers and an IDENT cell waiting; an IDENT cell next in order is recorded, and one
that agrees with the expectation brings SERVICE, one that does not QUARANTINE, where no IDENT helps any more; a link lost
brings DOWN. A port in use by the active epoch of a live job whose link is lost is step-fatal with source 0x22. A faulty
lane is switched to a healthy spare once, as a corrected error, and fails the port otherwise. -/
def Obligations.PortsFollowTheStatesOfTheTable : Prop :=
  (∀ (p : PortIx) (n : Nat) (locked : Bool) (s : State),
    (flag s (F.quayExpectEn p.val) = true → portState s p.val = 0 → 8 ≤ n →
      exec (.portSignalDetect p n) s = .next (setPortState s p.val 1)) ∧
    ((flag s (F.quayExpectEn p.val) = false ∨ portState s p.val ≠ 0 ∨ n < 8) → exec (.portSignalDetect p n) s = .next s) ∧
    (portState s p.val = 1 → ∃ u, exec (.trainingComplete p true) s = .next u ∧ portState u p.val = 2 ∧
      port u p.val = { port s p.val with
        txSeq := 0, rxSeq := 0, replay := [], reorder := [], waiting := [mkCell 4 (identPayload s p.val)], lastTx := [],
        tseq := 0, lastTime := none } ∧
      (∀ q, q ≠ p.val → port u q = port s q) ∧ u.mem = s.mem) ∧
    ((portState s p.val ≠ 1 ∨ locked = false) → exec (.trainingComplete p locked) s = .next s) ∧
    ((portState s p.val = 2 ∨ portState s p.val = 4) → exec (.identSend p) s = .next (setPort s p.val { port s p.val with
      waiting := (port s p.val).waiting ++ [mkCell 4 (identPayload s p.val)] })) ∧
    ((portState s p.val ≠ 2 ∧ portState s p.val ≠ 4) → exec (.identSend p) s = .next s)) ∧
  (∀ (p : PortIx) (s : State),
    (portState s p.val = 0 ∨ 4 < portState s p.val → exec (.linkLoss p) s = .next s) ∧
    (1 ≤ portState s p.val → portState s p.val ≤ 4 →
      portState (enterDown s p.val) p.val = 0 ∧
      port (enterDown s p.val) p.val = { port s p.val with
        identSeen := false, retraining := false, waiting := [], replay := [], reorder := [] } ∧
      (portState s p.val ≠ 3 ∨ jobLive s = false ∨ entryOnPort s p.val = none →
        exec (.linkLoss p) s = .next (enterDown s p.val)) ∧
      (∀ e, portState s p.val = 3 → jobLive s = true → entryOnPort s p.val = some e →
        exec (.linkLoss p) s =
          .next (fatal (captureQuay (enterDown s p.val) p.val e.stream 4) 0x22 (p.val / 16) (p.val % 16))))) ∧
  (∀ (p : PortIx) (wire : List Byte) (fec : Bool) (s : State), (port s p.val).retraining = false → (port s p.val).reorder = [] →
    2 ≤ portState s p.val → portState s p.val ≤ 4 →
    (cellIn wire fec).typ = 4 → cellInError (cellIn wire fec) = false → (cellIn wire fec).lseq = (port s p.val).rxSeq →
    let c := readIdent (cellIn wire fec).payload
    let agrees := decide (c.hallTag.toNat = fget s F.quayHallHallTag ∧
      c.moduleIndex.toNat = fget s (F.quayExpectFarIndex p.val) ∧ c.port.toNat = fget s (F.quayExpectFarPort p.val))
    (portState s p.val = 3 → agrees = true ∨ jobLive s = false ∨ entryOnPort s p.val = none) →
    ∃ u, exec (.identReceive p wire fec) s = .next u ∧
      fget u (F.quayPortStateFarIndex p.val) = c.moduleIndex.toNat % 2 ^ (F.quayPortStateFarIndex p.val).w ∧
      fget u (F.quayPortStateFarPort p.val) = c.port.toNat % 2 ^ (F.quayPortStateFarPort p.val).w ∧
      (port u p.val).identSeen = true ∧ (port u p.val).lastIdent = c ∧
      (port u p.val).rxSeq = (port s p.val).rxSeq + 1 ∧ u.mem = s.mem ∧
      portState u p.val = (if portState s p.val = 4 then 4 else if agrees then 3 else 4) ∧
      (agrees = false → portState s p.val ≠ 4 → flag u (F.quayPortStateIdentMismatch p.val) = true)) ∧
  (∀ (p : PortIx) (l : Fin 9) (g : LaneSign) (healthy : Bool) (s : State),
    (portState s p.val = 0 ∨ 4 < portState s p.val ∨ fget s (F.quayPortStateLaneOut p.val) = l.val →
      exec (.laneFault p l g healthy) s = .next s) ∧
    ((port s p.val).retraining = false → exec (.laneSwitchRetrainComplete p) s = .next s) ∧
    (1 ≤ portState s p.val → portState s p.val ≤ 4 → fget s (F.quayPortStateLaneOut p.val) ≠ l.val →
      (flag s (F.quayPortStateSpareIn p.val) = false → healthy = true → ∃ u, exec (.laneFault p l g healthy) s = .next u ∧
        fget u (F.quayPortStateLaneOut p.val) = l.val ∧ flag u (F.quayPortStateSpareIn p.val) = true ∧
        (port u p.val).retraining = true ∧ portState u p.val = portState s p.val ∧
        fget u F.errCorrCorrected = min (fget s F.errCorrCorrected + 1) (2 ^ F.errCorrCorrected.w - 1) ∧ u.mem = s.mem ∧
        exec (.laneSwitchRetrainComplete p) u = .next (setPort u p.val { port u p.val with retraining := false })) ∧
      ((flag s (F.quayPortStateSpareIn p.val) = true ∨ healthy = false) →
        exec (.laneFault p l g healthy) s = .next (enterFailed s p.val)))) ∧
  (∀ (p : PortIx) (s : State), (portState s p.val ≠ 3 ∨ jobLive s = false ∨ entryOnPort s p.val = none) →
    enterFailed s p.val = setPort (setPortState s p.val 5) p.val { port s p.val with retraining := false })

/-- CELL_TRANSMIT (R309 to R313, Table 11-5): of the cells that wait and may leave, one of the highest priority leaves, with
the number of the last cell accepted as its acknowledgement; a new DATA, HOLD or IDENT cell takes the next link sequence
number and is kept for replay, a TIME cell is stamped as it leaves, and a LINK cell names the next link sequence number
(assumption 85); only when none waits does the run being sent give its next cell, its own or one staged, with its run number
and its index, and its last cell ends the run, whose count advances. Acknowledgements and replay (R313, R314): a good LINK
cell releases the cells up to the acknowledged one; one in error is NAKed; a NAK has its cell sent again, marked as a
replay, at most eight times, after which, as after 100 µs without an acknowledgement, the port fails with retry_fail set. -/
def Obligations.CellsLeaveByPriorityAndReplay : Prop :=
  (
  (∀ (p : PortIx) (s : State), (∃ c ∈ (port s p.val).waiting, maySend s p.val c = true) →
    ∃ c ∈ (port s p.val).waiting, maySend s p.val c = true ∧
      (∀ x ∈ (port s p.val).waiting, maySend s p.val x = true → priority c ≤ priority x) ∧
      ∃ u, exec (.cellTransmit p) s = .next u ∧
        (let x := port s p.val
         let new := numbered c && !isReplay c
         let acked : Cell := { c with ack := x.rxSeq - 1 }
         (isReplay c = true → (port u p.val).lastTx = wireOf acked) ∧
         (new = true → (port u p.val).lastTx = wireOf { acked with lseq := x.txSeq }) ∧
         (isReplay c = false → c.typ = 2 → ∃ ps : BitVec 16, ps.toNat < 1000 ∧
           (port u p.val).lastTx = wireOf { acked with payload := timePayload (timeCellOf s p.val ps) } ∧
           (port u p.val).tseq = x.tseq + 1) ∧
         (isReplay c = false → c.typ = 5 → (port u p.val).lastTx = wireOf { acked with lseq := x.txSeq }) ∧
         (port u p.val).txSeq = x.txSeq + (if new then 1 else 0) ∧
         (port u p.val).replay = x.replay ++ (if new then [({ acked with lseq := x.txSeq }, 0)] else []) ∧
         (port u p.val).waiting.length + 1 = x.waiting.length ∧ (port u p.val).tx = x.tx) ∧
        (∀ q, q ≠ p.val → port u q = port s q) ∧ u.mem = s.mem ∧ u.threads = s.threads) ∧
  (∀ (p : PortIx) (s : State), (∀ c ∈ (port s p.val).waiting, maySend s p.val c = false) →
    (nextData (port s p.val) = none → exec (.cellTransmit p) s = .next s) ∧
    (∀ c y, nextData (port s p.val) = some (c, y) → c.typ = 1 → isReplay c = false →
      (inService s p.val = true → (port s p.val).retraining = false → (port s p.val).replay.length < 1024 →
        ∃ u, exec (.cellTransmit p) s = .next u ∧
          (port u p.val).lastTx = wireOf { c with ack := (port s p.val).rxSeq - 1, lseq := (port s p.val).txSeq } ∧
          (port u p.val).txSeq = (port s p.val).txSeq + 1 ∧ (port u p.val).staging = y.staging ∧
          (isLast c = false → (port u p.val).tx = y.tx ∧ u.mem = s.mem) ∧
          (isLast c = true → (port u p.val).tx = none ∧
            memKept [(streamAddr s c.stream.toNat + 0xC, 4)] s u ∧
            readNat u (streamAddr s c.stream.toNat + 0xC) 4 =
              (readNat s (streamAddr s c.stream.toNat + 0xC) 4 + 1) % 2 ^ 32)) ∧
      ((inService s p.val = false ∨ (port s p.val).retraining = true ∨ 1024 ≤ (port s p.val).replay.length) →
        exec (.cellTransmit p) s = .next s))) ∧
  (∀ (x : Port) (r : TxRun), x.tx = some r →
    (∀ c rest, r.cells = c :: rest → nextData x =
      some ({ c with run := r.run, cidx := BitVec.ofNat 32 r.cidx }, { x with tx := some { r with cells := rest, cidx := r.cidx + 1 } })) ∧
    (∀ c before rest, r.cells = [] → x.staging = before ++ c :: rest → c.stream.toNat = r.stream →
      (∀ y ∈ before, y.stream.toNat ≠ r.stream) → nextData x =
      some ({ c with run := r.run, cidx := BitVec.ofNat 32 r.cidx },
        { x with staging := before ++ rest, tx := some { r with cidx := r.cidx + 1 } })) ∧
    (r.cells = [] → (∀ y ∈ x.staging, y.stream.toNat ≠ r.stream) → nextData x = none))
  ) ∧
  (
  (∀ (p : PortIx) (wire : List Byte) (fec : Bool) (s : State),
    let k := cellIn wire fec
    ((linkState s p.val = false ∨ k.typ ≠ 5) → exec (.linkCellReceive p wire fec) s = .next s) ∧
    (2 ≤ portState s p.val → portState s p.val ≤ 4 → (port s p.val).retraining = false → k.typ = 5 →
      (cellInError k = true → ∃ u, exec (.linkCellReceive p wire fec) s = .next u ∧
        port u p.val = { port s p.val with waiting := (port s p.val).waiting ++ [mkCell 5 (linkPayload k.lseq 1)] } ∧
        u.mem = s.mem ∧ u.fields = s.fields) ∧
      (cellInError k = false →
        let l := BitVec.ofNat 32 (at_ k.payload 0 4)
        let t := setPort s p.val { port s p.val with replay := (port s p.val).replay.filter (fun x => seqBefore k.ack x.1.lseq) }
        at_ k.payload 4 1 ≤ 2 ∧
        (at_ k.payload 4 1 = 0 → exec (.linkCellReceive p wire fec) s = .next t) ∧
        (1 ≤ at_ k.payload 4 1 → (port t p.val).replay.find? (fun y => decide (y.1.lseq = l)) = none →
          exec (.linkCellReceive p wire fec) s = .next t) ∧
        (∀ c n, 1 ≤ at_ k.payload 4 1 → (port t p.val).replay.find? (fun y => decide (y.1.lseq = l)) = some (c, n) →
          (n < 8 → ∃ u, exec (.linkCellReceive p wire fec) s = .next u ∧
            (port u p.val).waiting = (port s p.val).waiting ++ [{ c with flags := c.flags ||| 4#8 }] ∧
            (port u p.val).replay.find? (fun y => decide (y.1.lseq = l)) = some (c, n + 1) ∧ u.fields = s.fields ∧ u.mem = s.mem) ∧
          (8 ≤ n → exec (.linkCellReceive p wire fec) s = .next (retryFailed t p.val)))))) ∧
  (∀ (p : PortIx) (s : State),
    (2 ≤ portState s p.val → portState s p.val ≤ 4 → (port s p.val).replay ≠ [] →
      exec (.ackTimeout p) s = .next (retryFailed s p.val)) ∧
    ((portState s p.val < 2 ∨ 4 < portState s p.val ∨ (port s p.val).replay = []) → exec (.ackTimeout p) s = .next s)) ∧
  (∀ (p : PortIx) (s : State), (portState s p.val ≠ 3 ∨ jobLive s = false) →
    retryFailed s p.val = setPort (setPortState (fput s (F.quayPortStateRetryFail p.val) 1) p.val 5) p.val
      { port s p.val with retraining := false })
  )

/-- The wire image of a cell (R309, Table 11-4; CRC-32C with the usual parameters, which the model presumes: assumption 85):
a header of 32 bytes whose last four are the check of the first 28, the payload padded with zeros to a multiple of 8 bytes,
and a trailer with the check of the padded payload and the acknowledgement; the receiver reads every field back and finds
the checks good. -/
def Obligations.CellsReadBackFromTheirWireImage : Prop :=
  ∀ c : Cell, c.payload.length ≤ 512 →
    (wireOf c).length = 40 + (c.payload.length + 7) / 8 * 8 ∧
    cellIn (wireOf c) false = { c with bad := false } ∧
    cellIn (wireOf c) true = { c with bad := true } ∧
    natOfBytes (((wireOf c).drop 0x1C).take 4) = (crc32c ((wireOf c).take 28)).toNat

/-- DATA, HOLD and IDENT cells received (R310, R313 to R315, R319, Table 11-2): a port takes them in the states that carry
their type, a reserved type counting as DATA in error; one in error is NAKed and frees nothing; any other frees the
acknowledged cells; then a repeat does nothing more, a DATA cell without buffer space or past a full reorder buffer is NAKed
as such, one after a gap is held and each number skipped for the first time NAKed, and the next in order does what its type
says, after which held cells follow. A HOLD cell gives its request, a DATA cell goes to the open run of its stream and run
number, or is a Quay protocol fault. Combining (R327): a DATA cell of the last module's 32-bit combining, next in order and
without poison, writes for each element the sum of the received and the own value rounded to binary32, a phantom element
giving zero, and nothing else in memory. Gates (R324, R254): the poll reads the operand of a gated run to be sent once its
gate is open, and combines the cells that a gated run received has held; a closed gate keeps both as they are, as does a
retained gradient that the sums would overwrite (assumption 81). -/
def Obligations.NumberedCellsAreTakenInOrder : Prop :=
  (
  (∀ (p : PortIx) (wire : List Byte) (fec buffer : Bool) (i : Instr) (s : State),
    let c := cellIn wire fec
    let x := port s p.val
    let t := takeAck s p.val c.ack
    let repeated := seqBefore c.lseq x.rxSeq || x.reorder.any (fun y => decide (y.lseq = c.lseq))
    x.retraining = false →
    ((i = .dataCellReceive p wire fec buffer ∧ inService s p.val = true ∧ (c.typ = 1 ∨ c.typ = 0 ∨ 6 ≤ c.typ.toNat)) ∨
     (i = .holdCellReceive p wire fec ∧ inService s p.val = true ∧ c.typ = 3) ∨
     (i = .identReceive p wire fec ∧ 2 ≤ portState s p.val ∧ portState s p.val ≤ 4 ∧ c.typ = 4)) →
    (cellInError c = true → ∃ u, exec i s = .next u ∧
      port u p.val = { x with waiting := x.waiting ++ [mkCell 5 (linkPayload c.lseq 1)] } ∧ u.mem = s.mem ∧ u.fields = s.fields) ∧
    ((c.typ = 0 ∨ 6 ≤ c.typ.toNat) → cellInError c = true) ∧
    (cellInError c = false →
      (repeated = true → exec i s = .next t) ∧
      (repeated = false →
        (c.typ = 1 → (buffer = false ∨ (c.lseq ≠ x.rxSeq ∧ 1024 ≤ x.reorder.length)) → exec i s = .next (nak t p.val c.lseq 2)) ∧
        ((c.typ = 1 → buffer = true) → c.lseq = x.rxSeq →
          exec i s = .next (releaseReorder 1024 (actOn (acceptNext t p.val) p.val c) p.val)) ∧
        ((c.typ = 1 → buffer = true ∧ x.reorder.length < 1024) → c.lseq ≠ x.rxSeq → ∃ u, exec i s = .next u ∧
          (port u p.val).reorder = x.reorder ++ [c] ∧ (port u p.val).rxSeq = x.rxSeq ∧
          (port u p.val).waiting = x.waiting ++ (newGap x c.lseq).map (fun l => mkCell 5 (linkPayload l 1)) ∧
          u.mem = s.mem ∧ u.fields = s.fields)))) ∧
  (∀ (p : PortIx) (wire : List Byte) (fec buffer : Bool) (s : State),
    ((inService s p.val = false ∨ (port s p.val).retraining = true) →
      exec (.dataCellReceive p wire fec buffer) s = .next s ∧ exec (.holdCellReceive p wire fec) s = .next s) ∧
    ((portState s p.val < 2 ∨ 4 < portState s p.val ∨ (port s p.val).retraining = true) →
      exec (.identReceive p wire fec) s = .next s)) ∧
  (∀ (x : Port) (l : BitVec 32), x.reorder = [] → seqBefore x.rxSeq l = true →
    newGap x l = (List.range (l - x.rxSeq).toNat).map (fun i => x.rxSeq + BitVec.ofNat 32 i)) ∧
  (∀ (n p : Nat) (c : Cell) (s : State), (port s p).reorder.find? (fun y => decide (y.lseq = (port s p).rxSeq) && takesType s p y.typ) =
      some c →
    ∃ u, port u p = { port s p with reorder := removeFirst c (port s p).reorder, rxSeq := (port s p).rxSeq + 1 } ∧
      u.mem = s.mem ∧ u.fields = s.fields ∧ releaseReorder (n + 1) s p = releaseReorder n (actOn u p c) p) ∧
  (∀ (n p : Nat) (s : State), (∀ y ∈ (port s p).reorder, y.lseq ≠ (port s p).rxSeq) → releaseReorder n s p = s) ∧
  (∀ (p : Nat) (c : Cell) (s : State),
    (c.typ = 3 → actOn s p c = takeRequest s (readHold c.payload)) ∧
    (c.typ = 1 → (port s p).rx.find? (fun r => decide (r.stream = c.stream.toNat) && !r.closed) = none →
      actOn s p c = quayFault s p c.stream.toNat 1) ∧
    (∀ r, c.typ = 1 → (port s p).rx.find? (fun r => decide (r.stream = c.stream.toNat) && !r.closed) = some r →
      (r.run ≠ c.run → actOn s p c = quayFault s p c.stream.toNat 2) ∧
      (r.run = c.run → actOn s p c = runCell (countEvent s 3 p 2 1 0) p r c)))
  ) ∧
  (
  ∀ (p : PortIx) (wire : List Byte) (fec : Bool) (r : RxRun) (s : State), inService s p.val = true →
    (port s p.val).retraining = false → clean s →
    let c := cellIn wire fec
    c.typ = 1 → cellInError c = false → c.lseq = (port s p.val).rxSeq → (port s p.val).reorder = [] →
    (port s p.val).rx.find? (fun r => decide (r.stream = c.stream.toNat) && !r.closed) = some r → r.run = c.run → r.gated = false →
    let d := streamDesc s r.stream
    let e0 := c.cidx.toNat * 128
    let m := c.payload.length / 4
    let a := at_ d 0x20 8 + 4 * e0
    sdMode d = 4 → sdFinal d = true → isFirst c = false → isLast c = false → e0 + m ≤ sdElems d →
    populatedRange s a (4 * m) = true →
    ∃ u, exec (.dataCellReceive p wire fec true) s = .next u ∧ memKept [(a, 4 * m)] s u ∧ u.fields = s.fields ∧
      (port u p.val).rxSeq = (port s p.val).rxSeq + 1 ∧
      ∀ k, k < m → readNat u (a + 4 * k) 4 = encode f32 (rto32 (if phantom d (e0 + k) then nzero
        else nadd (f32At c.payload (4 * k)) (decode f32 (readNat s (at_ d 0x10 8 + 4 * (e0 + k)) 4)))) % 2 ^ 32
  ) ∧
  (
  (∀ (p : PortIx) (s : State), (∀ r, (port s p.val).tx = some r → r.gated = true → gateOpen s (streamDesc s r.stream) = false) →
    (∀ r, (port s p.val).rx.find? (fun r => r.gated && !r.closed) = some r → rxWaits s (streamDesc s r.stream) = true) →
    exec (.quayGatePoll p) s = .next s) ∧
  (∀ (p : PortIx) (r : TxRun) (s : State), (port s p.val).tx = some r → r.gated = true → gateOpen s (streamDesc s r.stream) = true →
    (port s p.val).rx.find? (fun r => r.gated && !r.closed) = none → clean s →
    ∃ u, exec (.quayGatePoll p) s = .next u ∧ port u p.val = { port s p.val with
        tx := some { r with gated := false, cells := originCells s (streamDesc s r.stream) r.stream } } ∧
      (∀ q, q ≠ p.val → port u q = port s q) ∧ u.mem = s.mem ∧ u.fields = s.fields) ∧
  (∀ (p : PortIx) (r : RxRun) (s : State), (port s p.val).tx = none →
    (port s p.val).rx.find? (fun r => r.gated && !r.closed) = some r → rxWaits s (streamDesc s r.stream) = false →
    exec (.quayGatePoll p) s =
      .next (reduceHeld (putRx s p.val r.stream { r with gated := false, held := [] }) p.val r.stream r.held)) ∧
  (∀ (s : State) (d : List Byte), gateOpen s d = true ↔ (at_ d 1 1 / 4 % 2 = 1 →
    (at_ d 0x50 8 + at_ d 0xC 4 * at_ d 0x58 8) % 2 ^ 64 ≤ readNat s (at_ d 0x48 8) 8)) ∧
  (∀ (s : State) (d : List Byte), rxWaits s d = true ↔ (gateOpen s d = false ∨ (at_ d 1 1 % 2 = 1 ∧
    ∃ g ∈ s.ledger.retained, at_ d 0x20 8 < g.addr + 4194304 ∧ g.addr < at_ d 0x20 8 + 4 * at_ d 8 4)))
  )

/-! ### Launch, end, switches and securing -/

/-- LAUNCH_PAGE_POLL (R350, R365, R459): at a whole microsecond of a module that is ready, a launch page with magic, format
and check valid and a new sequence number is taken when no command is being carried out, and refused with result 9 in a
state that does not permit its command; the service request is polled alike, with results 1 and 3; a new switch request of a
running job has the free slot loading, or code 6 while that slot is in use. The status page shows the answer. -/
def Obligations.PollsTakeANewValidPage : Prop :=
  (∀ s : State, (s.tide.running = false ∨ s.tide.now % 1000 ≠ 0 ∨ bootStageOf s ≠ 7 ∨ 4 ≤ pwrState s) →
    exec .launchPagePoll s = .next s) ∧
  (∀ s : State, s.tide.running = true → s.tide.now % 1000 = 0 → bootStageOf s = 7 → pwrState s < 4 → clean s →
    exec .launchPagePoll s = .next (pollSwitch (pollService (pollLaunch s)))) ∧
  (∀ s : State,
    (let p := readBytes s launchArea 256
     let c := at_ p 6 1
     let valid := at_ p 0 4 = 0x4C584759 ∧ at_ p 4 2 = 1 ∧ shake256 16 (p.take 0xF0) = p.drop 0xF0
     let new := s.job.acked.toNat ≠ at_ p 8 4
     (¬(s.job.cmd = none ∧ valid ∧ new) → pollLaunch s = s) ∧
     (s.job.cmd = none → valid → new → launchPermitted s c = true →
       pollLaunch s = { s with job := { s.job with page := p, cmd := some c } }) ∧
     (s.job.cmd = none → valid → new → launchPermitted s c = false →
       (pollLaunch s).job = { s.job with page := p, result := 9, groupFail := 0, acked := BitVec.ofNat 32 (at_ p 8 4), cmd := none, ramping := false } ∧
       memKept [(statusPage, 41)] s (pollLaunch s) ∧
       readBytes (pollLaunch s) statusPage 41 = statusBytes (pollLaunch s).job))) ∧
  (∀ s : State,
    (let p := readBytes s (switchPage + 0x400) 256
     let c := at_ p 4 1
     let valid := at_ p 0 4 = 0x53525859 ∧ shake256 16 (p.take 0xF0) = p.drop 0xF0
     let new := s.svc.acked.toNat ≠ at_ p 8 4
     (¬(s.svc.req = none ∧ valid ∧ new) → pollService s = s) ∧
     (s.svc.req = none → valid → new →
       (1 ≤ c → c ≤ 8 → svcPermitted s c = true →
         pollService s = setSvc s { s.svc with page := p, req := some c }) ∧
       ((c = 0 ∨ 8 < c) → (pollService s).svc.result = 1 ∧ (pollService s).svc.req = none) ∧
       (1 ≤ c → c ≤ 8 → svcPermitted s c = false →
         (pollService s).svc.result = 3 ∧ (pollService s).svc.req = none ∧ (pollService s).svc.cmd = c ∧
         memKept [(statusPage + 0x400, 48)] s (pollService s))))) ∧
  (∀ s : State, fget s F.manifestPinAfterSlot < 2 →
    (let seq := readNat s (switchPage + 0x18) 4
     let slot := 1 - fget s F.manifestPinAfterSlot
     ((s.job.st ≠ 5 ∨ s.job.switchReq = true ∨ s.job.switchSeq.toNat = seq) → pollSwitch s = s) ∧
     (s.job.st = 5 → s.job.switchReq = false → s.job.switchSeq.toNat ≠ seq →
       (pollSwitch s).job.switchSeq.toNat = seq ∧
       (fget s (F.manifestSlotState slot) = 3 → (pollSwitch s).job.switchCode = 6 ∧ (pollSwitch s).job.switchReq = false) ∧
       (fget s (F.manifestSlotState slot) ≠ 3 → (pollSwitch s).job.switchReq = true ∧
         (pollSwitch s).job.switchPage = readBytes s switchPage 64 ∧
         fget (pollSwitch s) (F.manifestSlotState slot) = 1))))

/-- PREPARE (R367, R432, Table 13-6): the conditions are examined in order, and the first that fails is the result of a
module that is REJECTED, with nothing loaded: 8 not locked, 1 an image out of place, 2 its digest, 1 its form, 5 no rank, 3
a descriptor, 4 a ring, 3 threads, regions or recovery, 6 a failed Warehouse port or a Manifest that cannot be loaded. When
all hold, the image is staged and its two groups checked: a failure is result 7; a pass is shown once every Crane has
reached the Ballast floor. While the staging is busy the command fails with result 3. -/
def Obligations.PrepareChecksThenStages : Prop :=
  ∀ (o : LoadObs) (s : State), s.job.cmd = some 1 → s.job.ramping = false →
    (let p := s.job.page
     let a := at_ p 0x20 8
     let len := at_ p 0x28 8
     let s0 := setJob s { s.job with st := 1, jobId := BitVec.ofNat 64 (at_ p 0x10 8) }
     let code := prepareFailure s0 o
     let done (u : State) := u.job.cmd = none ∧ u.job.acked = BitVec.ofNat 32 (at_ p 8 4)
     ((stageState s = 1 ∨ stageState s = 4) → ∃ u, exec (.prepare o) s = .next u ∧ done u ∧ u.job.result = 3 ∧ u.job.st = s.job.st ∧
       u.fields = s.fields) ∧
     code = (if lockState s ≠ 2 then 8 else if imagePlaced s0 a len = false then 1
       else if digest (readBytes s0 a len) ≠ (p.drop 0x30).take 32 then 2
       else if (imageForm s0 a len (BitVec.ofNat 64 (at_ p 0x10 8)) && ranksOk s0 a && layersForm s0 a) = false then 1
       else match myRank s0 a with
         | none => 5
         | some rank =>
           if descriptorsOk s0 a = false then 3 else if ringsOk s0 a rank = false then 4
           else if (threadsOk s0 a && imRegionsOk s0 a && recoveryOk s0 a len rank) = false then 3
           else if (List.range 4).any (whseFailed s0) = true ∨ manifestLoads s0 o a rank = false then 6 else 0) ∧
     (stageState s ≠ 1 → stageState s ≠ 4 →
       (code ≠ 0 → ∃ u, exec (.prepare o) s = .next u ∧ done u ∧ u.job.st = 3 ∧ u.job.result = code ∧
         u.job.jobId = BitVec.ofNat 64 (at_ p 0x10 8) ∧ u.stage = s.stage ∧ u.threads = s.threads ∧ u.cranes = s.cranes ∧
         memKept [(statusPage, 41)] s u ∧ ∀ f, fieldKey f ≠ fieldKey F.pwrStateState → fget u f = fget s f) ∧
       (∀ rank, code = 0 → myRank s0 a = some rank →
         (let t := stageJob s0 o a rank
          ∃ u, exec (.prepare o) s = .next u ∧
            (stageState t = 2 → atFloor t = true → done u ∧ u.job.st = 2 ∧ u.job.result = 0 ∧ pwrState u = 2 ∧ u.stage = t.stage ∧
              u.job.rank = rank ∧ u.job.seed = BitVec.ofNat 64 (at_ p 0x18 8)) ∧
            (stageState t = 2 → atFloor t = false → u.job.cmd = some 1 ∧ u.job.ramping = true ∧ u.job.st = 1 ∧ pwrState u = 1 ∧
              u.stage = t.stage) ∧
            (stageState t ≠ 2 → done u ∧ u.job.st = 3 ∧ u.job.result = 7 ∧ u.stage = s.stage ∧ u.threads = s.threads)))))

/-- ARM, ABORT and END (R368 to R370, Tables 13-3 to 13-6): ARM needs an instant at a hold boundary at least 16,384 ns ahead
(result 0xA) and the pass that PREPARE obtained (result 7), and arms the groups for it; ABORT within 16,384 ns of the commit
is too late (result 0xB) and otherwise makes the module IDLE, its regions and bindings released; END sets an instant no
nearer than 16,384 ns. A command that is not being carried out does nothing. The end of a job (R370, R371, R102, R118, R295,
R344, Table 13-5): at END's instant, and when the Harbourmaster finds a program fault captured, job threads are parked and
no entry or flip is left to start, while started work goes on; the cause is 1 or the fault's own, with a copy of its capture
register; once started work has retired the job is ENDED the module ramps down and the activation tables are as start-up
leaves them (assumption 79). -/
def Obligations.ArmAbortAndEndFollowTheLaunchState : Prop :=
  (
  (∀ s : State, s.job.cmd = some 2 → s.job.ramping = false →
    (let at_ns := at_ s.job.page 0x50 8
     let done (u : State) := u.job.cmd = none ∧ u.job.acked = BitVec.ofNat 32 (at_ s.job.page 8 4) ∧ u.threads = s.threads
     ((stageState s = 1 ∨ stageState s = 4) → ∃ u, exec .arm s = .next u ∧ done u ∧ u.job.st = 2 ∧ u.job.result = 3) ∧
     (stageState s ≠ 1 → stageState s ≠ 4 → (at_ns % 16384 ≠ 0 ∨ at_ns < s.tide.now + 16384) →
       ∃ u, exec .arm s = .next u ∧ done u ∧ u.job.st = 2 ∧ u.job.result = 0xA ∧ u.fields = s.fields) ∧
     (at_ns % 16384 = 0 → s.tide.now + 16384 ≤ at_ns →
       (stageState s = 2 → ownedBy s .fw = true → s.stage.groups = 3#5 →
         ∃ u, exec .arm s = .next u ∧ done u ∧ u.job.st = 4 ∧ u.job.result = 0 ∧ u.job.commitNs.toNat = at_ns ∧ stageState u = 4 ∧
           fget u F.tideCommitAtCommitNs = at_ns ∧ u.stage = { s.stage with armedAt := at_ns }) ∧
       (stageState s ≠ 1 → stageState s ≠ 4 → ¬(stageState s = 2 ∧ ownedBy s .fw = true ∧ s.stage.groups = 3#5) →
         ∃ u, exec .arm s = .next u ∧ done u ∧ u.job.st = 3 ∧ u.job.result = 7)))) ∧
  (∀ s : State, s.job.cmd = some 3 → s.job.ramping = false →
    (s.job.st = 4 → s.job.commitNs.toNat < s.tide.now + 16384 →
      ∃ u, exec .abort s = .next u ∧ u.job.st = 4 ∧ u.job.result = 0xB ∧ u.fields = s.fields ∧ u.stage = s.stage) ∧
    (¬(s.job.st = 4 ∧ s.job.commitNs.toNat < s.tide.now + 16384) →
      ∃ u, exec .abort s = .next u ∧ u.job.st = 0 ∧ u.job.result = 0 ∧ u.job.cmd = none ∧
        (s.job.st ≠ 3 → (∀ d n, d < 2 → n < 16 → fget u (F.tugRegionBaseEn d n) = 0) ∧
          (∀ d c, d < 2 → c < 8 → fget u (F.tugCqBindEn d c) = 0) ∧
          (ownedBy s .fw = true → (stageState s = 2 ∨ stageState s = 4) → stageState u = 0)))) ∧
  (∀ s : State, s.job.cmd = some 4 → s.job.ramping = false →
    ∃ u, exec .endCmd s = .next u ∧ u.job.st = 5 ∧ u.job.result = 0 ∧ u.job.cmd = none ∧
      u.job.endAt = some (max (at_ s.job.page 0x50 8) (s.tide.now + 16384)) ∧ u.fields = s.fields ∧ u.threads = s.threads) ∧
  (∀ (s : State) (o : LoadObs), s.job.cmd = none →
    exec .arm s = .next s ∧ exec .abort s = .next s ∧ exec .endCmd s = .next s ∧ exec (.prepare o) s = .next s)
  ) ∧
  (
  (∀ (s : State) (cause : Nat) (detail : Word),
    (let u := stopByEnd s cause detail
     u.job.st = 6 ∧ u.job.endCause = cause ∧ u.job.endDetail = detail ∧ u.job.stopped = true ∧ u.job.endAt = none ∧
     u.tide.due = [] ∧ u.tide.dls = [] ∧ u.ledger.flips = [] ∧ u.cranes = s.cranes ∧ u.barges = s.barges ∧ u.ports = s.ports ∧ u.cores = s.cores ∧
     memKept [(statusPage, 41)] s u ∧ readBytes u statusPage 41 = statusBytes u.job ∧
     (∀ t, isJobThread t = true → (thread u t).st = .parked) ∧ (∀ t, isJobThread t = false → thread u t = thread s t))) ∧
  (∀ (s : State) (t : Nat), s.job.endAt = some t →
    (s.job.st = 5 → t ≤ s.tide.now → exec .endInstant s = .next (stopByEnd s 1 0)) ∧
    ((s.job.st ≠ 5 ∨ s.tide.now < t) → exec .endInstant s = .next s)) ∧
  (∀ s : State, s.job.endAt = none → exec .endInstant s = .next s) ∧
  (∀ s : State, s.job.st = 5 →
    (∀ d : Die, flag s (F.tugFaultValid d.val) = true →
      exec (.programFaultEnd (.tug d)) s = .next (stopByEnd s 2 (regWord s (faultFields (.tug d))))) ∧
    (∀ c : CraneIx, flag s (F.craneRejectValid c.val) = true →
      exec (.programFaultEnd (.crane c)) s = .next (stopByEnd s 3 (regWord s (craneRejectFields c.val)))) ∧
    (∀ d : Die, d.val ∈ s.job.rejected →
      exec (.programFaultEnd (.barge d)) s = .next (stopByEnd s 4 (regWord s (faultFields (.barge d))))) ∧
    (s.job.digestFault = true → exec (.programFaultEnd .storageDigest) s = .next (stopByEnd s 5 0))) ∧
  (∀ (f : ProgFault) (s : State), (s.job.st ≠ 5 ∨ faultCaptured s f = false) → exec (.programFaultEnd f) s = .next s) ∧
  (∀ s : State, s.job.st = 6 →
    (quiet s = true → ∃ u, exec .jobEnded s = .next u ∧ u.job.st = 7 ∧
      pwrState u = (if pwrState s = 1 ∨ pwrState s = 2 then 3 else pwrState s) ∧ u.threads = s.threads ∧
      (∀ c, c < 16 → (crane u c).act = [] ∧ (crane u c).ebb1 = [] ∧ fget u (F.craneActGenFloodValid c) = 0) ∧
      memKept [(statusPage, 41)] s u) ∧
    (quiet s = false → exec .jobEnded s = .next s)) ∧
  (∀ s : State, s.job.st ≠ 6 → exec .jobEnded s = .next s)
  )

/-- LAUNCH_COMMIT (R368, R103, R136, R378, R400): at the commit instant, the groups active, the captures and counters of the
job return to zero, the Crane queues and banks and the caches are empty (assumption 79), the secured steps of a fresh job
are none, and every thread of the image starts at job privilege with cleared registers at its program counter, rounded down
to a word. -/
def Obligations.LaunchCommitStartsTheJob : Prop :=
  (∀ s : State, s.tide.running = true → s.job.st = 4 → s.job.commitNs.toNat = s.tide.now → stageState s = 5 →
    (s.job.threads.map (·.1)).Nodup →
    ∃ u, exec .launchCommit s = .next u ∧
      u.job.st = 5 ∧ u.job.step = 0xFFFFFFFF ∧ u.job.dropped = [] ∧ u.job.stopped = false ∧ u.job.endCause = 0 ∧
      u.job.curStep = (s.job.resumeStep + 1).toNat ∧
      fget u F.errFirstValid = 0 ∧ fget u F.errFatalsFatals = 0 ∧ fget u F.errDropDropped = 0 ∧ fget u F.errPoisonValid = 0 ∧
      fget u F.quayFaultValid = 0 ∧ fget u F.ledgerDoneDone0 = 0 ∧
      (∀ d, d < 2 → fget u (F.tugFaultValid d) = 0 ∧ fget u (F.tugViolCountCount d) = 0 ∧ fget u (F.bargeFaultValid d) = 0 ∧
        flag u (F.tugViolCountDiag d) = s.job.diag) ∧
      (∀ c, c < 16 → fget u (F.craneRejectValid c) = 0 ∧ fget u (F.craneStatusFgRetired c) = 0xFFFFFFFF ∧
        (crane u c).fgq = [] ∧ (crane u c).bgq = [] ∧ (crane u c).flight = [] ∧ (crane u c).fgSeq = 0 ∧
        (crane u c).bank0 = {} ∧ (crane u c).bank1 = {}) ∧
      u.hcache = [] ∧ (∀ k, k < 128 → (core u k).dcache = [] ∧ (core u k).icache = []) ∧
      (s.job.resumeStep = 0xFFFFFFFF → fget u F.errSecureSecuredStep = 0xFFFFFFFF ∧ fget u (F.manifestSlotState 0) = 3) ∧
      (s.job.resumeStep ≠ 0xFFFFFFFF → fget u F.errSecureSecuredStep = fget s F.errSecureSecuredStep) ∧
      (∀ x ∈ s.job.threads, (thread u x.1).fw = false ∧ (thread u x.1).pc = x.2 &&& ~~~3#64 ∧ (thread u x.1).st ≠ .parked ∧
        (thread u x.1).fstat = 0 ∧ ∀ r, g u x.1 r = 0) ∧
      u.barges = s.barges ∧ u.tide = s.tide) ∧
  (∀ s : State, (s.job.st ≠ 4 ∨ s.job.commitNs.toNat ≠ s.tide.now ∨ stageState s ≠ 5) → exec .launchCommit s = .next s)

/-- MANIFEST_SWITCH (R338, R344, R350, R352, Table 12-5): the Manifest of a request is loaded into the free slot, which is
ready when every Read has completed and every extent agrees with its digest, and empty otherwise; the switch is answered
with the first code whose condition holds; an accepted one moves the pin at once, the old after slot becoming the before
slot, and is counted and logged; a refused one leaves the pin. Securing (R389 to R391, Tables 14-6 and 14-7): once every
extent of a generation agrees with its digest, its header is written with state 1 and its register shows the step; the
secured step advances when the home copy is complete and the Partner has confirmed the same step; an extent that does not
match is a corrected event and leaves the generation with state 0. RESTORE_COMPLETE (R352, R394, R395): a home generation
that fails verification is step-fatal with source 0x25; with one that verifies, and the Manifests that the switch log pins,
the secured step, the pin and the slots are brought back and the drop gate opens for the step after; until those Manifests
are loaded, and outside a resume's restore, nothing changes. -/
def Obligations.SwitchesSecuringAndRestore : Prop :=
  (
  (∀ (o : LoadObs) (s : State), jobLive s = true → s.job.switchReq = true → fget s F.manifestPinAfterSlot < 2 →
    (let m := o.manifest
     let step := at_ s.job.switchPage 0x10 4
     let mb := at_ s.job.switchPage 0x14 2
     let before := fget s F.manifestPinBeforeSlot
     let after := fget s F.manifestPinAfterSlot
     let slot := 1 - after
     let loaded := o.readsOk && mfSourceOk s s.job.switchPage m.length && mfFormOk m && slotExtentsOk s.job.layers m
     let t := loadSwitch s o slot
     let code := if step < s.job.curStep + 2 then 1 else if loaded = false then 2
       else if switchLayersOk t slot = false then 3 else if switchTagOk t slot = false then 4 else if s.job.m ≤ mb then 5
       else if before ≠ after ∧ fget t (F.manifestSlotState before) = 3 then 6 else 0
     ∃ u, exec (.manifestSwitch o) s = .next u ∧ fget u F.manifestResultCode = code ∧
       u.threads = s.threads ∧ u.cranes = s.cranes ∧ u.job.switchReq = false ∧ u.job.switchCode = code ∧
       fget u (F.manifestSlotState slot) = (if code = 0 then 3 else if loaded then 2 else 0) ∧
       fget u (if slot = 0 then F.manifestVerVer0 else F.manifestVerVer1) = (if loaded then at_ m 8 4 else 0) ∧
       (code = 0 → fget u F.manifestPinBeforeSlot = after ∧ fget u F.manifestPinAfterSlot = slot ∧
         fget u F.manifestPinEffStep = step ∧ fget u F.manifestPinEffMbatch = mb ∧
         u.job.switchLog.length = s.job.switchLog.length + 1 ∧
         fget u F.manifestResultAccepted = min (fget s F.manifestResultAccepted + 1) (2 ^ F.manifestResultAccepted.w - 1)) ∧
       (code ≠ 0 → fget u F.manifestPinBeforeSlot = before ∧ fget u F.manifestPinAfterSlot = after ∧
         fget u F.manifestPinEffStep = fget s F.manifestPinEffStep ∧ u.job.switchLog = s.job.switchLog))) ∧
  (∀ (o : LoadObs) (s : State), (jobLive s = false ∨ s.job.switchReq = false) → exec (.manifestSwitch o) s = .next s)
  ) ∧
  (
  (∀ (ward : Bool) (step : BitVec 32) (s : State), jobLive s = true → step.toNat % s.job.s = 0 → step.toNat < s.job.curStep →
    (let a := genBase s ward step.toNat
     let n := genExtents s ward step.toNat
     (extentsMatch s a n = false → ∃ u, exec (.secureGenerationComplete ward step) s = .next u ∧ memKept [(a, 64)] s u ∧
       readNat u a 4 = 0x43535859 ∧ readNat u (a + 7) 1 = 0 ∧ readNat u (a + 12) 4 = step.toNat ∧ u.job = s.job ∧
       fget u F.errCorrCorrected = min (fget s F.errCorrCorrected + 1) (2 ^ F.errCorrCorrected.w - 1) ∧
       fget u F.errSecureSecuredStep = fget s F.errSecureSecuredStep ∧ fget u F.errSecureWardStep = fget s F.errSecureWardStep) ∧
     (extentsMatch s a n = true → ∃ u, exec (.secureGenerationComplete ward step) s = .next u ∧ memKept [(a, 64)] s u ∧
       readNat u a 4 = 0x43535859 ∧ readNat u (a + 12) 4 = step.toNat ∧ readNat u (a + 16) 8 = s.job.jobId.toNat ∧
       readNat u (a + 7) 1 = 1 ∧
       readBytes u (a + 0x20) 32 = digest (readBytes u a 32 ++ readBytes s (a + 64) (48 * n)) ∧
       (ward = true → fget u F.errSecureWardStep = step.toNat ∧ fget u F.errSecureSecuredStep = fget s F.errSecureSecuredStep) ∧
       (ward = false → u.job.homeDone = step ∧ fget u F.errSecureSecuredStep =
         if step = s.job.confirmed ∧ step ≠ 0xFFFFFFFF then step.toNat else fget s F.errSecureSecuredStep))) ∧
    (∃ u, exec (.partnerConfirmation step) s = .next u ∧ u.job.confirmed = step ∧ u.mem = s.mem ∧
      fget u F.errSecureSecuredStep =
        if s.job.homeDone = step ∧ step ≠ 0xFFFFFFFF then step.toNat else fget s F.errSecureSecuredStep)) ∧
  (∀ (s : State) (a n : Nat), extentsMatch s a n = true ↔ ∀ k, k < n →
    (let e := a + 64 + 48 * k
     digest (readBytes s (a + readNat s e 8) (readNat s (e + 8) 8)) = readBytes s (e + 16) 32)) ∧
  (∀ (ward : Bool) (step : BitVec 32) (s : State),
    (jobLive s = false ∨ step.toNat % s.job.s ≠ 0 ∨ s.job.curStep ≤ step.toNat) →
    exec (.secureGenerationComplete ward step) s = .next s ∧ exec (.partnerConfirmation step) s = .next s)
  ) ∧
  (
  (∀ (log : List SwitchRec) (before after : LoadObs) (s : State),
    (let st := s.job.resumeStep.toNat
     let need := beforePinned log (st + 1)
     let (es, mb, b, a) := pinOf log
     let loaded := pinnedOk s after (versionDigest s log log.length) &&
       (!need || pinnedOk s before (versionDigest s log (log.length - 1)))
     ((jobLive s = false ∨ s.job.restored = true ∨ s.job.resumeStep = 0xFFFFFFFF) →
       exec (.restoreComplete log before after) s = .next s) ∧
     (jobLive s = true → s.job.restored = false → s.job.resumeStep ≠ 0xFFFFFFFF →
       (genVerifies s st = false → exec (.restoreComplete log before after) s = .next (fatal s 0x25 0 0)) ∧
       (genVerifies s st = true → loaded = false → exec (.restoreComplete log before after) s = .next s) ∧
       (genVerifies s st = true → loaded = true → ∃ u, exec (.restoreComplete log before after) s = .next u ∧
         u.job.restored = true ∧ u.job.step = s.job.resumeStep ∧ u.job.switchLog = log ∧
         fget u F.errSecureSecuredStep = st ∧ fget u F.errSecureWardStep = st ∧ fget u F.manifestPinEffStep = es ∧
         fget u F.manifestPinEffMbatch = mb ∧ fget u F.manifestPinBeforeSlot = b ∧ fget u F.manifestPinAfterSlot = a ∧
         fget u (F.manifestSlotState a) = 3 ∧
         fget u (if a = 0 then F.manifestVerVer0 else F.manifestVerVer1) = at_ after.manifest 8 4 ∧
         (need = true → fget u (F.manifestSlotState b) = 3 ∧
           fget u (if b = 0 then F.manifestVerVer0 else F.manifestVerVer1) = at_ before.manifest 8 4) ∧
         (apart s.job.dropGate 8 statusPage 41 → readNat u s.job.dropGate 8 = st + 1) ∧
         u.threads = s.threads ∧ u.tide = s.tide)))) ∧
  (∀ (log : List SwitchRec) (r : SwitchRec),
    pinOf [] = (0, 0, 0, 0) ∧
    pinOf (log ++ [r]) = (r.effStep.toNat, r.effMbatch.toNat, log.length % 2, (log.length + 1) % 2)) ∧
  (∀ (s : State) (st : Nat), genVerifies s st = true ↔
    (let a := genBase s false st
     readNat s a 4 = 0x43535859 ∧ readNat s (a + 4) 2 = 1 ∧ readNat s (a + 7) 1 = 1 ∧ readNat s (a + 0xC) 4 = st ∧
     readNat s (a + 0x10) 8 = s.job.jobId.toNat ∧ readNat s (a + 0x18) 4 = s.job.extents ∧
     digest (readBytes s a 32 ++ readBytes s (a + 64) (48 * s.job.extents)) = readBytes s (a + 0x20) 32 ∧
     extentsMatch s a s.job.extents = true))
  )

/-! ### Performance monitoring -/

/-- Snap, clear, arm and the actions (R405, R407, R418, R419): a snap copies every counter with its instant; a clear zeroes
counters, bins and overflow flags; an action armed at least 1,024 ns ahead is performed at its instant, with the time armed,
and one nearer is late; a write to a counter is kept and raises no flag. Nothing but the PERF block changes.
COUNTER_OVERFLOW (R405, R406): an increment that carries an unchained counter past its maximum leaves it at the maximum with
its flag set, and stops all counting when freeze_on_ovf is set and the flag rose; of a chained pair the even half wraps and
the odd half takes the carry, or both stay at their maximum with the odd half's flag set. Nothing else changes. -/
def Obligations.CountersSnapClearAndStick : Prop :=
  (
  ∀ s : State,
    (let snap (u : State) (t : Nat) : Prop := u.perf.snapCtr = s.perf.ctr ∧ u.perf.snapCc = s.perf.cc ∧ u.perf.snapTc = s.perf.tc ∧
       fget u F.perfSnapTideT = t % 2 ^ 64
     let kept (u : State) : Prop := u = { s with fields := u.fields, perf := u.perf }
     let due (k : Nat) : Prop := s.tide.running = true ∧ flag s F.perfCtlArmed = true ∧ s.perf.armedAction = k ∧ s.perf.armedAt ≤ s.tide.now
     (∃ u, exec .perfSnap s = .next u ∧ snap u s.tide.now ∧ kept u ∧ u.perf.ctr = s.perf.ctr ∧
       ∀ f, fieldKey f ≠ fieldKey F.perfSnapTideT → fget u f = fget s f) ∧
     (∃ u, exec .perfClear s = .next u ∧ u = { s with perf := { s.perf with ctr := [], bins := [], ovf := [] } }) ∧
     (∀ a : BitVec 2, a.toNat < 3 →
       (s.tide.now + 1024 ≤ fget s F.perfSnapAtAtNs → ∃ u, exec (.perfArm a) s = .next u ∧ kept u ∧ flag u F.perfCtlArmed = true ∧
         u.perf = { s.perf with armedAction := a.toNat, armedAt := fget s F.perfSnapAtAtNs }) ∧
       (fget s F.perfSnapAtAtNs < s.tide.now + 1024 → ∃ u, exec (.perfArm a) s = .next u ∧ kept u ∧ flag u F.perfCtlLate = true ∧
         u.perf = s.perf ∧ fget u F.perfCtlArmed = fget s F.perfCtlArmed)) ∧
     (due 0 → ∃ u, exec .snapAction s = .next u ∧ snap u s.perf.armedAt ∧ kept u ∧ flag u F.perfCtlArmed = false ∧
       u.perf.run = s.perf.run ∧ u.perf.ctr = s.perf.ctr) ∧
     (due 1 → ∃ u, exec .startAction s = .next u ∧ kept u ∧ flag u F.perfCtlArmed = false ∧
       u.perf = { s.perf with ctr := [], bins := [], ovf := [], run := true }) ∧
     (due 2 → ∃ u, exec .stopAction s = .next u ∧ snap u s.perf.armedAt ∧ kept u ∧ flag u F.perfCtlArmed = false ∧
       u.perf.run = false ∧ u.perf.ctr = s.perf.ctr) ∧
     (¬due 0 → exec .snapAction s = .next s) ∧ (¬due 1 → exec .startAction s = .next s) ∧ (¬due 2 → exec .stopAction s = .next s) ∧
     (∀ (n : Fin 8) (v : BitVec 48), ∃ u, exec (.perfCtrWrite n v) s = .next u ∧ u = { s with perf := { s.perf with ctr := u.perf.ctr } } ∧
       ∀ k, Tab.get 0 u.perf.ctr k = if k = n.val then v.toNat else Tab.get 0 s.perf.ctr k))
  ) ∧
  (
  (∀ (n : Fin 8) (inc : Nat) (s : State), s.perf.run = true → flag s (F.perfSelEn n.val) = true → selBad s n.val = false →
    inc ≤ 1020 → 2 ^ 48 - 1 < Tab.get 0 s.perf.ctr n.val + inc → Tab.get 0 s.perf.ctr n.val < 2 ^ 48 →
    ∃ u, exec (.counterOverflow n inc) s = .next u ∧ u = { s with perf := u.perf } ∧
      (chained s n.val = false → Tab.get 0 u.perf.ctr n.val = 2 ^ 48 - 1 ∧ Tab.get false u.perf.ovf n.val = true ∧
        u.perf.run = !(flag s F.perfCtlFreezeOnOvf && !Tab.get false s.perf.ovf n.val)) ∧
      (chained s n.val = true → n.val % 2 = 0 → Tab.get 0 s.perf.ctr (n.val + 1) < 2 ^ 48 - 1 →
        Tab.get 0 u.perf.ctr n.val = Tab.get 0 s.perf.ctr n.val + inc - 2 ^ 48 ∧
        Tab.get 0 u.perf.ctr (n.val + 1) = Tab.get 0 s.perf.ctr (n.val + 1) + 1 ∧ u.perf.ovf = s.perf.ovf ∧ u.perf.run = true) ∧
      (chained s n.val = true → n.val % 2 = 0 → 2 ^ 48 - 1 ≤ Tab.get 0 s.perf.ctr (n.val + 1) →
        Tab.get 0 u.perf.ctr n.val = 2 ^ 48 - 1 ∧ Tab.get 0 u.perf.ctr (n.val + 1) = 2 ^ 48 - 1 ∧
        Tab.get false u.perf.ovf (n.val + 1) = true ∧
        u.perf.run = !(flag s F.perfCtlFreezeOnOvf && !Tab.get false s.perf.ovf (n.val + 1))) ∧
      (chained s n.val = true → n.val % 2 = 1 → u = s)) ∧
  (∀ (n : Fin 8) (inc : Nat) (s : State), (s.perf.run = false ∨ flag s (F.perfSelEn n.val) = false ∨ selBad s n.val = true ∨
      1020 < inc ∨ Tab.get 0 s.perf.ctr n.val + inc ≤ 2 ^ 48 - 1) → exec (.counterOverflow n inc) s = .next s)
  )

/-- Sampling (R412, R413, R415): it is enabled only with a ring that lies in permitted memory, every down-counter loaded,
and is refused and shown so otherwise; an item is selected when its unit's down-counter is at zero, and lost when the unit
still holds one. SAMPLE_RECORD_WRITE (R412, R416, Table 15-5): the record of a completed Tug item goes to the slot of the
ring that head names, 64 bytes whose first ones are its type and unit, and head advances; with the ring full it is lost and
counted. A Crane's item is written once it has completed. The cycles in the record are what the sender measured. -/
def Obligations.SamplingTagsAndRecords : Prop :=
  (
  (∀ (t c : Bool) (s : State),
    (t = false → c = false → ∃ u, exec (.samplingEnable t c) s = .next u ∧ flag u F.perfSampCtlTugEn = false ∧
      flag u F.perfSampCtlCraneEn = false ∧ u.perf = s.perf ∧ u.mem = s.mem) ∧
    ((t = true ∨ c = true) → ringOk s = true → ∃ u, exec (.samplingEnable t c) s = .next u ∧
      flag u F.perfSampCtlTugEn = t ∧ flag u F.perfSampCtlCraneEn = c ∧ flag u F.perfCtlSampRefused = false ∧ u.mem = s.mem ∧
      (c = true → flag s F.perfSampCtlCraneEn = false → ∀ k, k < 16 → Tab.get 0 u.perf.craneLeft k = fget s F.perfSampCtlCranePeriod) ∧
      (t = true → flag s F.perfSampCtlTugEn = false → ∀ k, k < 128 →
        fget s F.perfSampCtlPeriod ≤ Tab.get 0 u.perf.tugLeft k ∧
        Tab.get 0 u.perf.tugLeft k < fget s F.perfSampCtlPeriod + 2 ^ fget s F.perfSampCtlJitter)) ∧
    ((t = true ∨ c = true) → ringOk s = false → ∃ u, exec (.samplingEnable t c) s = .next u ∧ flag u F.perfCtlSampRefused = true ∧
      (flag s F.perfSampCtlTugEn = false → flag u F.perfSampCtlTugEn = false) ∧
      (flag s F.perfSampCtlCraneEn = false → flag u F.perfSampCtlCraneEn = false) ∧ u.perf = s.perf)) ∧
  (∀ (k : Fin 128) (t : Tid) (word : BitVec 32) (addr : Word) (tier : Nat) (s : State),
    flag s F.perfSampCtlTugEn = true → fget s F.perfSampCtlPeriod ≠ 0 → t.val / 4 = k.val →
    (isJobThread t.val = true ∨ flag s F.perfSampCtlFwIncl = true) → (thread s t.val).st = .run →
    Tab.get 0 s.perf.tugLeft k.val = 0 → tier ≤ 7 →
    ∃ u, exec (.tugSampleSelect k t word addr tier) s = .next u ∧ u.mem = s.mem ∧ u.threads = s.threads ∧
      fget s F.perfSampCtlPeriod ≤ Tab.get 0 u.perf.tugLeft k.val ∧
      (Tab.get none s.perf.tugTag k.val = none → u.fields = s.fields ∧ ∃ g, Tab.get none u.perf.tugTag k.val = some g ∧ g.idx = t.val ∧
        g.pc = (thread s t.val).pc ∧ g.word = word ∧ g.addr = addr ∧ g.tier = tier ∧ g.doneAt = none) ∧
      (∀ g, Tab.get none s.perf.tugTag k.val = some g → Tab.get none u.perf.tugTag k.val = some g ∧ u.perf.lostFlag = true ∧
        fget u F.perfSampHeadLost = min (fget s F.perfSampHeadLost + 1) (2 ^ F.perfSampHeadLost.w - 1))) ∧
  (∀ (c : CraneIx) (q : Queue) (seq : BitVec 32) (w : Word) (s : State), lastAccepted (crane s c.val) q = some (seq, w) →
    flag s F.perfSampCtlCraneEn = true → fget s F.perfSampCtlCranePeriod ≠ 0 → (q = .fg ∨ flag s F.perfSampCtlFwIncl = true) →
    Tab.get 0 s.perf.craneLeft c.val = 0 →
    ∃ u, exec (.craneSampleSelect c q) s = .next u ∧ Tab.get 0 u.perf.craneLeft c.val = fget s F.perfSampCtlCranePeriod ∧
      u.mem = s.mem ∧
      (Tab.get none s.perf.craneTag c.val = none → ∃ g, Tab.get none u.perf.craneTag c.val = some g ∧ g.idx = seq.toNat ∧
        g.addr = w ∧ g.tier = w.toNat / 2 ^ 56 % 64 ∧ g.doneAt = none))
  ) ∧
  (
  (∀ (k : Fin 128) (lat stall : BitVec 32) (fl : BitVec 8) (g : Tag) (s : State), Tab.get none s.perf.tugTag k.val = some g →
    (let a := fget s F.perfSampBaseBase * 4096 + fget s F.perfSampHeadHead % (2 ^ fget s F.perfSampBaseK * 64) * 64
     (ringFull s = false → populatedRange s a 64 = true → ∃ u, exec (.sampleRecordWrite false k.val lat stall fl) s = .next u ∧
       memKept [(a, 64)] s u ∧ memByte u a = 1 ∧ readNat u (a + 2) 2 = k.val ∧ readNat u (a + 4) 4 = g.idx % 2 ^ 32 ∧
       readNat u (a + 8) 8 = s.tide.now % 2 ^ 64 ∧ readNat u (a + 0x10) 8 = g.pc.toNat ∧ readNat u (a + 0x18) 4 = g.word.toNat ∧
       readNat u (a + 0x1C) 4 = lat.toNat ∧ readNat u (a + 0x20) 8 = g.addr.toNat ∧
       fget u F.perfSampHeadHead = (fget s F.perfSampHeadHead + 1) % 2 ^ 32 ∧
       Tab.get none u.perf.tugTag k.val = none ∧ u.perf.lostFlag = false) ∧
     (ringFull s = true → ∃ u, exec (.sampleRecordWrite false k.val lat stall fl) s = .next u ∧ u.mem = s.mem ∧
       Tab.get none u.perf.tugTag k.val = none ∧ u.perf.lostFlag = true ∧
       fget u F.perfSampHeadHead = fget s F.perfSampHeadHead ∧
       fget u F.perfSampHeadLost = min (fget s F.perfSampHeadLost + 1) (2 ^ F.perfSampHeadLost.w - 1)))) ∧
  (∀ (c : CraneIx) (lat stall : BitVec 32) (fl : BitVec 8) (g : Tag) (s : State), Tab.get none s.perf.craneTag c.val = some g →
    (g.doneAt = none → exec (.sampleRecordWrite true c.val lat stall fl) s = .next s) ∧
    (let a := fget s F.perfSampBaseBase * 4096 + fget s F.perfSampHeadHead % (2 ^ fget s F.perfSampBaseK * 64) * 64
     g.doneAt ≠ none → ringFull s = false → populatedRange s a 64 = true →
     ∃ u, exec (.sampleRecordWrite true c.val lat stall fl) s = .next u ∧ memKept [(a, 64)] s u ∧ memByte u a = 2 ∧
       readNat u (a + 2) 2 = c.val ∧ readNat u (a + 0x10) 8 = g.addr.toNat ∧ Tab.get none u.perf.craneTag c.val = none)) ∧
  (∀ (kind : Bool) (k : Nat) (lat stall : BitVec 32) (fl : BitVec 8) (s : State),
    Tab.get none (if kind then s.perf.craneTag else s.perf.tugTag) k = none →
    exec (.sampleRecordWrite kind k lat stall fl) s = .next s)
  )

/-! ### Power, start-up, trust and service -/

/-- Applying and losing power (R421 to R426, R434 to R436, R440, R441, R444): power comes with an input from 48 V to 60 V,
and the phases follow one another at least 1 ms apart as their work is done, S1 starting the Tide at zero and showing the
input; an input outside its range, a tripped converter or a critical temperature is logged and cuts the module, which then
holds nothing but its fuses, its flash and the log of the newest 16 causes, all else as after reset; a reversed input lights
the INPUT lamp; an open sense pin isolates the input, and a draw above 20 W is logged. Faults of temperature and coolant
(R433, R435, Table 16-5): each from its limit on logs its cause, captures it if it is the first, and is module-fatal with
source 0x33; the module stands down at once when it is idle. A warning of the inlet only shows. Below its limit nothing
happens. Stand-down and Ballast (R429, R430, R432, R434): PWR_CMD.standdown acts only in IDLE; the stages leave the phases
in reverse order at least 1 ms apart, the last entering OFF, latched with the SAFE lamp lit; at a slew boundary, once, every
Crane's level moves one step towards its target, outside a hold, and RAMP_UP becomes FLOOR once all have reached the floor.
-/
def Obligations.PowerAndTemperature : Prop :=
  (
  (∀ (v : Nat) (s : State),
    (s.sec.powered = false → s.sec.offLatched = false → 4800 ≤ v → v ≤ 6000 → ∃ u, exec (.powerApply v) s = .next u ∧
      u = { s with sec := u.sec } ∧ u.sec.powered = true ∧ u.sec.phase = 0 ∧ u.sec.inputCv = v ∧ u.sec.blown = s.sec.blown) ∧
    ((s.sec.powered = true ∨ s.sec.offLatched = true ∨ v < 4800 ∨ 6000 < v) → exec (.powerApply v) s = .next s)) ∧
  (∀ s : State, s.sec.powered = true → s.sec.halted = false → pwrState s ≤ 3 →
    (s.sec.phase = 0 → ∃ u, exec .powerPhaseAdvance s = .next u ∧ u.sec.phase = 1 ∧ u.tide = { s.tide with running := true, now := 0 } ∧
      u.fields = (fput s F.pwrInVIn s.sec.inputCv).fields ∧ u.mem = s.mem) ∧
    (1 ≤ s.sec.phase → s.sec.phase < 8 → s.sec.phaseAt + 2400000 ≤ s.perf.tc.toNat →
      (if s.sec.phase ≤ 3 then 1 else 6) ≤ fget s F.secBootStage →
      ∃ u, exec .powerPhaseAdvance s = .next u ∧ u.sec.phase = s.sec.phase + 1 ∧ u.sec.phaseAt = s.perf.tc.toNat ∧ u.tide = s.tide ∧
        u.fields = s.fields ∧ (∀ e ∈ phaseEngines (s.sec.phase + 1), Tab.get false u.sec.enginePower e = true)) ∧
    (1 ≤ s.sec.phase → s.perf.tc.toNat < s.sec.phaseAt + 2400000 → exec .powerPhaseAdvance s = .next s)) ∧
  (∀ s : State, s.sec.powered = true →
    (let lost (cause : Nat) (u : State) : Prop := u.sec.powered = false ∧ u.sec.phase = 0 ∧
       u.sec.faultLog = (cause :: s.sec.faultLog).take 16 ∧ u.sec.flash = s.sec.flash ∧ u.sec.blown = s.sec.blown ∧
       u = { State.reset with pending := s.pending, free := s.free, uid := s.uid, sec := u.sec }
     (∀ v, v < 4600 → ∃ u, exec (.inputUndervoltage v) s = .next u ∧ lost 1 u ∧ u.sec.inputCv = v) ∧
     (∀ v, 4600 ≤ v → exec (.inputUndervoltage v) s = .next s) ∧
     (∀ v b, (6300 ≤ v ∨ (6200 ≤ v ∧ b = true)) → v ≤ 7200 → ∃ u, exec (.inputOvervoltage v b) s = .next u ∧ lost 2 u) ∧
     (∀ v b, (v < 6200 ∨ (v < 6300 ∧ b = false)) → exec (.inputOvervoltage v b) s = .next s) ∧
     (∃ u, exec .railShort s = .next u ∧ lost 4 u) ∧
     (∀ d c, s.tide.running = true → 110 ≤ c → ∃ u, exec (.dieCriticalTemp d c) s = .next u ∧ lost 9 u) ∧
     (∀ d c, c < 110 → exec (.dieCriticalTemp d c) s = .next s) ∧
     (∀ w, 20 < w → ∃ u, exec (.sensePinOpen w) s = .next u ∧ lost 5 u ∧ u.sec.senseClosed = false ∧ u.sec.offLatched = false) ∧
     (∀ w, w ≤ 20 → ∃ u, exec (.sensePinOpen w) s = .next u ∧ u.sec.powered = false ∧ u.sec.senseClosed = false ∧
       u.sec.faultLog = s.sec.faultLog ∧ u.mem = [] ∧ u.fields = []))) ∧
  (∀ (v : Nat) (s : State), v ≤ 6000 → ∃ u, exec (.reversePolarity v) s = .next u ∧ u.sec.lampInput = true ∧
    u.sec.powered = false ∧ u.sec.faultLog = (3 :: s.sec.faultLog).take 16)
  ) ∧
  (
  ∀ s : State, s.tide.running = true →
    (let fault (cause die : Nat) (u : State) : Prop :=
       u.sec.faultLog = (cause :: s.sec.faultLog).take 16 ∧ u.sec.faultDown = true ∧
       (flag s F.pwrFaultValid = false → flag u F.pwrFaultValid = true ∧ fget u F.pwrFaultCause = cause) ∧
       (flag s F.errFirstValid = false → fget u F.errFirstSource = 0x33 ∧ fget u F.errFirstDie = die) ∧
       (pwrState s = 0 → pwrState u = 4) ∧ (jobLive s = true → u.job.st = 6 ∧ u.job.endCause = 6) ∧
       (jobLive s = false → pwrState s = 2 → pwrState u = 3)
     (∀ (d : Die) c, 100 ≤ c → ∃ u, exec (.dieOvertemp d c) s = .next u ∧ fault 6 d.val u) ∧
     (∀ (d : Die) c, c < 100 → exec (.dieOvertemp d c) s = .next s) ∧
     (∀ f, f < 160 → ∃ u, exec (.coolantFlowLow f) s = .next u ∧ fault 7 0 u) ∧
     (∀ f, 160 ≤ f → exec (.coolantFlowLow f) s = .next s) ∧
     (∀ c, 50 < c → ∃ u, exec (.coolantInletHigh c) s = .next u ∧ fault 8 0 u ∧ flag u F.pwrThermWarn = true) ∧
     (∀ c, c ≤ 50 → exec (.coolantInletHigh c) s = .next s) ∧
     (∀ c, 45 < c → exec (.thermalWarning c) s = .next (fput (fput s F.pwrThermInletC c) F.pwrThermWarn 1)) ∧
     (∀ c, c ≤ 45 → exec (.thermalWarning c) s = .next s))
  ) ∧
  (
  (∀ s : State,
    (pwrState s = 0 → exec .pwrStanddown s = .next (setPwr (fput s F.pwrCmdStanddown 1) 4)) ∧
    (pwrState s ≠ 0 → exec .pwrStanddown s = .next (fput s F.pwrCmdStanddown 1))) ∧
  (∀ s : State,
    (pwrState s = 4 → s.sec.phaseAt + 2400000 ≤ s.perf.tc.toNat →
      (s.sec.phase ≤ 1 → ∃ u, exec .standdownStage s = .next u ∧ pwrState u = 5 ∧ u.sec.offLatched = true ∧ u.sec.lampSafe = true ∧
        u.sec.powered = false ∧ u.sec.flash = s.sec.flash ∧ u.mem = [] ∧ u.tide.running = false) ∧
      (2 ≤ s.sec.phase → jobLive s = false → ∃ u, exec .standdownStage s = .next u ∧ u.sec.phase = s.sec.phase - 1 ∧
        u.sec.phaseAt = s.perf.tc.toNat ∧ pwrState u = 4 ∧ u.mem = s.mem ∧
        (∀ e ∈ phaseEngines s.sec.phase, Tab.get false u.sec.enginePower e = false))) ∧
    ((pwrState s ≠ 4 ∨ s.perf.tc.toNat < s.sec.phaseAt + 2400000) → exec .standdownStage s = .next s)) ∧
  (∀ s : State, s.tide.running = true → s.tide.now % (fget s F.pwrRampStepUs * 1000) = 0 → pwrState s < 4 →
    s.sec.lastSlew ≠ some s.tide.now →
    ∃ u, exec .ballastSlewBoundary s = .next u ∧ u.threads = s.threads ∧ u.tide = s.tide ∧
      (s.svc.engineOut = none → s.job.ramping = false → u.mem = s.mem ∧ u.job = s.job) ∧
      (pwrState s = 1 → pwrState u = 2 → s.job.ramping = true → u.job.st = 2 ∧ u.job.result = 0 ∧ u.job.cmd = none) ∧
      (∀ c, c < 16 →
        (let x := (crane s c).level
         let y := (crane u c).level
         (inHold s = true → y = x) ∧
         (inHold s = false → (x < levelTarget s c → y = x + 1) ∧ (levelTarget s c < x → y = x - 1) ∧ (x = levelTarget s c → y = x)))) ∧
      (pwrState s = 1 → pwrState u = if (List.range 16).all (fun c => decide (fget s F.pwrRampFloor ≤ (crane u c).level)) then 2 else 1) ∧
      (pwrState s = 0 → pwrState u = 0) ∧ exec .ballastSlewBoundary u = .next u) ∧
  (∀ s : State, s.sec.lastSlew = some s.tide.now → exec .ballastSlewBoundary s = .next s) ∧
  (∀ (s : State) (c : Nat), pwrState s = 1 ∨ pwrState s = 2 → (crane s c).bgLast = none →
    levelTarget s c = if (crane s c).ballastLast.isSome then max (fget s F.pwrRampFloor) (crane s c).ballast else fget s F.pwrRampFloor)
  )

/-- Start-up (R442, R443, R446 to R452, R455 to R460, Table 17-4): each stage does its work and gives way to the next, or
halts the module with its code and the FAULT lamp: 3 when a GDDR7 device is missing, 5 when a die lacks the counts of its
table, 6 for the identity, 1 for the runtime, 2 when a bundle verifies but is below the fuses. A ROM core that fails its
test gives way to the next, at most three times. Measurements and fuses (R449, R450): an extension of M_k replaces it by the
digest of its old value and the digest given; after the first launch commit of an advancing bundle the fuses reach its svn,
once. -/
def Obligations.StartUpAndMeasurements : Prop :=
  (
  (∀ s : State, s.tide.running = true → s.sec.halted = false → fget s F.secBootStage = 0 →
    (fget s F.secBootRomTug < 3 → exec .romCoreTestTimeout s = .next (fput s F.secBootRomTug (fget s F.secBootRomTug + 1))) ∧
    (3 ≤ fget s F.secBootRomTug → ∃ u, exec .romCoreTestTimeout s = .next u ∧ u.sec.halted = true ∧ fget u F.secBootFail = 8)) ∧
  (∀ (o : BootObs) (s : State), s.tide.running = true → s.sec.halted = false → pwrState s < 4 → 1 ≤ s.sec.phase →
    (let stage := fget s F.secBootStage
     let failed (u : State) (code : Nat) : Prop := u.sec.halted = true ∧ u.sec.lampFault = true ∧ fget u F.secBootFail = code ∧ u.mem = s.mem
     (stage = 0 → ∃ u, exec (.bootStage o) s = .next u ∧ u.mem = s.mem ∧
       (∀ b, bankAccepted s b = true → (b = firstBank s ∨ bankAccepted s (firstBank s) = false) → fget u F.secBootStage = 1 ∧
         flag u F.secBootBank = b ∧ flag u F.secBootFallback = decide (b ≠ firstBank s) ∧
         u.sec.running = some (toBundle (flashBundle s b) b)) ∧
       (bankAccepted s false = false → bankAccepted s true = false →
         failed u (if bundleVerified (flashBundle s false) || bundleVerified (flashBundle s true) then 2 else 1))) ∧
     (stage = 1 → 4 ≤ s.sec.phase → ∃ u, exec (.bootStage o) s = .next u ∧
       (o.gddr0 = 18 → o.gddr1 = 18 → fget u F.secBootStage = 2 ∧ u.sec = s.sec) ∧
       ((o.gddr0 ≠ 18 ∨ o.gddr1 ≠ 18) → failed u 3)) ∧
     (stage = 2 → 4 ≤ s.sec.phase → ∃ u, exec (.bootStage o) s = .next u ∧
       (overSpare (combined o.engines (acceptedRecords s)) = true → failed u 4 ∧ u.hold = s.hold) ∧
       (overSpare (combined o.engines (acceptedRecords s)) = false → fget u F.secBootStage = 3 ∧
         fget u F.secRepairApplied = (acceptedRecords s).length % 2 ^ F.secRepairApplied.w)) ∧
     (stage = 3 → 4 ≤ s.sec.phase → ∃ u, exec (.bootStage o) s = .next u ∧
       (let t := o.faults.foldl applyEntry (writeRepair s o.faults true)
        (countsMet t 0 = true → countsMet t 1 = true → fget u F.secBootStage = 4) ∧
        ((countsMet t 0 = false ∨ countsMet t 1 = false) → failed u 5))) ∧
     (stage = 4 → 4 ≤ s.sec.phase → ∃ u, exec (.bootStage o) s = .next u ∧ u.sec.identKey = identityKey ∧
       (identityOk { s with sec := { s.sec with identKey := identityKey } } = true → fget u F.secBootStage = 5) ∧
       (identityOk { s with sec := { s.sec with identKey := identityKey } } = false → failed u 6)) ∧
     (∀ b, stage = 5 → 4 ≤ s.sec.phase → s.sec.running = some b →
       ∃ u, exec (.bootStage o) s = .next u ∧
         (runtimeOk (flashBundle s b.bank) = true → fget u F.secBootStage = 6 ∧ fget u F.secArbSvn = b.svn % 2 ^ F.secArbSvn.w ∧
           (∀ t, t ∈ [0, 1, 2, 3, 256, 257, 258, 259] →
             (thread u t).fw = true ∧ (thread u t).st = (if t = 0 ∨ t = 256 then .run else .ready))) ∧
         (runtimeOk (flashBundle s b.bank) = false → failed u 1)) ∧
     (stage = 6 → 8 ≤ s.sec.phase → ∃ u, exec (.bootStage o) s = .next u ∧ fget u F.secBootStage = 7 ∧
       memKept [(launchArea, 0x10000)] s u ∧ readBytes u statusPage 41 = statusBytes s.job ∧
       (hallForm (flashBytes s configArea 288) = false → u.stage = s.stage)))) ∧
  (∀ (s : State) (e : RepairEntry),
    (applyEntry s e).sec.repairs = if s.sec.repairs.contains e then s.sec.repairs else s.sec.repairs ++ [e]) ∧
  (∀ (s : State) (d : Nat), countsMet s d = true ↔
    (let left (kind u : Nat) := (s.sec.repairs.filter (fun e => decide (e.kind = kind ∧ e.die = d ∧ e.unit = u))).length
     64 ≤ ((List.range 68).filter (fun p => decide (left 4 p = 0))).length ∧
     (∀ u, u < 8 → left 1 u ≤ 1 ∧ left 2 u ≤ 1) ∧ (∀ u, u < 64 → left 3 u ≤ 1344))) ∧
  (∀ (o : BootObs) (s : State), (s.tide.running = false ∨ s.sec.halted = true ∨ 7 ≤ fget s F.secBootStage) →
    exec (.bootStage o) s = .next s)
  ) ∧
  (
  (∀ (k : Fin 4) (s : State), ∃ u, exec (.secExtGo k) s = .next u ∧ fget u F.secExtGoIndex = k.val ∧
    measBytes u k.val = digest (measBytes s k.val ++ (List.range 4).flatMap (fun w => bytesOfNat 8 (fget s (F.secExtDataD w)))) ∧
    (∀ j, j < 4 → j ≠ k.val → measBytes u j = measBytes s j) ∧ u.mem = s.mem ∧ u.sec = s.sec) ∧
  (∀ (b : Bundle) (s : State), s.sec.running = some b →
    (s.sec.advancePending = true → b.advance = true → fuseCount s < b.svn → ∃ u, exec .fuseAdvance s = .next u ∧
      fuseCount u = b.svn ∧ u.sec.advancePending = false ∧ u = { s with sec := u.sec }) ∧
    ((s.sec.advancePending = false ∨ b.advance = false ∨ b.svn ≤ fuseCount s) → exec .fuseAdvance s = .next s))
  )

/-- Service commands (R459 to R463, Tables 17-9 and 17-10): HALL checks the address, the digest and the form of its record
before it commits it; ATTEST and FWUPDATE check their lengths and addresses and then ask the signing engine; DRAIN checks
that the image has the pair, and DRAIN_ARM arms the groups that passed; STANDDOWN answers and stands down. A command that is
not being carried out does nothing. The signing engine and firmware activation (R453, R454, R463 to R465): the engine
completes its requests in order: a report is written where ATTEST asked, a bundle that does not verify answers 5 and one
below the fuses 6, a flash write changes the bytes it names; a bundle in wait becomes the running one at slot 0 at or after
its instant, or once no job is live. Optical engines (R466 to R468): ENGINE_OUT needs a known engine whose ports are all
DISABLED, waits until its optics are dark, and then cuts its power and lights its lamp; ENGINE_IN with a failed calibration
answers 0xA and otherwise darkens the lamp, powers the engine and enables its ports again; a latch opened with the lamp dark
takes the power and the links at once. -/
def Obligations.ServiceCommandsAndEngines : Prop :=
  (
  (∀ s : State,
    (let a := at_ s.svc.page 0x10 8
     let len := at_ s.svc.page 0x18 8
     let arg := at_ s.svc.page 0x28 8
     let answered (u : State) (result : Nat) : Prop := u.svc.result = result ∧ u.svc.req = none ∧ u.svc.doneAt = s.tide.now ∧
       u.svc.acked = BitVec.ofNat 32 (at_ s.svc.page 8 4)
     (s.svc.req = some 1 →
       (svcAddrOk s a 288 = false → ∃ u, exec .hall s = .next u ∧ answered u 4 ∧ u.sec = s.sec) ∧
       (svcAddrOk s a 288 = true → digest (readBytes s a 288) ≠ (s.svc.page.drop 0x30).take 32 →
         ∃ u, exec .hall s = .next u ∧ answered u 2 ∧ u.sec = s.sec) ∧
       (svcAddrOk s a 288 = true → digest (readBytes s a 288) = (s.svc.page.drop 0x30).take 32 →
         ∃ u, exec .hall s = .next u ∧ u.svc.req = none ∧
           (hallForm (readBytes s a 288) = false → answered u 1 ∧ u.sec = s.sec) ∧
           (hallForm (readBytes s a 288) = true → (commitHall s (readBytes s a 288)).2 = 0 → u.svc.result = 0 ∧
             u.sec.engine = s.sec.engine ++ [.flashWrite configArea (readBytes s a 288)]) ∧
           (hallForm (readBytes s a 288) = true → (commitHall s (readBytes s a 288)).2 ≠ 0 → u.svc.result = 8 ∧
             u.sec.engine = s.sec.engine))) ∧
     (s.svc.req = some 2 → s.sec.engine = [] →
       (len < 30304 → ∃ u, exec .attest s = .next u ∧ answered u 1) ∧
       (30304 ≤ len → svcAddrOk s a len = false → ∃ u, exec .attest s = .next u ∧ answered u 4) ∧
       (30304 ≤ len → svcAddrOk s a len = true → exec .attest s = .next (setSec s { s.sec with
         engine := [.attest a ((s.svc.page.drop 0x30).take 32)] }))) ∧
     (s.svc.req = some 3 → s.sec.engine = [] →
       ((len < 0x8000 ∨ 0x3000000 < len) → ∃ u, exec .fwupdate s = .next u ∧ answered u 1) ∧
       (0x8000 ≤ len → len ≤ 0x3000000 → svcAddrOk s a len = false → ∃ u, exec .fwupdate s = .next u ∧ answered u 4) ∧
       (0x8000 ≤ len → len ≤ 0x3000000 → svcAddrOk s a len = true → exec .fwupdate s = .next (setSec s { s.sec with
         received := readBytes s a len, engine := [.verify] }))) ∧
     (s.svc.req = some 4 →
       (arg ≠ 0xFE → (sect s s.job.image 3).1 ≤ arg → ∃ u, exec .svcDrain s = .next u ∧ answered u 1 ∧ u.stage = s.stage) ∧
       ((arg = 0xFE ∨ arg < (sect s s.job.image 3).1) →
         ∃ u, exec .svcDrain s = .next u ∧ u.svc.req = none ∧
           (stageState (stageDrain s arg) = 2 → u.svc.result = 0 ∧ u.svc.drainPass = true ∧ stageState u = 2) ∧
           (stageState (stageDrain s arg) ≠ 2 → u.svc.result = 8 ∧ u.svc.drainPass = s.svc.drainPass))) ∧
     (s.svc.req = some 5 → stageState s = 2 → ownedBy s .fw = true → inPass s 1 = true →
       (let instant := at_ s.svc.page 0x20 8
        (instant % 16384 = 0 → s.tide.now + 16384 ≤ instant → ∃ u, exec .drainArm s = .next u ∧ answered u 0 ∧ stageState u = 4 ∧
          u.svc.drainPass = false ∧ fget u F.tideCommitAtCommitNs = instant ∧ u.svc.savedEn = s.svc.savedEn ++ drainedPorts s) ∧
        ((instant % 16384 ≠ 0 ∨ instant < s.tide.now + 16384) → ∃ u, exec .drainArm s = .next u ∧ answered u 8 ∧
          u.svc.detail = 8 ∧ stageState u = 2 ∧ u.svc.savedEn = s.svc.savedEn))) ∧
     (s.svc.req = some 8 → ∃ u, exec .standdown s = .next u ∧ answered u 0 ∧ pwrState u = 4) ∧
     (s.svc.req = none → exec .hall s = .next s ∧ exec .attest s = .next s ∧ exec .fwupdate s = .next s ∧ exec .svcDrain s = .next s ∧
       exec .drainArm s = .next s ∧ exec .standdown s = .next s ∧ exec .engineOut s = .next s ∧
       ∀ w b, exec (.engineIn w b) s = .next s)))
  ) ∧
  (
  (∀ s : State, s.sec.engine = [] → exec .signingEngineRequestComplete s = .next s) ∧
  (∀ (rest : List EngineReq) (s : State),
    (∀ a nonce, s.sec.engine = .attest a nonce :: rest → ∃ u, exec .signingEngineRequestComplete s = .next u ∧ u.svc.result = 0 ∧
      u.svc.req = none ∧ u.sec.engine = rest ∧
      ((a + 30304 ≤ statusPage + 0x400 ∨ statusPage + 0x430 ≤ a) → readNat u a 4 = 0x54415859 ∧
        readNat u (a + 8) 8 = Config.serial.toNat ∧ readNat u (a + 16) 8 = s.tide.now % 2 ^ 64)) ∧
    (s.sec.engine = .verify :: rest →
      (let b := listImage s.sec.received
       let ok := bundleVerified b && runtimeOk b && decide (digest (imBytes b 0x70 64) = digest s.sec.rootKey)
       ∃ u, exec .signingEngineRequestComplete s = .next u ∧
         (ok = false → u.svc.result = 5 ∧ u.sec.engine = rest) ∧
         (ok = true → bundleFused s b = false → u.svc.result = 6 ∧ u.sec.engine = rest) ∧
         (ok = true → bundleFused s b = true → u.svc = s.svc ∧
           u.sec.engine = rest ++ [.flashWrite (bankBase (otherBank s)) (reseq s), .flashRead]))) ∧
    (∀ a bs, s.sec.engine = .flashWrite a bs :: rest → ∃ u, exec .signingEngineRequestComplete s = .next u ∧ u.sec.engine = rest ∧
      u.mem = s.mem ∧ (∀ i, i < bs.length → flashByte u (a + i) = bs.getD i 0) ∧
      (∀ x, (x < a ∨ a + bs.length ≤ x) → flashByte u x = flashByte s x)) ∧
    (s.sec.engine = .flashRead :: rest →
      (let b := toBundle (listImage (reseq s)) (otherBank s)
       let eligible := b.inService && decide (runningOf s (fun r => r.rcompat.toNat) = b.rcompat.toNat)
       let back := flashBytes s (bankBase (otherBank s)) s.sec.received.length
       ∃ u, exec .signingEngineRequestComplete s = .next u ∧ u.sec.engine = rest ∧
         (back ≠ reseq s → u.svc.result = 5 ∧ u.sec.running = s.sec.running) ∧
         (back = reseq s → eligible = false → u.svc.result = 7 ∧ u.sec.running = s.sec.running) ∧
         (back = reseq s → eligible = true → jobLive s = true → u.svc.result = 0xB ∧ u.sec.running = s.sec.running ∧
           u.sec.pending = some (b, BitVec.ofNat 64 (at_ s.svc.page 0x20 8))) ∧
         (back = reseq s → eligible = true → jobLive s = false → u.svc.result = 0 ∧ u.sec.running = some b)))) ∧
  (∀ (b : Bundle) (t : Word) (s : State), s.sec.pending = some (b, t) →
    ((jobLive s = false ∨ (fget s F.tideSchedSlot = 0 ∧ s.tide.lastBoundary = some s.tide.now ∧ t.toNat ≤ s.tide.now)) →
      ∃ u, exec .firmwareActivation s = .next u ∧ u.sec.running = some b ∧ u.sec.pending = none ∧
        fget u F.secArbSvn = b.svn % 2 ^ F.secArbSvn.w ∧ (s.svc.result = 0xB → u.svc.result = 0)) ∧
    (jobLive s = true → (fget s F.tideSchedSlot ≠ 0 ∨ s.tide.now < t.toNat) → exec .firmwareActivation s = .next s))
  ) ∧
  (
  (∀ s : State,
    (let e := at_ s.svc.page 0x28 8
     (s.svc.req = some 6 → s.svc.engineOut = none →
       (8 ≤ e → ∃ u, exec .engineOut s = .next u ∧ u.svc.result = 1 ∧ u.svc.req = none) ∧
       (e < 8 → (∃ k, k < 4 ∧ portState s (4 * e + k) ≠ 6) → ∃ u, exec .engineOut s = .next u ∧ u.svc.result = 9 ∧ u.svc.req = none ∧
         u.sec = s.sec) ∧
       (e < 8 → (∀ k, k < 4 → portState s (4 * e + k) = 6) → (∃ k, k < 4 ∧ (port s (4 * e + k)).lit = true) →
         exec .engineOut s = .next (setSvc s { s.svc with engineOut := some e })) ∧
       (e < 8 → (∀ k, k < 4 → portState s (4 * e + k) = 6 ∧ (port s (4 * e + k)).lit = false) →
         ∃ u, exec .engineOut s = .next u ∧ u.svc.result = 0 ∧ u.svc.req = none ∧ u.svc.engineOut = none ∧
           Tab.get false u.sec.enginePower e = false ∧ Tab.get false u.sec.lampService e = true)) ∧
     (s.svc.req = some 7 → stageState s ≠ 1 → stageState s ≠ 4 → ∀ w : Word,
       (8 ≤ e → ∀ ok, ∃ u, exec (.engineIn w ok) s = .next u ∧ u.svc.result = 1 ∧ u.svc.req = none) ∧
       (e < 8 → ∃ u, exec (.engineIn w false) s = .next u ∧ u.svc.result = 0xA ∧ u.svc.req = none ∧ u.sec = s.sec) ∧
       (e < 8 → ∃ u, exec (.engineIn w true) s = .next u ∧ (u.svc.result = 0 ∨ u.svc.result = 8) ∧ u.svc.req = none ∧
         Tab.get 0 u.sec.engineSerial e = w ∧ Tab.get false u.sec.enginePower e = true ∧ Tab.get false u.sec.lampService e = false)))) ∧
  (∀ (e : Fin 8) (s : State), Tab.get false s.sec.enginePower e.val = true →
    (Tab.get false s.sec.lampService e.val = false → ∃ u, exec (.engineLatchOpen e) s = .next u ∧
      Tab.get false u.sec.enginePower e.val = false ∧
      ∀ k, k < 4 → portState u (4 * e.val + k) = (if portState s (4 * e.val + k) = 6 then 6 else 0) ∧
        (port u (4 * e.val + k)).lit = false) ∧
    (Tab.get false s.sec.lampService e.val = true → exec (.engineLatchOpen e) s = .next s))
  )

/-! ### The host link and the Warehouse -/

/-- The host's accesses of the Hold (R357, R360, R361, R381): through the committed decoder, one outside the reserved areas,
or inside those pages that the host may use, acts on the Hold and nothing else, a read after the errors of memory that it
meets; a denied one reads as zero or is ignored, and is counted; a write that is not poisoned clears the poison of the lines
it replaces whole, and a poisoned one poisons every line it touches. Without a committed decoder nothing happens. The
mailbox (Table 13-1; codes and layouts of CXL 2.0, assumption 16): while firmware runs, each command of the table completes
with success and its data, the timestamp being the one set, and every other opcode with Unsupported; no memory and no
register changes. Values that the manual does not state are free: only the lengths of such data are said. -/
def Obligations.HostAccessesAndMailbox : Prop :=
  (
  (∀ (base : BitVec 52) (s : State),
    (∃ u, exec (.hdmDecoderCommit base) s = .next u ∧ u.host = { s.host with hdm := some base.toNat } ∧
      flag u F.modHostlinkHdmCommitted = true ∧ u.mem = s.mem) ∧
    (∃ u, exec .hostLinkReset s = .next u ∧ u.host = { s.host with hdm := none } ∧ flag u F.modHostlinkHdmCommitted = false ∧
      fget u F.modHostlinkResets = min (fget s F.modHostlinkResets + 1) (2 ^ F.modHostlinkResets.w - 1) ∧ u.mem = s.mem)) ∧
  (∀ (hpa : BitVec 52) (n : Nat) (errs : List MemErr) (data : List Byte) (p : Bool) (s : State), s.host.hdm = none →
    exec (.hostMemRead hpa n errs) s = .next s ∧ exec (.hostMemWrite hpa data p) s = .next s) ∧
  (∀ (hpa : BitVec 52) (h n : Nat) (errs : List MemErr) (s : State), s.host.hdm = some h → s.tide.running = true → h ≤ hpa.toNat → 0 < n →
    hpa.toNat + n ≤ h + 0x2400000000 →
    (let a := 0x010000000000 + (hpa.toNat - h)
     (touchesReserved a n = false ∨ (launchArea ≤ a ∧ a + n ≤ launchArea + 0x10000) →
       (let t := meetErrors s errs
        ∃ u, exec (.hostMemRead hpa n errs) s = .next u ∧ u.mem = s.mem ∧ u.fields = t.fields ∧
          u.host.readPoison = poisonedRange t a n ∧ (poisonedRange t a n = false → u.host.readData = readBytes s a n))) ∧
     (errs = [] → meetErrors s errs = s) ∧
     (touchesReserved a n = true → ¬(launchArea ≤ a ∧ a + n ≤ launchArea + 0x10000) →
       ∃ u, exec (.hostMemRead hpa n errs) s = .next u ∧ u.mem = s.mem ∧ u.host.readData = List.replicate n 0#8 ∧
         fget u F.errNowinHostDenied = min (fget s F.errNowinHostDenied + 1) (2 ^ F.errNowinHostDenied.w - 1)))) ∧
  (∀ (hpa : BitVec 52) (h : Nat) (data : List Byte) (p : Bool) (s : State), s.host.hdm = some h → s.tide.running = true →
    h ≤ hpa.toNat → 0 < data.length → hpa.toNat + data.length ≤ h + 0x2400000000 →
    (let n := data.length
     let a := 0x010000000000 + (hpa.toNat - h)
     let allowed := touchesReserved a n = false ∨ (launchArea ≤ a ∧ a + n ≤ launchArea + 0x1000) ∨
       (switchPage ≤ a ∧ a + n ≤ switchPage + 0x1000)
     (allowed → ∃ u, exec (.hostMemWrite hpa data p) s = .next u ∧ memKept [(a, n)] s u ∧ u.fields = s.fields ∧ u.threads = s.threads ∧
       (∀ i, i < n → memByte u (a + i) = data.getD i 0) ∧
       (∀ l, Tab.get false u.poison l = if p then (Tab.get false s.poison l || decide (l * 128 < a + n ∧ a < l * 128 + 128))
         else (Tab.get false s.poison l && !decide (a ≤ l * 128 ∧ l * 128 + 128 ≤ a + n)))) ∧
     (¬allowed → ∃ u, exec (.hostMemWrite hpa data p) s = .next u ∧ u.mem = s.mem ∧ u.poison = s.poison ∧ u.host = s.host ∧
       fget u F.errNowinHostDenied = min (fget s F.errNowinHostDenied + 1) (2 ^ F.errNowinHostDenied.w - 1))))
  ) ∧
  (
  ∀ s : State,
    (let answer (c : Instr) (code n : Nat) (u : State) : Prop := exec c s = .next u ∧ u.host.mboxCode = code ∧
       u.host.mboxData.length = n ∧ u = { s with free := u.free, host := u.host } ∧ u.host.hdm = s.host.hdm
     (firmwareUp s = true →
       (∃ u, answer .identifyMemoryDevice 0 67 u ∧ natOfBytes ((u.host.mboxData.drop 16).take 8) = 576 ∧
         natOfBytes ((u.host.mboxData.drop 24).take 8) = 576 ∧ natOfBytes ((u.host.mboxData.drop 32).take 8) = 0) ∧
       (∃ u, answer .getSupportedLogs 0 28 u ∧ natOfBytes (u.host.mboxData.take 2) = 1) ∧
       (∃ u, answer .getLog 0 32 u ∧ ∀ i, i < 8 → natOfBytes ((u.host.mboxData.drop (4 * i)).take 2) = mailboxOpcodes.getD i 0) ∧
       (∃ u, answer .getHealthInfo 0 18 u) ∧ (∃ u, answer .getEventRecords 0 32 u) ∧ (∃ u, answer .clearEventRecords 0 0 u) ∧
       (∃ u, answer .getTimestamp 0 8 u ∧ natOfBytes u.host.mboxData = s.host.timestamp.toNat ∧ u.host.timestamp = s.host.timestamp) ∧
       (∀ ts, ∃ u, answer (.setTimestamp ts) 0 0 u ∧ u.host.timestamp = ts) ∧
       (∀ op : BitVec 16, mailboxOpcodes.contains op.toNat = false → ∃ u, answer (.unsupportedMailboxCommand op) 3 0 u)) ∧
     (firmwareUp s = false → ∀ c ∈ [Instr.identifyMemoryDevice, .getSupportedLogs, .getLog, .getHealthInfo, .getEventRecords,
       .clearEventRecords, .getTimestamp], exec c s = .next s) ∧
     (∀ op : BitVec 16, firmwareUp s = false ∨ mailboxOpcodes.contains op.toNat = true →
       exec (.unsupportedMailboxCommand op) s = .next s) ∧
     (firmwareUp s = false → ∀ ts, exec (.setTimestamp ts) s = .next s))
  )

/-- Warehouse ports (R280, R281, R372 to R374, R472, Table 13-10): during start-up a port is reported with the first reason
for which it is not used, or in use; the map is of four ports, of ports 0 and 2, or none, with the smallest capacity in use
and at most 2,048 GiB; a port in use that fails makes its lines poison and is module-fatal with source 0x31. -/
def Obligations.WarehousePortsQualifyAndFail : Prop :=
  (∀ (p : Fin 4) (o : ExpanderObs) (s : State),
    (let d := p.val / 2
     let n := p.val % 2
     let reason := if o.l0In100ms = false then 1 else if o.width ≠ 16 ∨ o.speed ≠ 3 then 2 else if o.isCxl = false then 3
       else if o.sldType3 = false then 4 else if o.capGib < 1 then 5 else 0
     (5 ≤ s.sec.phase → bootStageOf s < 7 → s.sec.halted = false →
       ∃ u, exec (.warehousePortQualify p o) s = .next u ∧ fget u (F.whsePortReject d n) = reason ∧
         fget u (F.whsePortState d n) = (if reason = 0 then 2 else 3) ∧ u.mem = s.mem ∧ u.threads = s.threads ∧
         (∀ q, q < 4 → q ≠ p.val → fget u (F.whsePortState (q / 2) (q % 2)) = fget s (F.whsePortState (q / 2) (q % 2))) ∧
         (let used (q : Nat) := fget u (F.whsePortState (q / 2) (q % 2)) = 2
          let cap (q : Nat) := fget u (F.whsePortCapGib (q / 2) (q % 2))
          let w := fget u (F.whseMapW 0)
          w = (if used 0 ∧ used 1 ∧ used 2 ∧ used 3 then 4 else if used 0 ∧ used 2 then 2 else 0) ∧
          fget u (F.whseMapW 1) = w ∧ fget u (F.whseMapCGib 1) = fget u (F.whseMapCGib 0) ∧
          (w = 4 → fget u (F.whseMapCGib 0) = min (min (min (min (cap 0) 2048) (cap 1)) (cap 2)) (cap 3)) ∧
          (w = 2 → fget u (F.whseMapCGib 0) = min (min (cap 0) 2048) (cap 2)) ∧ (w = 0 → fget u (F.whseMapCGib 0) = 0))) ∧
     ((s.sec.phase < 5 ∨ 7 ≤ bootStageOf s ∨ s.sec.halted = true) → exec (.warehousePortQualify p o) s = .next s))) ∧
  (∀ (p : Fin 4) (s : State),
    (let f := F.whsePortState (p.val / 2) (p.val % 2)
     (fget s f = 2 → exec (.warehouseLinkFailure p) s = .next (fatal (fput s f 4) 0x31 (p.val / 2) (p.val % 2)) ∧
       ∀ a, windowOf a = .whse → whsePortOf s a = p.val → poisoned (fput s f 4) a = true) ∧
     (fget s f ≠ 2 → exec (.warehouseLinkFailure p) s = .next s)))

end
end

