-- ==== Sys2Proof/Laws/Shake.lean ====
section
/-! SUPPORT. The lengths of what SHAKE256 gives, and reading back a number written little-endian. -/

namespace Sys2Proof.Machine

@[simp] theorem lanes_length (f : Nat → Nat → Word) : (lanes f).length = 25 := by simp [lanes]

theorem keccakRound_length (a : List Word) (rc : Word) : (keccakRound a rc).length = 25 := by
  unfold keccakRound
  dsimp only
  split
  · rename_i h
    simpa using congrArg List.length h
  · rename_i l rest h
    simpa using congrArg List.length h

theorem keccakRounds_length (cs : List Word) (a : List Word) (h : a.length = 25) : (cs.foldl keccakRound a).length = 25 := by
  induction cs generalizing a with
  | nil => exact h
  | cons c cs ih => exact ih _ (keccakRound_length a c)

theorem absorbAll_length (n : Nat) (a : List Word) (m : List Byte) (h : a.length = 25) : (absorbAll n a m).length = 25 := by
  induction n generalizing a m with
  | zero => exact h
  | succ n ih => exact ih _ _ (keccakRounds_length _ _ (lanes_length _))

@[simp] theorem bytesOfNat_length (n v : Nat) : (bytesOfNat n v).length = n := by
  induction n generalizing v with
  | zero => rfl
  | succ n ih => simp [bytesOfNat, ih]

/-- Up to the rate, SHAKE256 gives as many bytes as were asked for. -/
theorem shake256_length (n : Nat) (m : List Byte) (h : n ≤ shakeRate) : (shake256 n m).length = n := by
  have hs := absorbAll_length ((shakePad m).length / shakeRate) (List.replicate 25 0#64) (shakePad m) (by simp)
  simp only [shake256, List.length_take, List.length_flatMap, bytesOfNat_length]
  simp only [List.map_const', List.sum_replicate_nat, List.length_take, hs]
  simp only [shakeRate] at h
  omega

@[simp] theorem digest_length (m : List Byte) : (digest m).length = 32 := shake256_length 32 m (by decide)

/-- The little-endian bytes of the number that bytes spell are those bytes. -/
theorem bytesOfNat_natOfBytes (l : List Byte) : bytesOfNat l.length (natOfBytes l) = l := by
  induction l with
  | nil => rfl
  | cons b l ih =>
    have hb := b.isLt
    have h1 : (b.toNat + 256 * natOfBytes l) / 256 = natOfBytes l := by omega
    have h2 : BitVec.ofNat 8 (b.toNat + 256 * natOfBytes l) = b := by
      apply BitVec.eq_of_toNat_eq
      simp only [BitVec.toNat_ofNat]
      omega
    simp [bytesOfNat, natOfBytes, h1, h2, ih]

end Sys2Proof.Machine
end

