-- ==== Sys2Proof/Laws/Ops.lean ====
section
/-! SUPPORT. What the shared operations do, each said once: reading back what was written, the poison of lines, counters and
flags, the status page, the consumption of poison, and the recording of fatal events. -/

namespace Sys2Proof.Machine

/-! Memory. -/

@[simp] theorem readBytes_length (s : State) (a n : Nat) : (readBytes s a n).length = n := by simp [readBytes]

/-- Bytes that agree read alike. -/
theorem readBytes_congr {s u : State} {a n : Nat} (h : ∀ b, a ≤ b → b < a + n → memByte u b = memByte s b) :
    readBytes u a n = readBytes s a n := by
  simp only [readBytes]
  apply List.map_congr_left
  intro i hi
  have := List.mem_range.1 hi
  exact h _ (by omega) (by omega)

theorem readNat_congr {s u : State} {a n : Nat} (h : ∀ b, a ≤ b → b < a + n → memByte u b = memByte s b) :
    readNat u a n = readNat s a n := by rw [readNat, readNat, readBytes_congr h]

/-- Bytes written read back. -/
theorem readBytes_writeFrom_self (s : State) (uid a : Nat) (bs : List Byte) :
    readBytes (writeFrom s uid a bs) a bs.length = bs := by
  apply List.ext_getElem (by simp)
  intro i h1 h2
  simp only [readBytes, List.getElem_map, List.getElem_range, memByte_writeFrom]
  rw [if_pos (by omega)]
  simp [show a + i - a = i by omega, List.getD_eq_getElem?_getD, h2]

theorem readBytes_writeBytes_self (s : State) (a : Nat) (bs : List Byte) : readBytes (writeBytes s a bs) a bs.length = bs :=
  readBytes_writeFrom_self s 0 a bs

/-- Bytes written elsewhere change nothing that is read. -/
theorem readBytes_writeBytes_apart (s : State) {a n b : Nat} {bs : List Byte} (h : apart a n b bs.length) :
    readBytes (writeBytes s b bs) a n = readBytes s a n := by
  apply readBytes_congr
  intro c h1 h2
  rw [memByte_writeBytes, if_neg]
  rcases h with h | h <;> omega

theorem natOfBytes_lt (l : List Byte) : natOfBytes l < 256 ^ l.length := by
  induction l with
  | nil => simp [natOfBytes]
  | cons b r ih =>
    simp only [natOfBytes, List.length_cons, Nat.pow_succ]
    have := b.isLt
    omega

theorem readNat_lt (s : State) (a n : Nat) : readNat s a n < 256 ^ n := by
  have h := natOfBytes_lt (readBytes s a n)
  rwa [readBytes_length] at h

/-- The low n bytes of a number, as a number. -/
theorem natOfBytes_bytesOfNat (n v : Nat) : natOfBytes (bytesOfNat n v) = v % 256 ^ n := by
  induction n generalizing v with
  | zero => simp [bytesOfNat, natOfBytes, Nat.mod_one]
  | succ n ih =>
    have h : (BitVec.ofNat 8 v).toNat = v % 256 := BitVec.toNat_ofNat v 8
    rw [bytesOfNat, natOfBytes, ih, h, Nat.pow_succ, Nat.mul_comm (256 ^ n) 256, Nat.mod_mul]

/-- A number written reads back as its low bytes. -/
theorem readNat_writeNat_self (s : State) (a n v : Nat) : readNat (writeNat s a n v) a n = v % 256 ^ n := by
  have h := readBytes_writeBytes_self s a (bytesOfNat n v)
  rw [bytesOfNat_length] at h
  simp only [readNat, writeNat, h, natOfBytes_bytesOfNat]

/-- A clean write changes memory in its own bytes alone. -/
theorem memKept_writeBytes (s : State) (a : Nat) (bs : List Byte) : memKept [(a, bs.length)] s (writeBytes s a bs) := by
  intro b h
  have := h _ (List.mem_singleton.2 rfl)
  rw [memByte_writeBytes, if_neg]
  simp only at this
  omega

theorem memKept_refl (rs : List (Nat × Nat)) (s : State) : memKept rs s s := fun _ _ => rfl

theorem memKept_of_mem {rs : List (Nat × Nat)} {s u : State} (h : u.mem = s.mem) : memKept rs s u := fun a _ => memByte_eq_of_mem h a

theorem memKept_trans {rs qs : List (Nat × Nat)} {s u w : State} (h1 : memKept rs s u) (h2 : memKept qs u w) :
    memKept (rs ++ qs) s w := by
  intro a h
  rw [h2 a (fun r hr => h r (List.mem_append.2 (Or.inr hr))), h1 a (fun r hr => h r (List.mem_append.2 (Or.inl hr)))]

/-! Poison (R381). -/

theorem get_setPoisonLines (s : State) (ls : List Nat) (p : Bool) (l : Nat) :
    Tab.get false (setPoisonLines s ls p).poison l = if l ∈ ls then p else Tab.get false s.poison l := by
  have key : ∀ (ls : List Nat) (t : Tab Bool),
      Tab.get false (ls.foldl (fun t l => Tab.set false t l p) t) l = if l ∈ ls then p else Tab.get false t l := by
    intro ls
    induction ls with
    | nil => simp
    | cons x rest ih =>
      intro t
      rw [List.foldl_cons, ih, Tab.get_set]
      by_cases h1 : l ∈ rest <;> by_cases h2 : l = x <;> simp [h1, h2]
  exact key ls s.poison

theorem mem_wholeLines (a n l : Nat) : l ∈ wholeLines a n ↔ a ≤ l * 128 ∧ l * 128 + 128 ≤ a + n := by
  simp only [wholeLines, List.mem_filterMap, List.mem_range]
  constructor
  · rintro ⟨i, _, h⟩
    split at h
    · rename_i h2
      cases h
      exact h2
    · cases h
  · intro h
    refine ⟨l - (a + 127) / 128, by omega, ?_⟩
    rw [show (a + 127) / 128 + (l - (a + 127) / 128) = l by omega, if_pos h]

theorem mem_touchedLines (a n l : Nat) : l ∈ touchedLines a n ↔ l * 128 < a + n ∧ a < l * 128 + 128 ∧ n ≠ 0 := by
  unfold touchedLines
  split
  · rename_i h
    simp [h]
  · rename_i h
    simp only [List.mem_map, List.mem_range]
    constructor
    · rintro ⟨i, h1, rfl⟩
      omega
    · intro h1
      exact ⟨l - a / 128, by omega, by omega⟩

/-- A clean write clears the poison of the lines it replaces whole, and of no other. -/
theorem poison_writeBytes (s : State) (a : Nat) (bs : List Byte) (l : Nat) :
    Tab.get false (writeBytes s a bs).poison l =
      (Tab.get false s.poison l && !decide (a ≤ l * 128 ∧ l * 128 + 128 ≤ a + bs.length)) := by
  show Tab.get false (setPoisonLines (setBytes s a bs) (wholeLines a bs.length) false).poison l = _
  rw [get_setPoisonLines, setBytes_poison]
  simp only [mem_wholeLines]
  by_cases h : a ≤ l * 128 ∧ l * 128 + 128 ≤ a + bs.length <;> simp [h]

/-- A poisoned write poisons every line it touches, and no other. -/
theorem poison_writePoison (s : State) (u a : Nat) (bs : List Byte) (l : Nat) :
    Tab.get false (writePoison s u a bs).poison l =
      (Tab.get false s.poison l || decide (l * 128 < a + bs.length ∧ a < l * 128 + 128 ∧ bs.length ≠ 0)) := by
  show Tab.get false (setPoisonLines (setBytes s a bs) (touchedLines a bs.length) true).poison l = _
  rw [get_setPoisonLines, setBytes_poison]
  simp only [mem_touchedLines]
  by_cases h : l * 128 < a + bs.length ∧ a < l * 128 + 128 ∧ bs.length ≠ 0
  · rw [if_pos h, decide_eq_true h, Bool.or_true]
  · rw [if_neg h, decide_eq_false h, Bool.or_false]

/-! Flags and counters. -/

@[simp] theorem flag_fputBool_self (s : State) (f : Field) (b : Bool) (h : 1 ≤ f.w) : flag (fputBool s f b) f = b := by
  have : (1 : Nat) % 2 ^ f.w = 1 := by
    apply Nat.mod_eq_of_lt
    exact Nat.lt_of_lt_of_le (by decide : (1 : Nat) < 2 ^ 1) (Nat.pow_le_pow_right (by decide) h)
  cases b <;> simp [flag, fputBool, this]

/-- A counter sticks at its maximum. -/
theorem fget_fcount_self (s : State) (f : Field) (n : Nat) : fget (fcount s f n) f = min (fget s f + n) (2 ^ f.w - 1) := by
  have hp : 1 ≤ 2 ^ f.w := Nat.one_le_two_pow
  simp only [fcount, fget_fput_self]
  split
  · rename_i h
    rw [Nat.mod_eq_of_lt h, Nat.min_eq_left (by omega)]
  · rename_i h
    rw [Nat.mod_eq_of_lt (by omega), Nat.min_eq_right (by omega)]

theorem fget_fcount_other (s : State) {f g : Field} (n : Nat) (h : fieldKey g ≠ fieldKey f) : fget (fcount s f n) g = fget s g :=
  fget_fput_other s _ h

/-! The status page (Table 13-5). -/

@[simp] theorem statusBytes_length (j : Job) : (statusBytes j).length = 41 := by simp [statusBytes]

/-- The job's fields are replaced and the status page follows; nothing else changes. -/
theorem setJob_frame (s : State) (j : Job) : setJob s j = { s with
    job := j
    mem := (setJob s j).mem
    poison := (setJob s j).poison
    writer := (setJob s j).writer } := by
  simp only [setJob, writeStatus, writeBytes]
  rw [writeFrom_frame]

@[simp] theorem setJob_job (s : State) (j : Job) : (setJob s j).job = j := by rw [setJob_frame]
@[simp] theorem setJob_fields (s : State) (j : Job) : (setJob s j).fields = s.fields := by rw [setJob_frame]
@[simp] theorem setJob_tide (s : State) (j : Job) : (setJob s j).tide = s.tide := by rw [setJob_frame]
@[simp] theorem setJob_stage (s : State) (j : Job) : (setJob s j).stage = s.stage := by rw [setJob_frame]
@[simp] theorem setJob_threads (s : State) (j : Job) : (setJob s j).threads = s.threads := by rw [setJob_frame]
@[simp] theorem setJob_cores (s : State) (j : Job) : (setJob s j).cores = s.cores := by rw [setJob_frame]
@[simp] theorem setJob_cranes (s : State) (j : Job) : (setJob s j).cranes = s.cranes := by rw [setJob_frame]
@[simp] theorem setJob_barges (s : State) (j : Job) : (setJob s j).barges = s.barges := by rw [setJob_frame]
@[simp] theorem setJob_ports (s : State) (j : Job) : (setJob s j).ports = s.ports := by rw [setJob_frame]
@[simp] theorem setJob_ledger (s : State) (j : Job) : (setJob s j).ledger = s.ledger := by rw [setJob_frame]
@[simp] theorem setJob_svc (s : State) (j : Job) : (setJob s j).svc = s.svc := by rw [setJob_frame]
@[simp] theorem setJob_sec (s : State) (j : Job) : (setJob s j).sec = s.sec := by rw [setJob_frame]
@[simp] theorem setJob_host (s : State) (j : Job) : (setJob s j).host = s.host := by rw [setJob_frame]
@[simp] theorem setJob_hold (s : State) (j : Job) : (setJob s j).hold = s.hold := by rw [setJob_frame]
@[simp] theorem setJob_perf (s : State) (j : Job) : (setJob s j).perf = s.perf := by rw [setJob_frame]
@[simp] theorem setJob_free (s : State) (j : Job) : (setJob s j).free = s.free := by rw [setJob_frame]
@[simp] theorem fget_setJob (s : State) (j : Job) (f : Field) : fget (setJob s j) f = fget s f := by simp [fget]
@[simp] theorem flag_setJob (s : State) (j : Job) (f : Field) : flag (setJob s j) f = flag s f := by simp [flag]

theorem memByte_setJob (s : State) (j : Job) (a : Nat) :
    memByte (setJob s j) a = if statusPage ≤ a ∧ a < statusPage + 41 then (statusBytes j).getD (a - statusPage) 0 else memByte s a := by
  simp only [setJob, writeStatus, memByte_writeBytes, statusBytes_length]
  rfl

theorem memKept_setJob (s : State) (j : Job) : memKept [(statusPage, 41)] s (setJob s j) := by
  intro a h
  have := h _ (List.mem_singleton.2 rfl)
  rw [memByte_setJob, if_neg]
  simp only at this
  omega

theorem status_setJob (s : State) (j : Job) : readBytes (setJob s j) statusPage 41 = statusBytes j := by
  have h := readBytes_writeBytes_self { s with job := j } statusPage (statusBytes j)
  rw [statusBytes_length] at h
  exact h

/-! Consumption of poison, and fatal events. -/

/-- Nothing is consumed where no line is poisoned. -/
theorem consumeRange_clean (s : State) (a n consumer : Nat) (c : Bool) (die unit : Nat) (h : clean s) :
    consumeRange s a n consumer c die unit = s := by
  have : firstPoison s a n = none := by
    simp only [firstPoison, Option.map_eq_none_iff, List.find?_eq_none]
    intro l _
    simp [h (l * 128)]
  simp [consumeRange, this]

/-- A capture changes the fields of ERR_FIRST and ERR_FATALS alone. -/
theorem captureFatal_frame (s : State) (source die unit : Nat) :
    captureFatal s source die unit = { s with fields := (captureFatal s source die unit).fields } := by
  unfold captureFatal
  split <;> rfl

/-- With no job live a fatal event is recorded and nothing else happens (R472). -/
theorem fatal_idle (s : State) (source die unit : Nat) (h : jobLive s = false) :
    fatal s source die unit = captureFatal (seeClass s (classOf source)) source die unit := by
  have : jobLive (captureFatal (seeClass s (classOf source)) source die unit) = false := by
    rw [captureFatal_frame]
    exact h
  simp [fatal, this]

/-- A live job meets its fault end (R379). -/
theorem fatal_live (s : State) (source die unit : Nat) (h : jobLive s = true) :
    fatal s source die unit =
      faultEnd (captureFatal (seeClass s (classOf source)) source die unit) (decide (classOf source = 4)) := by
  have : jobLive (captureFatal (seeClass s (classOf source)) source die unit) = true := by
    rw [captureFatal_frame]
    exact h
  simp [fatal, this]

end Sys2Proof.Machine
end

