-- ==== Sys2Proof/Laws/WfBase.lean ====
section
/-! SUPPORT. Every operation keeps the canonical form of memory. This file has the shared forms; the files Laws/Wf….lean
have one lemma per operation and per command, each citing those of the operations it calls. -/

namespace Sys2Proof.Machine

/-- `memWf` as a property that simp does not take apart. -/
structure MemOk (s : State) : Prop where
  form : memWf s

/-- A record update that keeps `mem` keeps the form. -/
theorem MemOk_mk (s : State) (x0 : List Instr) (x1 : Nat) (x2 : Nat) (x4 : Tab Bool) (x5 : Tab Nat) (x6 : Tab Nat) (x7 : TideSt) (x8 : StageSt) (x9 : Tab Thread) (x10 : Tab Core) (x11 : Tab (List HcLine)) (x12 : Tab Stride) (x13 : Tab Crane) (x14 : Tab BargeSt) (x15 : Tab Port) (x16 : LedgerSt) (x17 : Job) (x18 : Svc) (x19 : SecSt) (x20 : HostSt) (x21 : HoldSt) (x22 : PerfSt) (x23 : Tab (BitVec 16)) :
    MemOk ⟨x0, x1, x2, s.mem, x4, x5, x6, x7, x8, x9, x10, x11, x12, x13, x14, x15, x16, x17, x18, x19, x20, x21, x22, x23⟩ ↔ MemOk s := ⟨fun h => ⟨h.form⟩, fun h => ⟨h.form⟩⟩

theorem writeFrom_ok (s : State) (u a : Nat) (bs : List Byte) (h : MemOk s) : MemOk (writeFrom s u a bs) :=
  ⟨setBytes_wf s a bs h.form⟩
theorem writeBytes_ok (s : State) (a : Nat) (bs : List Byte) (h : MemOk s) : MemOk (writeBytes s a bs) :=
  ⟨setBytes_wf s a bs h.form⟩
theorem writePoison_ok (s : State) (u a : Nat) (bs : List Byte) (h : MemOk s) : MemOk (writePoison s u a bs) :=
  ⟨setBytes_wf s a bs h.form⟩
theorem writeNat_ok (s : State) (a n v : Nat) (h : MemOk s) : MemOk (writeNat s a n v) :=
  ⟨setBytes_wf s a _ h.form⟩
theorem fput_ok (s : State) (f : Field) (v : Nat) (h : MemOk s) : MemOk (fput s f v) := ⟨h.form⟩
theorem setByte_ok (s : State) (a : Nat) (v : Byte) (h : MemOk s) : MemOk (setByte s a v) := ⟨setByte_wf s a v h.form⟩
theorem setBytes_ok (s : State) (a : Nat) (bs : List Byte) (h : MemOk s) : MemOk (setBytes s a bs) :=
  ⟨setBytes_wf s a bs h.form⟩

/-- A next state's memory is in canonical form. -/
structure OutOk (o : Out) : Prop where
  next : ∀ t, o = .next t → MemOk t

theorem next_ok (t : State) (h : MemOk t) : OutOk (.next t) := ⟨fun _ e => by cases e; exact h⟩
theorem fault_ok (r : Fault) : OutOk (.fault r) := ⟨fun _ e => by cases e⟩
theorem refused_ok (r : Refusal) : OutOk (.refused r) := ⟨fun _ e => by cases e⟩
theorem turnedAway_ok (s : State) (h : MemOk s) : OutOk (turnedAway s) := next_ok s h
theorem whenever_ok (c : Bool) (t s : State) (ht : MemOk t) (hs : MemOk s) : OutOk (whenever c t s) := by
  cases c
  · exact next_ok s hs
  · exact next_ok t ht
/-- A choice between two outcomes. -/
theorem out_ite (c : Prop) [Decidable c] (a b : Out) (ha : OutOk a) (hb : OutOk b) : OutOk (if c then a else b) := by
  split <;> assumption
/-- A choice between two states. -/
theorem ok_ite (c : Prop) [Decidable c] (a b : State) (ha : MemOk a) (hb : MemOk b) : MemOk (if c then a else b) := by
  split <;> assumption
/-- A fold of an operation that keeps the form. -/
theorem ok_foldl {α : Type} (f : State → α → State) (l : List α) (s : State)
    (hf : ∀ s x, MemOk s → MemOk (f s x)) (h : MemOk s) : MemOk (l.foldl f s) := by
  induction l generalizing s with
  | nil => exact h
  | cons x rest ih => exact ih _ (hf s x h)

end Sys2Proof.Machine
end

