-- ==== Sys2Proof/Laws/WfFields.lean ====
section
/-! SUPPORT. The operations and commands of Machine/Fields.lean keep the canonical form of memory. -/

namespace Sys2Proof.Machine

theorem fputBool_ok (s : State) (f : Field) (b : Bool) (hs : MemOk s) : MemOk (fputBool s f b) := by
  unfold fputBool
  repeat' (first | with_reducible assumption | with_reducible apply fput_ok | with_reducible apply ok_ite | with_reducible apply out_ite | apply hs | simp only [MemOk_mk])
theorem fcount_ok (s : State) (f : Field) (n : Nat) (hs : MemOk s) : MemOk (fcount s f n) := by
  unfold fcount
  repeat' (first | with_reducible assumption | with_reducible apply fput_ok | with_reducible apply ok_ite | with_reducible apply out_ite | apply hs | simp only [MemOk_mk])

end Sys2Proof.Machine
end

