-- ==== Sys2Proof/Laws/WfOps.lean ====
section
/-! SUPPORT. The operations and commands of Machine/Ops.lean keep the canonical form of memory. -/

namespace Sys2Proof.Machine

theorem setThread_ok (s : State) (t : Nat) (th : Thread) (hs : MemOk s) : MemOk (setThread s t th) := by
  unfold setThread
  repeat' (first | with_reducible assumption | apply hs | simp only [MemOk_mk])
theorem setCore_ok (s : State) (k : Nat) (c : Core) (hs : MemOk s) : MemOk (setCore s k c) := by
  unfold setCore
  repeat' (first | with_reducible assumption | apply hs | simp only [MemOk_mk])
theorem setCrane_ok (s : State) (c : Nat) (x : Crane) (hs : MemOk s) : MemOk (setCrane s c x) := by
  unfold setCrane
  repeat' (first | with_reducible assumption | apply hs | simp only [MemOk_mk])
theorem setBarge_ok (s : State) (b : Nat) (x : BargeSt) (hs : MemOk s) : MemOk (setBarge s b x) := by
  unfold setBarge
  repeat' (first | with_reducible assumption | apply hs | simp only [MemOk_mk])
theorem setPort_ok (s : State) (p : Nat) (x : Port) (hs : MemOk s) : MemOk (setPort s p x) := by
  unfold setPort
  repeat' (first | with_reducible assumption | apply hs | simp only [MemOk_mk])
theorem tookFree_ok (s : State) (n : Nat) (hs : MemOk s) : MemOk (tookFree s n) := by
  unfold tookFree
  repeat' (first | with_reducible assumption | apply hs | simp only [MemOk_mk])
theorem setPoisonLines_ok (s : State) (ls : List Nat) (p : Bool) (hs : MemOk s) : MemOk (setPoisonLines s ls p) := by
  unfold setPoisonLines
  repeat' (first | with_reducible assumption | with_reducible apply ok_foldl | apply hs | simp only [MemOk_mk])
theorem markWriter_ok (s : State) (a n uid : Nat) (hs : MemOk s) : MemOk (markWriter s a n uid) := by
  unfold markWriter
  repeat' (first | with_reducible assumption | with_reducible apply ok_foldl | apply hs | simp only [MemOk_mk])

end Sys2Proof.Machine
end

