-- ==== Sys2Proof/Laws/WfCount.lean ====
section
/-! SUPPORT. The operations and commands of Machine/Count.lean keep the canonical form of memory. -/

namespace Sys2Proof.Machine

theorem countEvent_ok (s : State) (cls unit ev v tbit : Nat) (hs : MemOk s) : MemOk (countEvent s cls unit ev v tbit) := by
  unfold countEvent
  repeat' (first | with_reducible assumption | with_reducible apply ok_ite | with_reducible apply out_ite | apply hs | simp only [MemOk_mk])
theorem countItem_ok (s : State) (measure unit tier l : Nat) (hs : MemOk s) : MemOk (countItem s measure unit tier l) := by
  unfold countItem
  repeat' (first | with_reducible assumption | with_reducible apply ok_ite | with_reducible apply out_ite | with_reducible apply ok_foldl | apply hs | simp only [MemOk_mk])
theorem countLatency_ok (s : State) (measure unit tier : Nat) (hs : MemOk s) : MemOk (countLatency s measure unit tier) := by
  unfold countLatency
  repeat' (first | with_reducible assumption | with_reducible apply countItem_ok | apply hs | simp only [MemOk_mk])
theorem sampleTug_ok (s : State) (t : Nat) (hs : MemOk s) : MemOk (sampleTug s t) := by
  unfold sampleTug
  repeat' (first | with_reducible assumption | with_reducible apply ok_ite | with_reducible apply out_ite | apply hs | simp only [MemOk_mk])
theorem sampleCrane_ok (s : State) (c : Nat) (bg : Bool) (hs : MemOk s) : MemOk (sampleCrane s c bg) := by
  unfold sampleCrane
  repeat' (first | with_reducible assumption | with_reducible apply ok_ite | with_reducible apply out_ite | apply hs | simp only [MemOk_mk])
theorem countIssue_ok (s : State) (t : Nat) (hs : MemOk s) : MemOk (countIssue s t) := by
  unfold countIssue
  repeat' (first | with_reducible assumption | with_reducible apply sampleTug_ok | with_reducible apply countEvent_ok | apply hs | simp only [MemOk_mk])

end Sys2Proof.Machine
end

