-- ==== Sys2Proof/Laws/WfEvents.lean ====
section
/-! SUPPORT. The operations and commands of Machine/Events.lean keep the canonical form of memory. -/

namespace Sys2Proof.Machine

theorem writeStatus_ok (s : State) (hs : MemOk s) : MemOk (writeStatus s) := by
  unfold writeStatus
  repeat' (first | with_reducible assumption | with_reducible apply writeBytes_ok | apply hs | simp only [MemOk_mk])
theorem setJob_ok (s : State) (j : Job) (hs : MemOk s) : MemOk (setJob s j) := by
  unfold setJob
  repeat' (first | with_reducible assumption | with_reducible apply writeStatus_ok | apply hs | simp only [MemOk_mk])
theorem seeClass_ok (s : State) (c : Nat) (hs : MemOk s) : MemOk (seeClass s c) := by
  unfold seeClass
  repeat' (first | with_reducible assumption | with_reducible apply fput_ok | apply hs | simp only [MemOk_mk])
theorem corrected_ok (s : State) (hs : MemOk s) : MemOk (corrected s) := by
  unfold corrected
  repeat' (first | with_reducible assumption | with_reducible apply fcount_ok | with_reducible apply seeClass_ok | apply hs | simp only [MemOk_mk])
theorem correctedN_ok (s : State) (n : Nat) (hs : MemOk s) : MemOk (correctedN s n) := by
  unfold correctedN
  repeat' (first | with_reducible assumption | with_reducible apply fcount_ok | with_reducible apply seeClass_ok | with_reducible apply ok_ite | with_reducible apply out_ite | apply hs | simp only [MemOk_mk])
theorem captureFatal_ok (s : State) (source die unit : Nat) (hs : MemOk s) : MemOk (captureFatal s source die unit) := by
  unfold captureFatal
  repeat' (first | with_reducible assumption | with_reducible apply fcount_ok | with_reducible apply fput_ok | with_reducible apply ok_ite | with_reducible apply out_ite | apply hs | simp only [MemOk_mk])
theorem parkThread_ok (s : State) (t : Nat) (hs : MemOk s) : MemOk (parkThread s t) := by
  unfold parkThread
  repeat' (first | with_reducible assumption | with_reducible apply setThread_ok | apply hs | simp only [MemOk_mk])
theorem parkJobThreads_ok (s : State) (hs : MemOk s) : MemOk (parkJobThreads s) := by
  unfold parkJobThreads
  repeat' (first | with_reducible assumption | with_reducible apply parkThread_ok | with_reducible apply ok_ite | with_reducible apply out_ite | with_reducible apply ok_foldl | apply hs | simp only [MemOk_mk] | (intro _ _ _; try dsimp only) | (intro _ _; try dsimp only) | split | dsimp only)
theorem performWrites_ok (s : State) (x1 : List BWrite) (hs : MemOk s) : MemOk (performWrites s x1) := by
  induction x1 generalizing s with
  | nil => exact hs
  | cons y rest ih =>
    unfold performWrites
    apply ih
    repeat' (first | with_reducible assumption | with_reducible apply ok_ite | with_reducible apply writePoison_ok | with_reducible apply writeBytes_ok)
theorem cancelBarge_ok (s : State) (b : Nat) (hs : MemOk s) : MemOk (cancelBarge s b) := by
  unfold cancelBarge
  dsimp only
  repeat' (first | with_reducible assumption | with_reducible apply setBarge_ok | with_reducible apply tookFree_ok | with_reducible apply performWrites_ok | with_reducible apply ok_ite | with_reducible apply out_ite | apply hs | simp only [MemOk_mk] | (intro _ _ _; try dsimp only) | (intro _ _; try dsimp only) | split)
theorem cancelBarges_ok (s : State) (hs : MemOk s) : MemOk (cancelBarges s) := by
  unfold cancelBarges
  repeat' (first | with_reducible assumption | with_reducible apply cancelBarge_ok | with_reducible apply ok_foldl | apply hs | simp only [MemOk_mk])
theorem cancelRuns_ok (s : State) (p : Nat) (hs : MemOk s) : MemOk (cancelRuns s p) := by
  unfold cancelRuns
  repeat' (first | with_reducible assumption | with_reducible apply setPort_ok | apply hs | simp only [MemOk_mk])
theorem cancelQuays_ok (s : State) (hs : MemOk s) : MemOk (cancelQuays s) := by
  unfold cancelQuays
  repeat' (first | with_reducible assumption | with_reducible apply cancelRuns_ok | with_reducible apply ok_foldl | apply hs | simp only [MemOk_mk])
theorem abortArmed_ok (s : State) (hs : MemOk s) : MemOk (abortArmed s) := by
  unfold abortArmed
  repeat' (first | with_reducible assumption | with_reducible apply fput_ok | with_reducible apply ok_ite | with_reducible apply out_ite | apply hs | simp only [MemOk_mk])
theorem disablePorts_ok (s : State) (hs : MemOk s) : MemOk (disablePorts s) := by
  unfold disablePorts
  repeat' (first | with_reducible assumption | with_reducible apply fput_ok | with_reducible apply ok_foldl | apply hs | simp only [MemOk_mk] | (intro _ _ _; try dsimp only) | (intro _ _; try dsimp only) | split | dsimp only)
theorem stopJob_ok (s : State) (hs : MemOk s) : MemOk (stopJob s) := by
  unfold stopJob
  repeat' (first | with_reducible assumption | with_reducible apply parkJobThreads_ok | with_reducible apply cancelQuays_ok | with_reducible apply cancelBarges_ok | with_reducible apply abortArmed_ok | with_reducible apply fput_ok | apply hs | simp only [MemOk_mk])
theorem endJob_ok (s : State) (cause : Nat) (detail : Word) (hs : MemOk s) : MemOk (endJob s cause detail) := by
  unfold endJob
  repeat' (first | with_reducible assumption | with_reducible apply stopJob_ok | with_reducible apply setJob_ok | apply hs | simp only [MemOk_mk])
theorem faultEnd_ok (s : State) (moduleFatal : Bool) (hs : MemOk s) : MemOk (faultEnd s moduleFatal) := by
  unfold faultEnd
  repeat' (first | with_reducible assumption | with_reducible apply endJob_ok | with_reducible apply disablePorts_ok | with_reducible apply ok_ite | with_reducible apply out_ite | apply hs | simp only [MemOk_mk])
theorem fatal_ok (s : State) (source die unit : Nat) (hs : MemOk s) : MemOk (fatal s source die unit) := by
  unfold fatal
  repeat' (first | with_reducible assumption | with_reducible apply captureFatal_ok | with_reducible apply seeClass_ok | with_reducible apply faultEnd_ok | with_reducible apply ok_ite | with_reducible apply out_ite | apply hs | simp only [MemOk_mk])
theorem capturePoison_ok (s : State) (a consumer : Nat) (contained : Bool) (hs : MemOk s) : MemOk (capturePoison s a consumer contained) := by
  unfold capturePoison
  repeat' (first | with_reducible assumption | with_reducible apply fput_ok | with_reducible apply fputBool_ok | with_reducible apply ok_ite | with_reducible apply out_ite | apply hs | simp only [MemOk_mk])
theorem dropMicroBatch_ok (s : State) (m : Nat) (hs : MemOk s) : MemOk (dropMicroBatch s m) := by
  unfold dropMicroBatch
  repeat' (first | with_reducible assumption | with_reducible apply fput_ok | with_reducible apply ok_ite | with_reducible apply out_ite | apply hs | simp only [MemOk_mk])
theorem consumePoison_ok (s : State) (a consumer : Nat) (canContain : Bool) (die unit : Nat) (hs : MemOk s) : MemOk (consumePoison s a consumer canContain die unit) := by
  unfold consumePoison
  repeat' (first | with_reducible assumption | with_reducible apply dropMicroBatch_ok | with_reducible apply seeClass_ok | with_reducible apply capturePoison_ok | with_reducible apply fatal_ok | apply hs | simp only [MemOk_mk] | (intro _ _ _; try dsimp only) | (intro _ _; try dsimp only) | split | dsimp only)
theorem consumeRange_ok (s : State) (a n consumer : Nat) (canContain : Bool) (die unit : Nat) (hs : MemOk s) : MemOk (consumeRange s a n consumer canContain die unit) := by
  unfold consumeRange
  repeat' (first | with_reducible assumption | with_reducible apply consumePoison_ok | apply hs | simp only [MemOk_mk] | (intro _ _ _; try dsimp only) | (intro _ _; try dsimp only) | split | dsimp only)
theorem countNowin_ok (s : State) (hs : MemOk s) : MemOk (countNowin s) := by
  unfold countNowin
  repeat' (first | with_reducible assumption | with_reducible apply fcount_ok | apply hs | simp only [MemOk_mk])
theorem countHostDenied_ok (s : State) (hs : MemOk s) : MemOk (countHostDenied s) := by
  unfold countHostDenied
  repeat' (first | with_reducible assumption | with_reducible apply fcount_ok | apply hs | simp only [MemOk_mk])

end Sys2Proof.Machine
end

