-- ==== Sys2Proof/Laws/WfActTable.lean ====
section
/-! SUPPORT. The operations and commands of Machine/ActTable.lean keep the canonical form of memory. -/

namespace Sys2Proof.Machine

theorem setStage_ok (s : State) (v : Nat) (hs : MemOk s) : MemOk (setStage s v) := by
  unfold setStage
  repeat' (first | with_reducible assumption | with_reducible apply fput_ok | apply hs | simp only [MemOk_mk])
theorem ignoreShadow_ok (s : State) (hs : MemOk s) : MemOk (ignoreShadow s) := by
  unfold ignoreShadow
  repeat' (first | with_reducible assumption | with_reducible apply fput_ok | apply hs | simp only [MemOk_mk])
theorem shadowTaken_ok (s : State) (group : Nat) (hs : MemOk s) : MemOk (shadowTaken s group) := by
  unfold shadowTaken
  repeat' (first | with_reducible assumption | with_reducible apply setStage_ok | with_reducible apply ok_ite | with_reducible apply out_ite | apply hs | simp only [MemOk_mk])
theorem applyAct_ok (s : State) (c : Nat) (h : HeldAct) (hs : MemOk s) : MemOk (applyAct s c h) := by
  unfold applyAct
  repeat' (first | with_reducible assumption | with_reducible apply ignoreShadow_ok | with_reducible apply setCrane_ok | with_reducible apply fput_ok | with_reducible apply shadowTaken_ok | with_reducible apply ok_ite | with_reducible apply out_ite | apply hs | simp only [MemOk_mk])
theorem writeAct_ok (s : State) (c : Nat) (h : HeldAct) (hs : MemOk s) : MemOk (writeAct s c h) := by
  unfold writeAct
  repeat' (first | with_reducible assumption | with_reducible apply setCrane_ok | with_reducible apply applyAct_ok | with_reducible apply ok_ite | with_reducible apply out_ite | apply hs | simp only [MemOk_mk])
theorem execActTableWrite_ok (_who : Agent) (c : CraneIx) (slot : Fin 4) (n : Fin 193) (value : Word) (s : State) (hs : MemOk s) : OutOk (execActTableWrite _who c slot n value s) := by
  unfold execActTableWrite
  repeat' (first | with_reducible assumption | with_reducible apply writeAct_ok | with_reducible apply next_ok | apply hs | simp only [MemOk_mk])
theorem execActTableWriteRelease_ok (c : CraneIx) (slot : Fin 4) (s : State) (hs : MemOk s) : OutOk (execActTableWriteRelease c slot s) := by
  unfold execActTableWriteRelease
  dsimp only
  repeat' (first | with_reducible assumption | with_reducible apply turnedAway_ok | with_reducible apply whenever_ok | with_reducible apply applyAct_ok | with_reducible apply setCrane_ok | apply hs | simp only [MemOk_mk] | (intro _ _ _; try dsimp only) | (intro _ _; try dsimp only) | split)
theorem exchangeSlot_ok (s : State) (c slot : Nat) (hs : MemOk s) : MemOk (exchangeSlot s c slot) := by
  unfold exchangeSlot
  repeat' (first | with_reducible assumption | with_reducible apply setCrane_ok | with_reducible apply fput_ok | with_reducible apply ok_ite | with_reducible apply out_ite | apply hs | simp only [MemOk_mk])
theorem exchangeTables_ok (s : State) (hs : MemOk s) : MemOk (exchangeTables s) := by
  unfold exchangeTables
  repeat' (first | with_reducible assumption | with_reducible apply exchangeSlot_ok | with_reducible apply ok_foldl | apply hs | simp only [MemOk_mk] | (intro _ _ _; try dsimp only) | (intro _ _; try dsimp only) | split | dsimp only)

end Sys2Proof.Machine
end

