-- ==== Sys2Proof/Laws/WfCache.lean ====
section
/-! SUPPORT. The operations and commands of Machine/Cache.lean keep the canonical form of memory. -/

namespace Sys2Proof.Machine

theorem setHc_ok (s : State) (a : Nat) (l : List HcLine) (hs : MemOk s) : MemOk (setHc s a l) := by
  unfold setHc
  repeat' (first | with_reducible assumption | apply hs | simp only [MemOk_mk])
theorem hcEvict_ok (s : State) (a : Nat) (l : List HcLine) (hs : MemOk s) : MemOk (hcEvict s a l) := by
  unfold hcEvict
  repeat' (first | with_reducible assumption | with_reducible apply setHc_ok | with_reducible apply countEvent_ok | with_reducible apply ok_ite | with_reducible apply out_ite | apply hs | simp only [MemOk_mk])
theorem hcAccess_ok (s : State) (a : Nat) (write alloc : Bool) (hs : MemOk s) : MemOk (hcAccess s a write alloc) := by
  unfold hcAccess
  dsimp only
  repeat' (first | with_reducible assumption | with_reducible apply countEvent_ok | with_reducible apply setHc_ok | with_reducible apply countLatency_ok | with_reducible apply hcEvict_ok | with_reducible apply ok_ite | with_reducible apply out_ite | apply hs | simp only [MemOk_mk] | (intro _ _ _; try dsimp only) | (intro _ _; try dsimp only) | split)
theorem hcRange_ok (s : State) (a n : Nat) (write alloc : Bool) (hs : MemOk s) : MemOk (hcRange s a n write alloc) := by
  unfold hcRange
  repeat' (first | with_reducible assumption | with_reducible apply hcAccess_ok | with_reducible apply ok_foldl | apply hs | simp only [MemOk_mk] | (intro _ _ _; try dsimp only) | (intro _ _; try dsimp only) | split | dsimp only)

end Sys2Proof.Machine
end

