-- ==== Sys2Proof/Laws/WfDrops.lean ====
section
/-! SUPPORT. The operations and commands of Machine/Drops.lean keep the canonical form of memory. -/

namespace Sys2Proof.Machine

theorem dropCutoff_ok (s : State) (hs : MemOk s) : MemOk (dropCutoff s) := by
  unfold dropCutoff
  repeat' (first | with_reducible assumption | with_reducible apply fput_ok | with_reducible apply writeBytes_ok | apply hs | simp only [MemOk_mk])
theorem execDropRecordFinal_ok (s : State) (hs : MemOk s) : OutOk (execDropRecordFinal s) := by
  unfold execDropRecordFinal
  exact whenever_ok _ _ _ ((MemOk_mk _ ..).2 (writeNat_ok _ _ _ _ (writeBytes_ok _ _ _ hs))) hs
theorem stepEndCopy_ok (s : State) (hs : MemOk s) : MemOk (stepEndCopy s) := by
  unfold stepEndCopy
  repeat' (first | with_reducible assumption | apply hs | simp only [MemOk_mk])
theorem endStep_ok (s : State) (hs : MemOk s) : MemOk (endStep s) := by
  unfold endStep
  repeat' (first | with_reducible assumption | with_reducible apply stepEndCopy_ok | apply hs | simp only [MemOk_mk])

end Sys2Proof.Machine
end

