-- ==== Sys2Proof/Laws/WfCraneMem.lean ====
section
/-! SUPPORT. The operations and commands of Machine/CraneMem.lean keep the canonical form of memory. -/

namespace Sys2Proof.Machine

theorem spendFree_ok (s : State) (hs : MemOk s) : MemOk (spendFree s) := by
  unfold spendFree
  repeat' (first | with_reducible assumption | with_reducible apply tookFree_ok | apply hs | simp only [MemOk_mk])
theorem craneWrite_ok (s : State) (k : CraneCmd) (poison : Bool) (a : Nat) (bs : List Byte) (hs : MemOk s) : MemOk (craneWrite s k poison a bs) := by
  unfold craneWrite
  repeat' (first | with_reducible assumption | with_reducible apply writePoison_ok | with_reducible apply writeFrom_ok | with_reducible apply ok_ite | with_reducible apply out_ite | apply hs | simp only [MemOk_mk])
theorem craneWrites_ok (s : State) (k : CraneCmd) (poison : Bool) (x1 : List (Nat × List Byte)) (hs : MemOk s) : MemOk (craneWrites s k poison x1) := by
  induction x1 generalizing s with
  | nil => exact hs
  | cons y rest ih =>
    unfold craneWrites
    apply ih
    repeat' (first | with_reducible assumption | with_reducible apply craneWrite_ok)
theorem consumeLines_ok (s : State) (c : Nat) (x1 : List Nat) (hs : MemOk s) : MemOk (consumeLines s c x1) := by
  induction x1 generalizing s with
  | nil => exact hs
  | cons y rest ih =>
    unfold consumeLines
    apply ih
    repeat' (first | with_reducible assumption | with_reducible apply ok_ite | with_reducible apply consumePoison_ok)
theorem consumeFoot_ok (s old : State) (c : Nat) (fp : List Foot) (hs : MemOk s) (hold : MemOk old) : MemOk (consumeFoot s old c fp) := by
  unfold consumeFoot
  repeat' (first | with_reducible assumption | with_reducible apply consumeLines_ok | apply hs | apply hold | simp only [MemOk_mk])

end Sys2Proof.Machine
end

