-- ==== Sys2Proof/Laws/WfOperands.lean ====
section
/-! SUPPORT. The operations and commands of Machine/Operands.lean keep the canonical form of memory. -/

namespace Sys2Proof.Machine

theorem overtake_ok (s : State) (simd : Bool) (t r : Nat) (hs : MemOk s) : MemOk (overtake s simd t r) := by
  unfold overtake
  repeat' (first | with_reducible assumption | with_reducible apply setCore_ok | apply hs | simp only [MemOk_mk])
theorem setG_ok (s : State) (t r : Nat) (x : Word) (hs : MemOk s) : MemOk (setG s t r x) := by
  unfold setG
  repeat' (first | with_reducible assumption | with_reducible apply overtake_ok | with_reducible apply setThread_ok | with_reducible apply ok_ite | with_reducible apply out_ite | apply hs | simp only [MemOk_mk])
theorem setV_ok (s : State) (t r : Nat) (x : VWord) (hs : MemOk s) : MemOk (setV s t r x) := by
  unfold setV
  repeat' (first | with_reducible assumption | with_reducible apply overtake_ok | with_reducible apply setThread_ok | with_reducible apply ok_ite | with_reducible apply out_ite | apply hs | simp only [MemOk_mk])
theorem orFstat_ok (s : State) (t : Nat) (f : BitVec 4) (hs : MemOk s) : MemOk (orFstat s t f) := by
  unfold orFstat
  repeat' (first | with_reducible assumption | with_reducible apply setThread_ok | apply hs | simp only [MemOk_mk])
theorem setPc_ok (s : State) (t : Nat) (pc : Word) (hs : MemOk s) : MemOk (setPc s t pc) := by
  unfold setPc
  repeat' (first | with_reducible assumption | with_reducible apply setThread_ok | apply hs | simp only [MemOk_mk])
theorem handOn_ok (s : State) (t : Nat) (hs : MemOk s) : MemOk (handOn s t) := by
  unfold handOn
  dsimp only
  repeat' (first | with_reducible assumption | with_reducible apply countEvent_ok | with_reducible apply setThread_ok | apply hs | simp only [MemOk_mk] | (intro _ _ _; try dsimp only) | (intro _ _; try dsimp only) | split)
theorem giveUp_ok (s : State) (t : Nat) (st : TState) (w : Option WaitOn) (hs : MemOk s) : MemOk (giveUp s t st w) := by
  unfold giveUp
  repeat' (first | with_reducible assumption | with_reducible apply handOn_ok | with_reducible apply setThread_ok | apply hs | simp only [MemOk_mk])
theorem makeReady_ok (s : State) (t : Nat) (hs : MemOk s) : MemOk (makeReady s t) := by
  unfold makeReady
  repeat' (first | with_reducible assumption | with_reducible apply setThread_ok | with_reducible apply ok_ite | with_reducible apply out_ite | apply hs | simp only [MemOk_mk])
theorem park_ok (s : State) (t : Nat) (hs : MemOk s) : MemOk (park s t) := by
  unfold park
  repeat' (first | with_reducible assumption | with_reducible apply handOn_ok | with_reducible apply parkThread_ok | with_reducible apply ok_ite | with_reducible apply out_ite | apply hs | simp only [MemOk_mk])
theorem stall_ok (s : State) (t : Nat) (gs vs : List Nat) (hs : MemOk s) : MemOk (stall s t gs vs) := by
  unfold stall
  repeat' (first | with_reducible assumption | with_reducible apply giveUp_ok | with_reducible apply ok_ite | with_reducible apply out_ite | apply hs | simp only [MemOk_mk] | (intro _ _ _; try dsimp only) | (intro _ _; try dsimp only) | split | dsimp only)
theorem retire_ok (s : State) (t : Nat) (hs : MemOk s) : MemOk (retire s t) := by
  unfold retire
  repeat' (first | with_reducible assumption | with_reducible apply setThread_ok | apply hs | simp only [MemOk_mk])
theorem retireTo_ok (s : State) (t : Nat) (pc : Word) (hs : MemOk s) : MemOk (retireTo s t pc) := by
  unfold retireTo
  repeat' (first | with_reducible assumption | with_reducible apply setThread_ok | apply hs | simp only [MemOk_mk])
theorem useLine_ok (s : State) (t : Nat) (hs : MemOk s) : MemOk (useLine s t) := by
  unfold useLine
  dsimp only
  repeat' (first | with_reducible assumption | with_reducible apply setCore_ok | apply hs | simp only [MemOk_mk] | (intro _ _ _; try dsimp only) | (intro _ _; try dsimp only) | split)
theorem fetching_ok (i : Instr) (t : Tid) (f : State → Out) (s : State) (hf : ∀ s, MemOk s → OutOk (f s)) (hs : MemOk s) : OutOk (fetching i t f s) := by
  unfold fetching
  repeat' (first | with_reducible assumption | with_reducible apply useLine_ok | with_reducible apply turnedAway_ok | with_reducible apply ok_ite | with_reducible apply out_ite | apply hf | apply hs | simp only [MemOk_mk])
theorem issueWith_ok (t : Nat) (gs vs : List Nat) (f : State → State) (s : State) (hf : ∀ s, MemOk s → MemOk (f s)) (hs : MemOk s) : OutOk (issueWith t gs vs f s) := by
  unfold issueWith
  repeat' (first | with_reducible assumption | with_reducible apply countIssue_ok | with_reducible apply stall_ok | with_reducible apply ok_ite | with_reducible apply out_ite | with_reducible apply next_ok | apply hf | apply hs | simp only [MemOk_mk])

end Sys2Proof.Machine
end

