-- ==== Sys2Proof/Laws/WfLink.lean ====
section
/-! SUPPORT. The operations and commands of Machine/Link.lean keep the canonical form of memory. -/

namespace Sys2Proof.Machine

theorem queueCell_ok (s : State) (p : Nat) (c : Cell) (hs : MemOk s) : MemOk (queueCell s p c) := by
  unfold queueCell
  repeat' (first | with_reducible assumption | with_reducible apply setPort_ok | apply hs | simp only [MemOk_mk])
theorem takeAck_ok (s : State) (p : Nat) (ack : BitVec 32) (hs : MemOk s) : MemOk (takeAck s p ack) := by
  unfold takeAck
  repeat' (first | with_reducible assumption | with_reducible apply setPort_ok | apply hs | simp only [MemOk_mk])
theorem queueEverywhere_ok (s : State) (c : Cell) (hs : MemOk s) : MemOk (queueEverywhere s c) := by
  unfold queueEverywhere
  repeat' (first | with_reducible assumption | with_reducible apply queueCell_ok | with_reducible apply ok_ite | with_reducible apply out_ite | with_reducible apply ok_foldl | apply hs | simp only [MemOk_mk] | (intro _ _ _; try dsimp only) | (intro _ _; try dsimp only) | split | dsimp only)

end Sys2Proof.Machine
end

