-- ==== Sys2Proof/Laws/WfTide.lean ====
section
/-! SUPPORT. The operations and commands of Machine/Tide.lean keep the canonical form of memory. -/

namespace Sys2Proof.Machine

theorem setTide_ok (s : State) (t : TideSt) (hs : MemOk s) : MemOk (setTide s t) := by
  unfold setTide
  repeat' (first | with_reducible assumption | apply hs | simp only [MemOk_mk])
theorem setParent_ok (s : State) (p hops : Nat) (hs : MemOk s) : MemOk (setParent s p hops) := by
  unfold setParent
  repeat' (first | with_reducible assumption | with_reducible apply fput_ok | apply hs | simp only [MemOk_mk])
theorem enterFree_ok (s : State) (hs : MemOk s) : MemOk (enterFree s) := by
  unfold enterFree
  repeat' (first | with_reducible assumption | with_reducible apply fput_ok | with_reducible apply setTide_ok | apply hs | simp only [MemOk_mk])
theorem enterLocked_ok (s : State) (hs : MemOk s) : MemOk (enterLocked s) := by
  unfold enterLocked
  repeat' (first | with_reducible assumption | with_reducible apply fput_ok | with_reducible apply setTide_ok | apply hs | simp only [MemOk_mk])
theorem enterHoldover_ok (s : State) (hs : MemOk s) : MemOk (enterHoldover s) := by
  unfold enterHoldover
  repeat' (first | with_reducible assumption | with_reducible apply fput_ok | with_reducible apply setTide_ok | apply hs | simp only [MemOk_mk])
theorem execAcquireEntry_ok (p : PortIx) (parentTime : Word) (parentHops : Nat) (s : State) (hs : MemOk s) : OutOk (execAcquireEntry p parentTime parentHops s) := by
  unfold execAcquireEntry
  repeat' (first | with_reducible assumption | with_reducible apply setTide_ok | with_reducible apply fput_ok | with_reducible apply whenever_ok | with_reducible apply setParent_ok | with_reducible apply ok_ite | with_reducible apply out_ite | apply hs | simp only [MemOk_mk])
theorem lockUpdate_ok (s : State) (o : Int) (hs : MemOk s) : MemOk (lockUpdate s o) := by
  unfold lockUpdate
  dsimp only
  repeat' (first | with_reducible assumption | with_reducible apply setTide_ok | with_reducible apply enterLocked_ok | with_reducible apply enterHoldover_ok | with_reducible apply ok_ite | with_reducible apply out_ite | apply hs | simp only [MemOk_mk] | (intro _ _ _; try dsimp only) | (intro _ _; try dsimp only) | split)
theorem execSteerUpdate_ok (offset : Int) (s : State) (hs : MemOk s) : OutOk (execSteerUpdate offset s) := by
  unfold execSteerUpdate
  repeat' (first | with_reducible assumption | with_reducible apply setTide_ok | with_reducible apply fput_ok | with_reducible apply tookFree_ok | with_reducible apply whenever_ok | with_reducible apply lockUpdate_ok | apply hs | simp only [MemOk_mk])
theorem loseParent_ok (s : State) (hs : MemOk s) : MemOk (loseParent s) := by
  unfold loseParent
  dsimp only
  repeat' (first | with_reducible assumption | with_reducible apply setParent_ok | with_reducible apply enterFree_ok | with_reducible apply enterHoldover_ok | apply hs | simp only [MemOk_mk] | (intro _ _ _; try dsimp only) | (intro _ _; try dsimp only) | split)
theorem takeParent_ok (s : State) (p : Nat) (hs : MemOk s) : MemOk (takeParent s p) := by
  unfold takeParent
  repeat' (first | with_reducible assumption | with_reducible apply setParent_ok | with_reducible apply setTide_ok | with_reducible apply ok_ite | with_reducible apply out_ite | apply hs | simp only [MemOk_mk])
theorem moveParent_ok (s : State) (failed : Nat) (hs : MemOk s) : MemOk (moveParent s failed) := by
  unfold moveParent
  repeat' (first | with_reducible assumption | with_reducible apply takeParent_ok | with_reducible apply loseParent_ok | apply hs | simp only [MemOk_mk] | (intro _ _ _; try dsimp only) | (intro _ _; try dsimp only) | split | dsimp only)
theorem reparent_ok (s : State) (hs : MemOk s) : MemOk (reparent s) := by
  unfold reparent
  repeat' (first | with_reducible assumption | with_reducible apply setParent_ok | with_reducible apply takeParent_ok | with_reducible apply loseParent_ok | with_reducible apply ok_ite | with_reducible apply out_ite | apply hs | simp only [MemOk_mk] | (intro _ _ _; try dsimp only) | (intro _ _; try dsimp only) | split | dsimp only)
theorem execParentLinkFail_ok (p : PortIx) (s : State) (hs : MemOk s) : OutOk (execParentLinkFail p s) := by
  unfold execParentLinkFail
  repeat' (first | with_reducible assumption | with_reducible apply whenever_ok | with_reducible apply moveParent_ok | apply hs | simp only [MemOk_mk])
theorem execTideLoss_ok (s : State) (hs : MemOk s) : OutOk (execTideLoss s) := by
  unfold execTideLoss
  repeat' (first | with_reducible assumption | with_reducible apply whenever_ok | with_reducible apply fatal_ok | with_reducible apply fput_ok | with_reducible apply setTide_ok | apply hs | simp only [MemOk_mk])
theorem scheduleHandover_ok (s : State) (hs : MemOk s) : MemOk (scheduleHandover s) := by
  unfold scheduleHandover
  dsimp only
  repeat' (first | with_reducible assumption | with_reducible apply setTide_ok | apply hs | simp only [MemOk_mk] | (intro _ _ _; try dsimp only) | (intro _ _; try dsimp only) | split)
theorem clearReference_ok (s : State) (x1 : RefInput) (hs : MemOk s) : MemOk (clearReference s x1) := by
  unfold clearReference
  repeat' (first | with_reducible assumption | with_reducible apply fput_ok | apply hs | simp only [MemOk_mk] | (intro _ _ _; try dsimp only) | (intro _ _; try dsimp only) | split | dsimp only)
theorem execReferenceLoss_ok (which : RefInput) (standbyValid : Bool) (s : State) (hs : MemOk s) : OutOk (execReferenceLoss which standbyValid s) := by
  unfold execReferenceLoss
  repeat' (first | with_reducible assumption | with_reducible apply clearReference_ok | with_reducible apply scheduleHandover_ok | with_reducible apply enterFree_ok | with_reducible apply enterHoldover_ok | with_reducible apply turnedAway_ok | with_reducible apply ok_ite | with_reducible apply out_ite | with_reducible apply next_ok | apply hs | simp only [MemOk_mk])
theorem execReferenceRestored_ok (s : State) (hs : MemOk s) : OutOk (execReferenceRestored s) := by
  unfold execReferenceRestored
  repeat' (first | with_reducible assumption | with_reducible apply whenever_ok | with_reducible apply enterLocked_ok | with_reducible apply fput_ok | apply hs | simp only [MemOk_mk])
theorem execLighthouseTimeCellTimeout_ok (s : State) (hs : MemOk s) : OutOk (execLighthouseTimeCellTimeout s) := by
  unfold execLighthouseTimeCellTimeout
  repeat' (first | with_reducible assumption | with_reducible apply whenever_ok | with_reducible apply scheduleHandover_ok | apply hs | simp only [MemOk_mk])
theorem followLinks_ok (s : State) (hs : MemOk s) : MemOk (followLinks s) := by
  unfold followLinks
  repeat' (first | with_reducible assumption | with_reducible apply setParent_ok | with_reducible apply takeParent_ok | with_reducible apply loseParent_ok | with_reducible apply ok_ite | with_reducible apply out_ite | apply hs | simp only [MemOk_mk] | (intro _ _ _; try dsimp only) | (intro _ _; try dsimp only) | split | dsimp only)
theorem handover_ok (s : State) (hs : MemOk s) : MemOk (handover s) := by
  unfold handover
  dsimp only
  repeat' (first | with_reducible assumption | with_reducible apply setTide_ok | with_reducible apply setParent_ok | with_reducible apply fput_ok | with_reducible apply followLinks_ok | with_reducible apply ok_ite | with_reducible apply out_ite | apply hs | simp only [MemOk_mk] | (intro _ _ _; try dsimp only) | (intro _ _; try dsimp only) | split)
theorem execLighthouseHandover_ok (s : State) (hs : MemOk s) : OutOk (execLighthouseHandover s) := by
  unfold execLighthouseHandover
  repeat' (first | with_reducible assumption | with_reducible apply whenever_ok | with_reducible apply handover_ok | apply hs | simp only [MemOk_mk])
theorem execPtpMessageReceive_ok (valid : Bool) (tai : Word) (s : State) (hs : MemOk s) : OutOk (execPtpMessageReceive valid tai s) := by
  unfold execPtpMessageReceive
  repeat' (first | with_reducible assumption | with_reducible apply whenever_ok | with_reducible apply fputBool_ok | with_reducible apply setTide_ok | with_reducible apply ok_ite | with_reducible apply out_ite | apply hs | simp only [MemOk_mk])
theorem execReferenceInputChange_ok (which : RefInput) (valid : Bool) (s : State) (hs : MemOk s) : OutOk (execReferenceInputChange which valid s) := by
  unfold execReferenceInputChange
  repeat' (first | with_reducible assumption | with_reducible apply whenever_ok | with_reducible apply fputBool_ok | apply hs | simp only [MemOk_mk] | (intro _ _ _; try dsimp only) | (intro _ _; try dsimp only) | split | dsimp only)
theorem execTimeCellSend_ok (p : PortIx) (s : State) (hs : MemOk s) : OutOk (execTimeCellSend p s) := by
  unfold execTimeCellSend
  repeat' (first | with_reducible assumption | with_reducible apply whenever_ok | with_reducible apply queueCell_ok | with_reducible apply setPort_ok | apply hs | simp only [MemOk_mk])
theorem takeTime_ok (s : State) (p : Nat) (c : TimeCell) (rxPs : BitVec 16) (hs : MemOk s) : MemOk (takeTime s p c rxPs) := by
  unfold takeTime
  repeat' (first | with_reducible assumption | with_reducible apply setTide_ok | with_reducible apply reparent_ok | with_reducible apply setPort_ok | with_reducible apply ok_ite | with_reducible apply out_ite | apply hs | simp only [MemOk_mk])
theorem execTimeCellReceive_ok (p : PortIx) (wire : List Byte) (fec : Bool) (rxPs : BitVec 16) (s : State) (hs : MemOk s) : OutOk (execTimeCellReceive p wire fec rxPs s) := by
  unfold execTimeCellReceive
  repeat' (first | with_reducible assumption | with_reducible apply whenever_ok | with_reducible apply fcount_ok | with_reducible apply countEvent_ok | with_reducible apply takeTime_ok | with_reducible apply takeAck_ok | with_reducible apply ok_ite | with_reducible apply out_ite | apply hs | simp only [MemOk_mk])

end Sys2Proof.Machine
end

