-- ==== Sys2Proof/Laws/WfSched.lean ====
section
/-! SUPPORT. The operations and commands of Machine/Sched.lean keep the canonical form of memory. -/

namespace Sys2Proof.Machine

theorem reachSlot_ok (s : State) (ep : Epoch) (slot : Nat) (hs : MemOk s) : MemOk (reachSlot s ep slot) := by
  unfold reachSlot
  repeat' (first | with_reducible assumption | with_reducible apply fput_ok | with_reducible apply setTide_ok | with_reducible apply ok_ite | with_reducible apply out_ite | with_reducible apply ok_foldl | apply hs | simp only [MemOk_mk])
theorem passWindows_ok (s : State) (hs : MemOk s) : MemOk (passWindows s) := by
  unfold passWindows
  dsimp only
  repeat' (first | with_reducible assumption | with_reducible apply setCrane_ok | with_reducible apply ok_foldl | apply hs | simp only [MemOk_mk] | (intro _ _ _; try dsimp only) | (intro _ _; try dsimp only) | split)
theorem execSlotBoundary_ok (s : State) (hs : MemOk s) : OutOk (execSlotBoundary s) := by
  unfold execSlotBoundary
  repeat' (first | with_reducible assumption | with_reducible apply turnedAway_ok | with_reducible apply whenever_ok | with_reducible apply reachSlot_ok | with_reducible apply passWindows_ok | apply hs | simp only [MemOk_mk] | (intro _ _ _; try dsimp only) | (intro _ _; try dsimp only) | split | dsimp only)
theorem dropDue_ok (s : State) (kind res : Nat) (hs : MemOk s) : MemOk (dropDue s kind res) := by
  unfold dropDue
  repeat' (first | with_reducible assumption | with_reducible apply setTide_ok | apply hs | simp only [MemOk_mk])
theorem markLate_ok (s : State) (kind res : Nat) (hs : MemOk s) : MemOk (markLate s kind res) := by
  unfold markLate
  repeat' (first | with_reducible assumption | with_reducible apply setTide_ok | with_reducible apply ok_ite | with_reducible apply out_ite | apply hs | simp only [MemOk_mk])
theorem countOverrun_ok (s : State) (hs : MemOk s) : MemOk (countOverrun s) := by
  unfold countOverrun
  repeat' (first | with_reducible assumption | with_reducible apply countEvent_ok | with_reducible apply fcount_ok | apply hs | simp only [MemOk_mk])
theorem passMarker_ok (s : State) (e : Entry) (hs : MemOk s) : MemOk (passMarker s e) := by
  unfold passMarker
  repeat' (first | with_reducible assumption | with_reducible apply dropCutoff_ok | with_reducible apply endStep_ok | with_reducible apply ok_ite | with_reducible apply out_ite | apply hs | simp only [MemOk_mk])
theorem recordRequest_ok (s : State) (r : HoldReq) (hs : MemOk s) : MemOk (recordRequest s r) := by
  unfold recordRequest
  repeat' (first | with_reducible assumption | with_reducible apply queueEverywhere_ok | with_reducible apply setTide_ok | apply hs | simp only [MemOk_mk])
theorem execHoldRequestRaise_ok (kind : EntryKind) (unit : Nat) (stream : BitVec 16) (predicted : Word) (s : State) (hs : MemOk s) : OutOk (execHoldRequestRaise kind unit stream predicted s) := by
  unfold execHoldRequestRaise
  dsimp only
  repeat' (first | with_reducible assumption | with_reducible apply turnedAway_ok | with_reducible apply recordRequest_ok | with_reducible apply setTide_ok | with_reducible apply whenever_ok | with_reducible apply countEvent_ok | with_reducible apply fcount_ok | apply hs | simp only [MemOk_mk] | (intro _ _ _; try dsimp only) | (intro _ _; try dsimp only) | split)
theorem takeRequest_ok (s : State) (r : HoldReq) (hs : MemOk s) : MemOk (takeRequest s r) := by
  unfold takeRequest
  repeat' (first | with_reducible assumption | with_reducible apply fatal_ok | with_reducible apply setTide_ok | with_reducible apply recordRequest_ok | with_reducible apply ok_ite | with_reducible apply out_ite | apply hs | simp only [MemOk_mk])
theorem execHoldLatch_ok (s : State) (hs : MemOk s) : OutOk (execHoldLatch s) := by
  unfold execHoldLatch
  repeat' (first | with_reducible assumption | with_reducible apply setTide_ok | with_reducible apply whenever_ok | with_reducible apply ok_ite | with_reducible apply out_ite | apply hs | simp only [MemOk_mk])
theorem execHoldStart_ok (s : State) (hs : MemOk s) : OutOk (execHoldStart s) := by
  unfold execHoldStart
  dsimp only
  repeat' (first | with_reducible assumption | with_reducible apply turnedAway_ok | with_reducible apply setTide_ok | with_reducible apply fcount_ok | with_reducible apply fput_ok | with_reducible apply whenever_ok | with_reducible apply countItem_ok | with_reducible apply ok_ite | with_reducible apply out_ite | apply hs | simp only [MemOk_mk] | (intro _ _ _; try dsimp only) | (intro _ _; try dsimp only) | split)
theorem execHoldEnd_ok (s : State) (hs : MemOk s) : OutOk (execHoldEnd s) := by
  unfold execHoldEnd
  repeat' (first | with_reducible assumption | with_reducible apply whenever_ok | with_reducible apply fput_ok | apply hs | simp only [MemOk_mk])

end Sys2Proof.Machine
end

