-- ==== Sys2Proof/Laws/WfPortState.lean ====
section
/-! SUPPORT. The operations and commands of Machine/PortState.lean keep the canonical form of memory. -/

namespace Sys2Proof.Machine

theorem setPortState_ok (s : State) (p st : Nat) (hs : MemOk s) : MemOk (setPortState s p st) := by
  unfold setPortState
  repeat' (first | with_reducible assumption | with_reducible apply fput_ok | apply hs | simp only [MemOk_mk])
theorem captureQuay_ok (s : State) (p stream cause : Nat) (hs : MemOk s) : MemOk (captureQuay s p stream cause) := by
  unfold captureQuay
  repeat' (first | with_reducible assumption | with_reducible apply fput_ok | with_reducible apply ok_ite | with_reducible apply out_ite | apply hs | simp only [MemOk_mk])
theorem quayFault_ok (s : State) (p stream cause : Nat) (hs : MemOk s) : MemOk (quayFault s p stream cause) := by
  unfold quayFault
  repeat' (first | with_reducible assumption | with_reducible apply fatal_ok | with_reducible apply captureQuay_ok | apply hs | simp only [MemOk_mk])
theorem leftService_ok (was : Bool) (s : State) (p : Nat) (hs : MemOk s) : MemOk (leftService was s p) := by
  unfold leftService
  repeat' (first | with_reducible assumption | with_reducible apply fatal_ok | with_reducible apply captureQuay_ok | with_reducible apply ok_ite | with_reducible apply out_ite | apply hs | simp only [MemOk_mk] | (intro _ _ _; try dsimp only) | (intro _ _; try dsimp only) | split | dsimp only)
theorem enterDown_ok (s : State) (p : Nat) (hs : MemOk s) : MemOk (enterDown s p) := by
  unfold enterDown
  repeat' (first | with_reducible assumption | with_reducible apply setPortState_ok | with_reducible apply setPort_ok | apply hs | simp only [MemOk_mk])
theorem enterFailed_ok (s : State) (p : Nat) (hs : MemOk s) : MemOk (enterFailed s p) := by
  unfold enterFailed
  repeat' (first | with_reducible assumption | with_reducible apply setPortState_ok | with_reducible apply leftService_ok | with_reducible apply setPort_ok | apply hs | simp only [MemOk_mk])
theorem enterService_ok (s : State) (p : Nat) (hs : MemOk s) : MemOk (enterService s p) := by
  unfold enterService
  repeat' (first | with_reducible assumption | with_reducible apply reparent_ok | with_reducible apply setPortState_ok | apply hs | simp only [MemOk_mk])
theorem enterQuarantine_ok (s : State) (p : Nat) (hs : MemOk s) : MemOk (enterQuarantine s p) := by
  unfold enterQuarantine
  repeat' (first | with_reducible assumption | with_reducible apply fput_ok | with_reducible apply setPortState_ok | apply hs | simp only [MemOk_mk])
theorem commitPort_ok (before s : State) (p : Nat) (hbefore : MemOk before) (hs : MemOk s) : MemOk (commitPort before s p) := by
  unfold commitPort
  repeat' (first | with_reducible assumption | with_reducible apply setPort_ok | with_reducible apply setPortState_ok | with_reducible apply enterDown_ok | with_reducible apply enterQuarantine_ok | with_reducible apply enterService_ok | with_reducible apply ok_ite | with_reducible apply out_ite | apply hbefore | apply hs | simp only [MemOk_mk])

end Sys2Proof.Machine
end

