-- ==== Sys2Proof/Laws/WfPower.lean ====
section
/-! SUPPORT. The operations and commands of Machine/Power.lean keep the canonical form of memory. -/

namespace Sys2Proof.Machine

theorem setSec_ok (s : State) (x : SecSt) (hs : MemOk s) : MemOk (setSec s x) := by
  unfold setSec
  repeat' (first | with_reducible assumption | apply hs | simp only [MemOk_mk])
theorem setHost_ok (s : State) (x : HostSt) (hs : MemOk s) : MemOk (setHost s x) := by
  unfold setHost
  repeat' (first | with_reducible assumption | apply hs | simp only [MemOk_mk])
theorem setPwr_ok (s : State) (v : Nat) (hs : MemOk s) : MemOk (setPwr s v) := by
  unfold setPwr
  repeat' (first | with_reducible assumption | with_reducible apply fput_ok | apply hs | simp only [MemOk_mk])
theorem startStanddown_ok (s : State) (hs : MemOk s) : MemOk (startStanddown s) := by
  unfold startStanddown
  repeat' (first | with_reducible assumption | with_reducible apply setPwr_ok | apply hs | simp only [MemOk_mk])
theorem rampDown_ok (s : State) (hs : MemOk s) : MemOk (rampDown s) := by
  unfold rampDown
  repeat' (first | with_reducible assumption | with_reducible apply setPwr_ok | with_reducible apply ok_ite | with_reducible apply out_ite | apply hs | simp only [MemOk_mk])
theorem rampUp_ok (s : State) (hs : MemOk s) : MemOk (rampUp s) := by
  unfold rampUp
  repeat' (first | with_reducible assumption | with_reducible apply setPwr_ok | apply hs | simp only [MemOk_mk])
theorem endRampDown_ok (s : State) (hs : MemOk s) : MemOk (endRampDown s) := by
  unfold endRampDown
  repeat' (first | with_reducible assumption | with_reducible apply startStanddown_ok | with_reducible apply setPwr_ok | with_reducible apply ok_ite | with_reducible apply out_ite | with_reducible apply fault_ok | apply hs | simp only [MemOk_mk])
theorem unpowered_ok (s : State) (hs : MemOk s) : MemOk (unpowered s) := ⟨rfl⟩
theorem logFault_ok (s : State) (cause : Nat) (hs : MemOk s) : MemOk (logFault s cause) := by
  unfold logFault
  repeat' (first | with_reducible assumption | with_reducible apply setSec_ok | with_reducible apply fault_ok | apply hs | simp only [MemOk_mk])
theorem cutWith_ok (s : State) (cause : Nat) (hs : MemOk s) : MemOk (cutWith s cause) := by
  unfold cutWith
  repeat' (first | with_reducible assumption | with_reducible apply unpowered_ok | with_reducible apply logFault_ok | with_reducible apply ok_ite | with_reducible apply out_ite | apply hs | simp only [MemOk_mk])
theorem capturePwr_ok (s : State) (cause : Nat) (hs : MemOk s) : MemOk (capturePwr s cause) := by
  unfold capturePwr
  repeat' (first | with_reducible assumption | with_reducible apply fput_ok | with_reducible apply ok_ite | with_reducible apply out_ite | apply hs | simp only [MemOk_mk])
theorem powerFault_ok (s : State) (cause die : Nat) (hs : MemOk s) : MemOk (powerFault s cause die) := by
  unfold powerFault
  repeat' (first | with_reducible assumption | with_reducible apply capturePwr_ok | with_reducible apply logFault_ok | with_reducible apply fatal_ok | with_reducible apply setSec_ok | with_reducible apply startStanddown_ok | with_reducible apply rampDown_ok | with_reducible apply ok_ite | with_reducible apply out_ite | apply hs | simp only [MemOk_mk])
theorem execPowerApply_ok (centivolts : Nat) (s : State) (hs : MemOk s) : OutOk (execPowerApply centivolts s) := by
  unfold execPowerApply
  repeat' (first | with_reducible assumption | with_reducible apply whenever_ok | with_reducible apply setSec_ok | apply hs | simp only [MemOk_mk])
theorem execInputUndervoltage_ok (centivolts : Nat) (s : State) (hs : MemOk s) : OutOk (execInputUndervoltage centivolts s) := by
  unfold execInputUndervoltage
  repeat' (first | with_reducible assumption | with_reducible apply cutWith_ok | with_reducible apply setSec_ok | with_reducible apply whenever_ok | with_reducible apply ok_ite | with_reducible apply out_ite | apply hs | simp only [MemOk_mk])
theorem execInputOvervoltage_ok (centivolts : Nat) (forOneMs : Bool) (s : State) (hs : MemOk s) : OutOk (execInputOvervoltage centivolts forOneMs s) := by
  unfold execInputOvervoltage
  repeat' (first | with_reducible assumption | with_reducible apply whenever_ok | with_reducible apply cutWith_ok | with_reducible apply setSec_ok | with_reducible apply ok_ite | with_reducible apply out_ite | with_reducible apply fault_ok | apply hs | simp only [MemOk_mk])
theorem execReversePolarity_ok (centivolts : Nat) (s : State) (hs : MemOk s) : OutOk (execReversePolarity centivolts s) := by
  unfold execReversePolarity
  repeat' (first | with_reducible assumption | with_reducible apply unpowered_ok | with_reducible apply logFault_ok | with_reducible apply setSec_ok | with_reducible apply ok_ite | with_reducible apply out_ite | with_reducible apply next_ok | with_reducible apply fault_ok | apply hs | simp only [MemOk_mk])
theorem execSensePinOpen_ok (watts : Nat) (s : State) (hs : MemOk s) : OutOk (execSensePinOpen watts s) := by
  unfold execSensePinOpen
  repeat' (first | with_reducible assumption | with_reducible apply logFault_ok | with_reducible apply unpowered_ok | with_reducible apply setSec_ok | with_reducible apply ok_ite | with_reducible apply out_ite | with_reducible apply next_ok | apply hs | simp only [MemOk_mk])
theorem execRailShort_ok (s : State) (hs : MemOk s) : OutOk (execRailShort s) := by
  unfold execRailShort
  repeat' (first | with_reducible assumption | with_reducible apply whenever_ok | with_reducible apply cutWith_ok | apply hs | simp only [MemOk_mk])
theorem putDieTemp_ok (s : State) (d : Die) (c : Nat) (hs : MemOk s) : MemOk (putDieTemp s d c) := by
  unfold putDieTemp
  repeat' (first | with_reducible assumption | with_reducible apply fput_ok | with_reducible apply ok_ite | with_reducible apply out_ite | apply hs | simp only [MemOk_mk])
theorem execDieOvertemp_ok (die : Die) (celsius : Nat) (s : State) (hs : MemOk s) : OutOk (execDieOvertemp die celsius s) := by
  unfold execDieOvertemp
  repeat' (first | with_reducible assumption | with_reducible apply whenever_ok | with_reducible apply powerFault_ok | with_reducible apply putDieTemp_ok | apply hs | simp only [MemOk_mk])
theorem execDieCriticalTemp_ok (die : Die) (celsius : Nat) (s : State) (hs : MemOk s) : OutOk (execDieCriticalTemp die celsius s) := by
  unfold execDieCriticalTemp
  repeat' (first | with_reducible assumption | with_reducible apply whenever_ok | with_reducible apply cutWith_ok | with_reducible apply putDieTemp_ok | apply hs | simp only [MemOk_mk])
theorem execCoolantFlowLow_ok (flow : Nat) (s : State) (hs : MemOk s) : OutOk (execCoolantFlowLow flow s) := by
  unfold execCoolantFlowLow
  repeat' (first | with_reducible assumption | with_reducible apply whenever_ok | with_reducible apply powerFault_ok | with_reducible apply fput_ok | apply hs | simp only [MemOk_mk])
theorem execCoolantInletHigh_ok (celsius : Nat) (s : State) (hs : MemOk s) : OutOk (execCoolantInletHigh celsius s) := by
  unfold execCoolantInletHigh
  repeat' (first | with_reducible assumption | with_reducible apply whenever_ok | with_reducible apply powerFault_ok | with_reducible apply fput_ok | apply hs | simp only [MemOk_mk])
theorem execThermalWarning_ok (celsius : Nat) (s : State) (hs : MemOk s) : OutOk (execThermalWarning celsius s) := by
  unfold execThermalWarning
  repeat' (first | with_reducible assumption | with_reducible apply whenever_ok | with_reducible apply fput_ok | apply hs | simp only [MemOk_mk])
theorem writeStanddown_ok (s : State) (hs : MemOk s) : MemOk (writeStanddown s) := by
  unfold writeStanddown
  repeat' (first | with_reducible assumption | with_reducible apply fput_ok | with_reducible apply startStanddown_ok | with_reducible apply ok_ite | with_reducible apply out_ite | apply hs | simp only [MemOk_mk])
theorem execPwrStanddown_ok (s : State) (hs : MemOk s) : OutOk (execPwrStanddown s) := by
  unfold execPwrStanddown
  repeat' (first | with_reducible assumption | with_reducible apply writeStanddown_ok | with_reducible apply next_ok | apply hs | simp only [MemOk_mk])
theorem setEngine_ok (s : State) (e : Nat) (on : Bool) (hs : MemOk s) : MemOk (setEngine s e on) := by
  unfold setEngine
  dsimp only
  repeat' (first | with_reducible assumption | with_reducible apply setSec_ok | with_reducible apply setPort_ok | with_reducible apply ok_foldl | apply hs | simp only [MemOk_mk] | (intro _ _ _; try dsimp only) | (intro _ _; try dsimp only) | split)
theorem portDown_ok (s : State) (p : Nat) (hs : MemOk s) : MemOk (portDown s p) := by
  unfold portDown
  repeat' (first | with_reducible assumption | with_reducible apply leftService_ok | with_reducible apply enterDown_ok | with_reducible apply ok_ite | with_reducible apply out_ite | apply hs | simp only [MemOk_mk])
theorem dropEngine_ok (s : State) (e : Nat) (hs : MemOk s) : MemOk (dropEngine s e) := by
  unfold dropEngine
  repeat' (first | with_reducible assumption | with_reducible apply portDown_ok | with_reducible apply setEngine_ok | with_reducible apply ok_foldl | apply hs | simp only [MemOk_mk] | (intro _ _ _; try dsimp only) | (intro _ _; try dsimp only) | split | dsimp only)
theorem dropPeripherals_ok (s : State) (hs : MemOk s) : MemOk (dropPeripherals s) := by
  unfold dropPeripherals
  dsimp only
  simp only [MemOk_mk]
  repeat' (first | with_reducible assumption | with_reducible apply ok_foldl | with_reducible apply fput_ok | intro _ _ _)
theorem leavePhase_ok (s : State) (p : Nat) (hs : MemOk s) : MemOk (leavePhase s p) := by
  unfold leavePhase
  repeat' (first | with_reducible assumption | with_reducible apply dropEngine_ok | with_reducible apply dropPeripherals_ok | with_reducible apply ok_ite | with_reducible apply out_ite | with_reducible apply ok_foldl | apply hs | simp only [MemOk_mk])
theorem enterOff_ok (s : State) (hs : MemOk s) : MemOk (enterOff s) := by
  unfold enterOff
  repeat' (first | with_reducible assumption | with_reducible apply unpowered_ok | with_reducible apply setPwr_ok | with_reducible apply setSec_ok | apply hs | simp only [MemOk_mk])
theorem execStanddownStage_ok (s : State) (hs : MemOk s) : OutOk (execStanddownStage s) := by
  unfold execStanddownStage
  repeat' (first | with_reducible assumption | with_reducible apply setSec_ok | with_reducible apply leavePhase_ok | with_reducible apply whenever_ok | with_reducible apply enterOff_ok | with_reducible apply ok_ite | with_reducible apply out_ite | apply hs | simp only [MemOk_mk])
theorem beginS1_ok (s : State) (hs : MemOk s) : MemOk (beginS1 s) := by
  unfold beginS1
  repeat' (first | with_reducible assumption | with_reducible apply fput_ok | apply hs | simp only [MemOk_mk])
theorem nextPhase_ok (s : State) (hs : MemOk s) : MemOk (nextPhase s) := by
  unfold nextPhase
  dsimp only
  repeat' (first | with_reducible assumption | with_reducible apply setSec_ok | with_reducible apply beginS1_ok | with_reducible apply setEngine_ok | with_reducible apply ok_ite | with_reducible apply out_ite | with_reducible apply ok_foldl | apply hs | simp only [MemOk_mk] | (intro _ _ _; try dsimp only) | (intro _ _; try dsimp only) | split)
theorem execPowerPhaseAdvance_ok (s : State) (hs : MemOk s) : OutOk (execPowerPhaseAdvance s) := by
  unfold execPowerPhaseAdvance
  repeat' (first | with_reducible assumption | with_reducible apply whenever_ok | with_reducible apply nextPhase_ok | apply hs | simp only [MemOk_mk])

end Sys2Proof.Machine
end

