-- ==== Sys2Proof/Laws/WfRegMap.lean ====
section
/-! SUPPORT. The operations and commands of Machine/RegMap.lean keep the canonical form of memory. -/

namespace Sys2Proof.Machine

theorem violation_ok (s : State) (t kind addr : Nat) (hs : MemOk s) : MemOk (violation s t kind addr) := by
  unfold violation
  repeat' (first | with_reducible assumption | with_reducible apply fcount_ok | with_reducible apply fput_ok | with_reducible apply ok_ite | with_reducible apply out_ite | apply hs | simp only [MemOk_mk])
theorem writeFields_ok (s : State) (fw : Bool) (v m hwSet hwClear : Nat) (x1 : List Field) (hs : MemOk s) : MemOk (writeFields s fw v m hwSet hwClear x1) := by
  induction x1 generalizing s with
  | nil => exact hs
  | cons y rest ih =>
    unfold writeFields
    apply ih
    repeat' (first | with_reducible assumption | with_reducible apply fput_ok)
theorem writePerf_ok (s : State) (x v m hwSet : Nat) (hs : MemOk s) : MemOk (writePerf s x v m hwSet) := by
  unfold writePerf
  repeat' (first | with_reducible assumption | with_reducible apply ok_ite | with_reducible apply out_ite | with_reducible apply ok_foldl | apply hs | simp only [MemOk_mk])

end Sys2Proof.Machine
end

