-- ==== Sys2Proof/Laws/WfStage.lean ====
section
/-! SUPPORT. The operations and commands of Machine/Stage.lean keep the canonical form of memory. -/

namespace Sys2Proof.Machine

theorem shadowPut_ok (s : State) (f : Field) (v : Nat) (hs : MemOk s) : MemOk (shadowPut s f v) := by
  unfold shadowPut
  repeat' (first | with_reducible assumption | apply hs | simp only [MemOk_mk])
theorem shadowFields_ok (s : State) (v m : Nat) (x1 : List Field) (hs : MemOk s) : MemOk (shadowFields s v m x1) := by
  induction x1 generalizing s with
  | nil => exact hs
  | cons y rest ih =>
    unfold shadowFields
    apply ih
    repeat' (first | with_reducible assumption | with_reducible apply shadowPut_ok)
theorem writeShadow_ok (s : State) (x v m : Nat) (hs : MemOk s) : MemOk (writeShadow s x v m) := by
  unfold writeShadow
  repeat' (first | with_reducible assumption | with_reducible apply ignoreShadow_ok | with_reducible apply shadowTaken_ok | with_reducible apply shadowFields_ok | with_reducible apply ok_ite | with_reducible apply out_ite | apply hs | simp only [MemOk_mk])
theorem execShadowWrite_ok (off : BitVec 26) (value : Word) (s : State) (hs : MemOk s) : OutOk (execShadowWrite off value s) := by
  unfold execShadowWrite
  repeat' (first | with_reducible assumption | with_reducible apply whenever_ok | with_reducible apply writeShadow_ok | apply hs | simp only [MemOk_mk])
theorem refuseStage_ok (s : State) (hs : MemOk s) : MemOk (refuseStage s) := by
  unfold refuseStage
  repeat' (first | with_reducible assumption | with_reducible apply fput_ok | apply hs | simp only [MemOk_mk])
theorem ignoredCtrl_ok (s : State) (x1 : Agent) (hs : MemOk s) : MemOk (ignoredCtrl s x1) := by
  unfold ignoredCtrl
  repeat' (first | with_reducible assumption | with_reducible apply violation_ok | apply hs | simp only [MemOk_mk] | (intro _ _ _; try dsimp only) | (intro _ _; try dsimp only) | split | dsimp only)
theorem startCheck_ok (s : State) (who : Agent) (groups : BitVec 5) (hs : MemOk s) : MemOk (startCheck s who groups) := by
  unfold startCheck
  repeat' (first | with_reducible assumption | with_reducible apply refuseStage_ok | with_reducible apply fput_ok | with_reducible apply setStage_ok | with_reducible apply ok_ite | with_reducible apply out_ite | apply hs | simp only [MemOk_mk])
theorem execStageCheck_ok (who : Agent) (groups : BitVec 5) (s : State) (hs : MemOk s) : OutOk (execStageCheck who groups s) := by
  unfold execStageCheck
  repeat' (first | with_reducible assumption | with_reducible apply ignoredCtrl_ok | with_reducible apply refuseStage_ok | with_reducible apply startCheck_ok | with_reducible apply fput_ok | with_reducible apply ok_ite | with_reducible apply out_ite | with_reducible apply next_ok | apply hs | simp only [MemOk_mk])
theorem finishCheck_ok (s : State) (hs : MemOk s) : MemOk (finishCheck s) := by
  unfold finishCheck
  repeat' (first | with_reducible assumption | with_reducible apply fput_ok | with_reducible apply setStage_ok | with_reducible apply ok_ite | with_reducible apply out_ite | apply hs | simp only [MemOk_mk])
theorem checkImage_ok (s : State) (hs : MemOk s) : MemOk (checkImage s) := by
  unfold checkImage
  repeat' (first | with_reducible assumption | with_reducible apply startCheck_ok | with_reducible apply finishCheck_ok | apply hs | simp only [MemOk_mk])
theorem execStageCheckComplete_ok (s : State) (hs : MemOk s) : OutOk (execStageCheckComplete s) := by
  unfold execStageCheckComplete
  repeat' (first | with_reducible assumption | with_reducible apply whenever_ok | with_reducible apply finishCheck_ok | apply hs | simp only [MemOk_mk])
theorem refuseInstant_ok (s : State) (gs : Nat) (hs : MemOk s) : MemOk (refuseInstant s gs) := by
  unfold refuseInstant
  repeat' (first | with_reducible assumption | with_reducible apply fput_ok | apply hs | simp only [MemOk_mk])
theorem armStage_ok (s : State) (who : Agent) (hs : MemOk s) : MemOk (armStage s who) := by
  unfold armStage
  repeat' (first | with_reducible assumption | with_reducible apply refuseStage_ok | with_reducible apply refuseInstant_ok | with_reducible apply setStage_ok | with_reducible apply ok_ite | with_reducible apply out_ite | apply hs | simp only [MemOk_mk])
theorem abortStage_ok (s : State) (who : Agent) (hs : MemOk s) : MemOk (abortStage s who) := by
  unfold abortStage
  repeat' (first | with_reducible assumption | with_reducible apply refuseStage_ok | with_reducible apply setStage_ok | with_reducible apply ok_ite | with_reducible apply out_ite | apply hs | simp only [MemOk_mk])
theorem execStageArm_ok (who : Agent) (s : State) (hs : MemOk s) : OutOk (execStageArm who s) := by
  unfold execStageArm
  repeat' (first | with_reducible assumption | with_reducible apply armStage_ok | with_reducible apply next_ok | apply hs | simp only [MemOk_mk])
theorem execStageAbort_ok (who : Agent) (s : State) (hs : MemOk s) : OutOk (execStageAbort who s) := by
  unfold execStageAbort
  repeat' (first | with_reducible assumption | with_reducible apply abortStage_ok | with_reducible apply next_ok | apply hs | simp only [MemOk_mk])
theorem activate_ok (s : State) (x1 : List Field) (hs : MemOk s) : MemOk (activate s x1) := by
  induction x1 generalizing s with
  | nil => exact hs
  | cons y rest ih => exact ih _ ((MemOk_mk _ ..).2 (fput_ok s y (shadowGet s y) hs))
theorem commitRouting_ok (s : State) (hs : MemOk s) : MemOk (commitRouting s) := by
  unfold commitRouting
  repeat' (first | with_reducible assumption | with_reducible apply reparent_ok | with_reducible apply commitPort_ok | with_reducible apply activate_ok | with_reducible apply ok_foldl | apply hs | simp only [MemOk_mk] | (intro _ _ _; try dsimp only) | (intro _ _; try dsimp only) | split | dsimp only)
theorem commitEpoch_ok (s : State) (hs : MemOk s) : MemOk (commitEpoch s) := by
  unfold commitEpoch
  dsimp only
  repeat' (first | with_reducible assumption | with_reducible apply activate_ok | with_reducible apply fput_ok | with_reducible apply setTide_ok | apply hs | simp only [MemOk_mk] | (intro _ _ _; try dsimp only) | (intro _ _; try dsimp only) | split)
theorem commitClock_ok (s : State) (hs : MemOk s) : MemOk (commitClock s) := by
  unfold commitClock
  repeat' (first | with_reducible assumption | with_reducible apply activate_ok | with_reducible apply fput_ok | with_reducible apply setParent_ok | with_reducible apply followLinks_ok | with_reducible apply reparent_ok | with_reducible apply ok_ite | with_reducible apply out_ite | apply hs | simp only [MemOk_mk])
theorem commitGroups_ok (s : State) (hs : MemOk s) : MemOk (commitGroups s) := by
  unfold commitGroups
  repeat' (first | with_reducible assumption | with_reducible apply commitRouting_ok | with_reducible apply commitEpoch_ok | with_reducible apply activate_ok | with_reducible apply commitClock_ok | with_reducible apply exchangeTables_ok | with_reducible apply setStage_ok | with_reducible apply ok_ite | with_reducible apply out_ite | apply hs | simp only [MemOk_mk])
theorem execStageCommit_ok (s : State) (hs : MemOk s) : OutOk (execStageCommit s) := by
  unfold execStageCommit
  repeat' (first | with_reducible assumption | with_reducible apply whenever_ok | with_reducible apply commitGroups_ok | apply hs | simp only [MemOk_mk])

end Sys2Proof.Machine
end

