-- ==== Sys2Proof/Laws/WfTrust.lean ====
section
/-! SUPPORT. The operations and commands of Machine/Trust.lean keep the canonical form of memory. -/

namespace Sys2Proof.Machine

theorem putFlash_ok (s : State) (a : Nat) (bs : List Byte) (hs : MemOk s) : MemOk (putFlash s a bs) := by
  unfold putFlash
  repeat' (first | with_reducible assumption | with_reducible apply setSec_ok | with_reducible apply ok_foldl | apply hs | simp only [MemOk_mk])
theorem extendM_ok (s : State) (k : Nat) (d : List Byte) (hs : MemOk s) : MemOk (extendM s k d) := by
  unfold extendM
  dsimp only
  repeat' (first | with_reducible assumption | with_reducible apply fput_ok | with_reducible apply ok_foldl | apply hs | simp only [MemOk_mk] | (intro _ _ _; try dsimp only) | (intro _ _; try dsimp only) | split)
theorem writeExtGo_ok (s : State) (k : Nat) (hs : MemOk s) : MemOk (writeExtGo s k) := by
  unfold writeExtGo
  repeat' (first | with_reducible assumption | with_reducible apply extendM_ok | with_reducible apply fput_ok | apply hs | simp only [MemOk_mk])
theorem execSecExtGo_ok (index : Fin 4) (s : State) (hs : MemOk s) : OutOk (execSecExtGo index s) := by
  unfold execSecExtGo
  repeat' (first | with_reducible assumption | with_reducible apply writeExtGo_ok | with_reducible apply next_ok | apply hs | simp only [MemOk_mk])
theorem setBootStage_ok (s : State) (v : Nat) (hs : MemOk s) : MemOk (setBootStage s v) := by
  unfold setBootStage
  repeat' (first | with_reducible assumption | with_reducible apply fput_ok | apply hs | simp only [MemOk_mk])
theorem failBoot_ok (s : State) (code : Nat) (hs : MemOk s) : MemOk (failBoot s code) := by
  unfold failBoot
  repeat' (first | with_reducible assumption | with_reducible apply setSec_ok | with_reducible apply fput_ok | apply hs | simp only [MemOk_mk])
theorem bootRom_ok (s : State) (hs : MemOk s) : MemOk (bootRom s) := by
  unfold bootRom
  repeat' (first | with_reducible assumption | with_reducible apply extendM_ok | with_reducible apply setSec_ok | with_reducible apply setBootStage_ok | with_reducible apply fputBool_ok | with_reducible apply failBoot_ok | with_reducible apply ok_ite | with_reducible apply out_ite | apply hs | simp only [MemOk_mk])
theorem execRomCoreTestTimeout_ok (s : State) (hs : MemOk s) : OutOk (execRomCoreTestTimeout s) := by
  unfold execRomCoreTestTimeout
  repeat' (first | with_reducible assumption | with_reducible apply whenever_ok | with_reducible apply fput_ok | with_reducible apply setSec_ok | with_reducible apply ok_ite | with_reducible apply out_ite | apply hs | simp only [MemOk_mk])
theorem setRetired_ok (s : State) (d : Nat) (l : List Nat) (hs : MemOk s) : MemOk (setRetired s d l) := by
  unfold setRetired
  repeat' (first | with_reducible assumption | with_reducible apply ok_ite | with_reducible apply out_ite | apply hs | simp only [MemOk_mk])
theorem setQueued_ok (s : State) (d : Nat) (l : List Nat) (hs : MemOk s) : MemOk (setQueued s d l) := by
  unfold setQueued
  repeat' (first | with_reducible assumption | with_reducible apply ok_ite | with_reducible apply out_ite | apply hs | simp only [MemOk_mk])
theorem showRetired_ok (s : State) (hs : MemOk s) : MemOk (showRetired s) := by
  unfold showRetired
  repeat' (first | with_reducible assumption | with_reducible apply fput_ok | apply hs | simp only [MemOk_mk])
theorem retirePage_ok (s : State) (d page : Nat) (hs : MemOk s) : MemOk (retirePage s d page) := by
  unfold retirePage
  repeat' (first | with_reducible assumption | with_reducible apply showRetired_ok | with_reducible apply setQueued_ok | with_reducible apply setRetired_ok | with_reducible apply ok_ite | with_reducible apply out_ite | apply hs | simp only [MemOk_mk])
theorem noteRepair_ok (s : State) (e : RepairEntry) (hs : MemOk s) : MemOk (noteRepair s e) := by
  unfold noteRepair
  repeat' (first | with_reducible assumption | with_reducible apply setSec_ok | with_reducible apply ok_ite | with_reducible apply out_ite | apply hs | simp only [MemOk_mk])
theorem applyEntry_ok (s : State) (e : RepairEntry) (hs : MemOk s) : MemOk (applyEntry s e) := by
  unfold applyEntry
  dsimp only
  repeat' (first | with_reducible assumption | with_reducible apply noteRepair_ok | with_reducible apply fput_ok | with_reducible apply fputBool_ok | with_reducible apply retirePage_ok | apply hs | simp only [MemOk_mk] | (intro _ _ _; try dsimp only) | (intro _ _; try dsimp only) | split)
theorem writeOneRepair_ok (measured : Bool) (s : State) (es : List RepairEntry) (hs : MemOk s) : MemOk (writeOneRepair measured s es) := by
  unfold writeOneRepair
  repeat' (first | with_reducible assumption | with_reducible apply fput_ok | with_reducible apply tookFree_ok | with_reducible apply fcount_ok | with_reducible apply putFlash_ok | with_reducible apply extendM_ok | with_reducible apply ok_ite | with_reducible apply out_ite | apply hs | simp only [MemOk_mk])
theorem writeRepair_ok (s : State) (es : List RepairEntry) (measured : Bool) (hs : MemOk s) : MemOk (writeRepair s es measured) := by
  unfold writeRepair
  repeat' (first | with_reducible assumption | with_reducible apply writeOneRepair_ok | with_reducible apply ok_foldl | apply hs | simp only [MemOk_mk])
theorem writeFound_ok (s : State) (hs : MemOk s) : MemOk (writeFound s) := by
  unfold writeFound
  repeat' (first | with_reducible assumption | with_reducible apply writeRepair_ok | with_reducible apply setSec_ok | with_reducible apply ok_ite | with_reducible apply out_ite | apply hs | simp only [MemOk_mk])
theorem foundLane_ok (s : State) (p lane : Nat) (hs : MemOk s) : MemOk (foundLane s p lane) := by
  unfold foundLane
  repeat' (first | with_reducible assumption | with_reducible apply writeFound_ok | with_reducible apply setSec_ok | apply hs | simp only [MemOk_mk])
theorem readSerials_ok (s : State) (l : List Nat) (hs : MemOk s) : MemOk (readSerials s l) := by
  unfold readSerials
  repeat' (first | with_reducible assumption | with_reducible apply setSec_ok | apply hs | simp only [MemOk_mk])
theorem fitEngine_ok (s : State) (e : Nat) (serial : Word) (hs : MemOk s) : MemOk (fitEngine s e serial) := by
  unfold fitEngine
  dsimp only
  repeat' (first | with_reducible assumption | with_reducible apply setSec_ok | with_reducible apply fputBool_ok | with_reducible apply fput_ok | with_reducible apply ok_foldl | apply hs | simp only [MemOk_mk] | (intro _ _ _; try dsimp only) | (intro _ _; try dsimp only) | split)
theorem bootHold_ok (s : State) (o : BootObs) (hs : MemOk s) : MemOk (bootHold s o) := by
  unfold bootHold
  repeat' (first | with_reducible assumption | with_reducible apply fput_ok | with_reducible apply setBootStage_ok | with_reducible apply failBoot_ok | with_reducible apply ok_ite | with_reducible apply out_ite | apply hs | simp only [MemOk_mk])
theorem bootRepairs_ok (s : State) (o : BootObs) (hs : MemOk s) : MemOk (bootRepairs s o) := by
  unfold bootRepairs
  dsimp only
  repeat' (first | with_reducible assumption | with_reducible apply readSerials_ok | with_reducible apply fput_ok | with_reducible apply failBoot_ok | with_reducible apply extendM_ok | with_reducible apply setBootStage_ok | with_reducible apply applyEntry_ok | with_reducible apply ok_ite | with_reducible apply out_ite | with_reducible apply ok_foldl | apply hs | simp only [MemOk_mk] | (intro _ _ _; try dsimp only) | (intro _ _; try dsimp only) | split)
theorem bootSelfTest_ok (s : State) (o : BootObs) (hs : MemOk s) : MemOk (bootSelfTest s o) := by
  unfold bootSelfTest
  repeat' (first | with_reducible assumption | with_reducible apply writeRepair_ok | with_reducible apply applyEntry_ok | with_reducible apply setBootStage_ok | with_reducible apply failBoot_ok | with_reducible apply ok_ite | with_reducible apply out_ite | with_reducible apply ok_foldl | with_reducible apply fault_ok | apply hs | simp only [MemOk_mk])
theorem bootIdentity_ok (s : State) (hs : MemOk s) : MemOk (bootIdentity s) := by
  unfold bootIdentity
  repeat' (first | with_reducible assumption | with_reducible apply setSec_ok | with_reducible apply setBootStage_ok | with_reducible apply failBoot_ok | with_reducible apply ok_ite | with_reducible apply out_ite | apply hs | simp only [MemOk_mk])
theorem startFirmware_ok (s : State) (t n : Nat) (hs : MemOk s) : MemOk (startFirmware s t n) := by
  unfold startFirmware
  repeat' (first | with_reducible assumption | with_reducible apply setThread_ok | with_reducible apply ok_ite | with_reducible apply out_ite | apply hs | simp only [MemOk_mk])
theorem startRuntime_ok (s : State) (hs : MemOk s) : MemOk (startRuntime s) := by
  unfold startRuntime
  repeat' (first | with_reducible assumption | with_reducible apply tookFree_ok | with_reducible apply startFirmware_ok | with_reducible apply ok_foldl | apply hs | simp only [MemOk_mk] | (intro _ _ _; try dsimp only) | (intro _ _; try dsimp only) | split | dsimp only)
theorem bootRuntime_ok (s : State) (hs : MemOk s) : MemOk (bootRuntime s) := by
  unfold bootRuntime
  dsimp only
  repeat' (first | with_reducible assumption | with_reducible apply failBoot_ok | with_reducible apply fput_ok | with_reducible apply extendM_ok | with_reducible apply setBootStage_ok | with_reducible apply startRuntime_ok | with_reducible apply ok_ite | with_reducible apply out_ite | apply hs | simp only [MemOk_mk] | (intro _ _ _; try dsimp only) | (intro _ _; try dsimp only) | split)
theorem stageReg_ok (s : State) (x v : Nat) (hs : MemOk s) : MemOk (stageReg s x v) := by
  unfold stageReg
  repeat' (first | with_reducible assumption | with_reducible apply writeShadow_ok | apply hs | simp only [MemOk_mk])
theorem stageHall_ok (s : State) (r : List Byte) (hs : MemOk s) : MemOk (stageHall s r) := by
  unfold stageHall
  dsimp only
  repeat' (first | with_reducible assumption | with_reducible apply stageReg_ok | with_reducible apply ok_foldl | apply hs | simp only [MemOk_mk] | (intro _ _ _; try dsimp only) | (intro _ _; try dsimp only) | split)
theorem firmwareCommit_ok (s : State) (groups : BitVec 5) (hs : MemOk s) : MemOk (firmwareCommit s groups).1 := by
  unfold firmwareCommit
  dsimp only
  split
  · exact armStage_ok _ _ (fput_ok _ _ _ (finishCheck_ok _ (startCheck_ok _ _ _ hs)))
  · exact finishCheck_ok _ (startCheck_ok _ _ _ hs)
theorem commitHall_ok (s : State) (r : List Byte) (hs : MemOk s) : MemOk (commitHall s r).1 := by
  have h := firmwareCommit_ok (stageHall s r) 9#5 (stageHall_ok s r hs)
  unfold commitHall
  dsimp only
  split
  · exact extendM_ok _ _ _ h
  · exact h
theorem bootReady_ok (s : State) (hs : MemOk s) : MemOk (bootReady s) := by
  unfold bootReady
  repeat' (first | with_reducible assumption | with_reducible apply commitHall_ok | with_reducible apply writeStatus_ok | with_reducible apply setBootStage_ok | with_reducible apply writeBytes_ok | with_reducible apply fput_ok | with_reducible apply ok_ite | dsimp only)
theorem runBoot_ok (s : State) (o : BootObs) (hs : MemOk s) : MemOk (runBoot s o) := by
  unfold runBoot
  repeat' (first | with_reducible assumption | with_reducible apply bootRom_ok | with_reducible apply bootHold_ok | with_reducible apply bootRepairs_ok | with_reducible apply bootSelfTest_ok | with_reducible apply bootIdentity_ok | with_reducible apply bootRuntime_ok | with_reducible apply bootReady_ok | apply hs | simp only [MemOk_mk] | (intro _ _ _; try dsimp only) | (intro _ _; try dsimp only) | split | dsimp only)
theorem execBootStage_ok (o : BootObs) (s : State) (hs : MemOk s) : OutOk (execBootStage o s) := by
  unfold execBootStage
  repeat' (first | with_reducible assumption | with_reducible apply whenever_ok | with_reducible apply runBoot_ok | apply hs | simp only [MemOk_mk])
theorem execFuseAdvance_ok (s : State) (hs : MemOk s) : OutOk (execFuseAdvance s) := by
  unfold execFuseAdvance
  dsimp only
  repeat' (first | with_reducible assumption | with_reducible apply turnedAway_ok | with_reducible apply whenever_ok | with_reducible apply setSec_ok | apply hs | simp only [MemOk_mk] | (intro _ _ _; try dsimp only) | (intro _ _; try dsimp only) | split)

end Sys2Proof.Machine
end

