-- ==== Sys2Proof/Laws/WfHold.lean ====
section
/-! SUPPORT. The operations and commands of Machine/Hold.lean keep the canonical form of memory. -/

namespace Sys2Proof.Machine

theorem setCorrected_ok (s : State) (d : Nat) (l : List Nat) (hs : MemOk s) : MemOk (setCorrected s d l) := by
  unfold setCorrected
  repeat' (first | with_reducible assumption | with_reducible apply ok_ite | with_reducible apply out_ite | apply hs | simp only [MemOk_mk])
theorem queuePages_ok (s : State) (d : Nat) (x1 : List Nat) (hs : MemOk s) : MemOk (queuePages s d x1) := by
  induction x1 generalizing s with
  | nil => exact showRetired_ok s hs
  | cons y rest ih =>
    unfold queuePages
    apply ih
    repeat' (first | with_reducible assumption | with_reducible apply showRetired_ok | with_reducible apply ok_ite | with_reducible apply setQueued_ok)
theorem scrub_ok (s : State) (d : Nat) (cor unc : List Nat) (hs : MemOk s) : MemOk (scrub s d cor unc) := by
  unfold scrub
  repeat' (first | with_reducible assumption | with_reducible apply correctedN_ok | with_reducible apply fcount_ok | with_reducible apply setPoisonLines_ok | with_reducible apply setCorrected_ok | with_reducible apply queuePages_ok | apply hs | simp only [MemOk_mk])
theorem execPatrolScrub_ok (die : Die) (cor unc : List Nat) (s : State) (hs : MemOk s) : OutOk (execPatrolScrub die cor unc s) := by
  unfold execPatrolScrub
  repeat' (first | with_reducible assumption | with_reducible apply whenever_ok | with_reducible apply scrub_ok | apply hs | simp only [MemOk_mk])
theorem wornRow_ok (s : State) (a : Nat) (hs : MemOk s) : MemOk (wornRow s a) := by
  unfold wornRow
  repeat' (first | with_reducible assumption | with_reducible apply writeFound_ok | with_reducible apply setSec_ok | with_reducible apply ok_ite | with_reducible apply out_ite | apply hs | simp only [MemOk_mk])
theorem correctedRow_ok (s : State) (a : Nat) (hs : MemOk s) : MemOk (correctedRow s a) := by
  unfold correctedRow
  repeat' (first | with_reducible assumption | with_reducible apply wornRow_ok | with_reducible apply setSec_ok | with_reducible apply ok_ite | with_reducible apply out_ite | apply hs | simp only [MemOk_mk])
theorem meetError_ok (s : State) (e : MemErr) (hs : MemOk s) : MemOk (meetError s e) := by
  unfold meetError
  dsimp only
  repeat' (first | with_reducible assumption | with_reducible apply setPoisonLines_ok | with_reducible apply corrected_ok | with_reducible apply correctedRow_ok | with_reducible apply fcount_ok | with_reducible apply wornRow_ok | with_reducible apply queuePages_ok | with_reducible apply setCorrected_ok | with_reducible apply correctedN_ok | with_reducible apply ok_ite | with_reducible apply out_ite | apply hs | simp only [MemOk_mk] | (intro _ _ _; try dsimp only) | (intro _ _; try dsimp only) | split)
theorem meetErrors_ok (s : State) (errs : List MemErr) (hs : MemOk s) : MemOk (meetErrors s errs) := by
  unfold meetErrors
  repeat' (first | with_reducible assumption | with_reducible apply meetError_ok | with_reducible apply ok_foldl | apply hs | simp only [MemOk_mk])
theorem remapPage_ok (s : State) (d p : Nat) (hs : MemOk s) : MemOk (remapPage s d p) := by
  unfold remapPage
  repeat' (first | with_reducible assumption | with_reducible apply writeBytes_ok | with_reducible apply retirePage_ok | with_reducible apply writeRepair_ok | apply hs | simp only [MemOk_mk])
theorem writeRemap_ok (s : State) (d page : Nat) (hs : MemOk s) : MemOk (writeRemap s d page) := by
  unfold writeRemap
  repeat' (first | with_reducible assumption | with_reducible apply fput_ok | with_reducible apply remapPage_ok | with_reducible apply ok_ite | with_reducible apply out_ite | apply hs | simp only [MemOk_mk])
theorem execHoldRemap_ok (die : Die) (page : BitVec 36) (s : State) (hs : MemOk s) : OutOk (execHoldRemap die page s) := by
  unfold execHoldRemap
  repeat' (first | with_reducible assumption | with_reducible apply writeRemap_ok | with_reducible apply next_ok | apply hs | simp only [MemOk_mk])

end Sys2Proof.Machine
end

