-- ==== Sys2Proof/Laws/WfCrane.lean ====
section
/-! SUPPORT. The operations and commands of Machine/Crane.lean keep the canonical form of memory. -/

namespace Sys2Proof.Machine

theorem setCmd_ok (s : State) (c : Nat) (q : Queue) (k : CraneCmd) (hs : MemOk s) : MemOk (setCmd s c q k) := by
  unfold setCmd
  repeat' (first | with_reducible assumption | with_reducible apply setCrane_ok | apply hs | simp only [MemOk_mk])
theorem setBank_ok (s : State) (c b : Nat) (v : Bank) (hs : MemOk s) : MemOk (setBank s c b v) := by
  unfold setBank
  repeat' (first | with_reducible assumption | with_reducible apply setCrane_ok | apply hs | simp only [MemOk_mk])
theorem execCommandWordArrival_ok (c : CraneIx) (s : State) (hs : MemOk s) : OutOk (execCommandWordArrival c s) := by
  unfold execCommandWordArrival
  dsimp only
  repeat' (first | with_reducible assumption | with_reducible apply turnedAway_ok | with_reducible apply setCrane_ok | with_reducible apply next_ok | apply hs | simp only [MemOk_mk] | (intro _ _ _; try dsimp only) | (intro _ _; try dsimp only) | split)
theorem setBgFree_ok (s : State) (c : Nat) (hs : MemOk s) : MemOk (setBgFree s c) := by
  unfold setBgFree
  repeat' (first | with_reducible assumption | with_reducible apply fput_ok | apply hs | simp only [MemOk_mk])
theorem appendBg_ok (s : State) (c off : Nat) (hs : MemOk s) : MemOk (appendBg s c off) := by
  unfold appendBg
  repeat' (first | with_reducible assumption | with_reducible apply setCrane_ok | with_reducible apply setBgFree_ok | with_reducible apply sampleCrane_ok | with_reducible apply countEvent_ok | apply hs | simp only [MemOk_mk])
theorem fetchWords_ok (s : State) (c : Nat) (n : Nat) (hs : MemOk s) : MemOk (fetchWords s c n) := by
  induction n generalizing s with
  | zero => exact hs
  | succ n ih =>
    unfold fetchWords
    repeat' (first | with_reducible assumption | with_reducible apply ih | with_reducible apply setCrane_ok | with_reducible apply appendBg_ok | split | dsimp only)
theorem fetchLists_ok (s : State) (c : Nat) (hs : MemOk s) : MemOk (fetchLists s c) := by
  unfold fetchLists
  repeat' (first | with_reducible assumption | with_reducible apply fetchWords_ok | apply hs | simp only [MemOk_mk])
theorem execBgListFetch_ok (c : CraneIx) (s : State) (hs : MemOk s) : OutOk (execBgListFetch c s) := by
  unfold execBgListFetch
  repeat' (first | with_reducible assumption | with_reducible apply whenever_ok | with_reducible apply fetchLists_ok | apply hs | simp only [MemOk_mk])
theorem noteWaited_ok (s : State) (c : Nat) (seq : BitVec 32) (hs : MemOk s) : MemOk (noteWaited s c seq) := by
  unfold noteWaited
  repeat' (first | with_reducible assumption | with_reducible apply setCrane_ok | apply hs | simp only [MemOk_mk])
theorem captureReject_ok (s : State) (c : Nat) (bg : Bool) (k : CraneCmd) (cause : Nat) (hs : MemOk s) : MemOk (captureReject s c bg k cause) := by
  unfold captureReject
  repeat' (first | with_reducible assumption | with_reducible apply fput_ok | with_reducible apply fputBool_ok | with_reducible apply ok_ite | with_reducible apply out_ite | apply hs | simp only [MemOk_mk])
theorem rejectCmd_ok (s : State) (c : Nat) (q : Queue) (k : CraneCmd) (cause : Nat) (hs : MemOk s) : MemOk (rejectCmd s c q k cause) := by
  unfold rejectCmd
  dsimp only
  repeat' (first | with_reducible assumption | with_reducible apply countEvent_ok | with_reducible apply captureReject_ok | with_reducible apply setCmd_ok | with_reducible apply fput_ok | with_reducible apply setCrane_ok | apply hs | simp only [MemOk_mk] | (intro _ _ _; try dsimp only) | (intro _ _; try dsimp only) | split)
theorem issueCmd_ok (s : State) (c : Nat) (q : Queue) (seq : BitVec 32) (w : Word) (hs : MemOk s) : MemOk (issueCmd s c q seq w) := by
  unfold issueCmd
  repeat' (first | with_reducible assumption | with_reducible apply setCrane_ok | with_reducible apply rejectCmd_ok | with_reducible apply ok_ite | with_reducible apply out_ite | apply hs | simp only [MemOk_mk])
theorem execCraneCommandIssue_ok (c : CraneIx) (q : Queue) (s : State) (hs : MemOk s) : OutOk (execCraneCommandIssue c q s) := by
  unfold execCraneCommandIssue
  dsimp only
  repeat' (first | with_reducible assumption | with_reducible apply turnedAway_ok | with_reducible apply whenever_ok | with_reducible apply issueCmd_ok | with_reducible apply setCrane_ok | with_reducible apply setBgFree_ok | apply hs | simp only [MemOk_mk] | (intro _ _ _; try dsimp only) | (intro _ _; try dsimp only) | split)
theorem execCraneDescriptorArrival_ok (c : CraneIx) (q : Queue) (errs : List MemErr) (s : State) (hs : MemOk s) : OutOk (execCraneDescriptorArrival c q errs s) := by
  unfold execCraneDescriptorArrival
  dsimp only
  repeat' (first | with_reducible assumption | with_reducible apply turnedAway_ok | with_reducible apply meetErrors_ok | with_reducible apply consumeFoot_ok | with_reducible apply spendFree_ok | with_reducible apply rejectCmd_ok | with_reducible apply setCmd_ok | with_reducible apply ok_ite | with_reducible apply out_ite | with_reducible apply next_ok | apply hs | simp only [MemOk_mk] | (intro _ _ _; try dsimp only) | (intro _ _; try dsimp only) | split)
theorem execDrainInterlockRelease_ok (c : CraneIx) (bank : Bool) (s : State) (hs : MemOk s) : OutOk (execDrainInterlockRelease c bank s) := by
  unfold execDrainInterlockRelease
  repeat' (first | with_reducible assumption | with_reducible apply whenever_ok | with_reducible apply setCrane_ok | with_reducible apply ok_ite | with_reducible apply out_ite | apply hs | simp only [MemOk_mk])
theorem completeTag_ok (s : State) (c : Nat) (q : Queue) (k : CraneCmd) (hs : MemOk s) : MemOk (completeTag s c q k) := by
  unfold completeTag
  dsimp only
  repeat' (first | with_reducible assumption | with_reducible apply ok_ite | with_reducible apply out_ite | apply hs | simp only [MemOk_mk] | (intro _ _ _; try dsimp only) | (intro _ _; try dsimp only) | split)
theorem execBank1Release_ok (c : CraneIx) (s : State) (hs : MemOk s) : OutOk (execBank1Release c s) := by
  unfold execBank1Release
  repeat' (first | with_reducible assumption | with_reducible apply whenever_ok | with_reducible apply fput_ok | with_reducible apply setCrane_ok | apply hs | simp only [MemOk_mk])

end Sys2Proof.Machine
end

