-- ==== Sys2Proof/Laws/WfCraneOps.lean ====
section
/-! SUPPORT. The operations and commands of Machine/CraneOps.lean keep the canonical form of memory. -/

namespace Sys2Proof.Machine

theorem runSegment_ok (s : State) (c : Nat) (q : Queue) (k : CraneCmd) (hs : MemOk s) : MemOk (runSegment s c q k) := by
  unfold runSegment
  repeat' (first | with_reducible assumption | with_reducible apply setCmd_ok | with_reducible apply setCrane_ok | with_reducible apply consumeFoot_ok | with_reducible apply spendFree_ok | with_reducible apply ok_ite | with_reducible apply out_ite | apply hs | simp only [MemOk_mk])
theorem execMma_ok (c : CraneIx) (q : Queue) (s : State) (hs : MemOk s) : OutOk (execMma c q s) := by
  unfold execMma
  repeat' (first | with_reducible assumption | with_reducible apply turnedAway_ok | with_reducible apply runSegment_ok | with_reducible apply next_ok | apply hs | simp only [MemOk_mk] | (intro _ _ _; try dsimp only) | (intro _ _; try dsimp only) | split | dsimp only)
theorem execGather_ok (c : CraneIx) (q : Queue) (s : State) (hs : MemOk s) : OutOk (execGather c q s) := by
  unfold execGather
  repeat' (first | with_reducible assumption | with_reducible apply turnedAway_ok | with_reducible apply runSegment_ok | with_reducible apply next_ok | apply hs | simp only [MemOk_mk] | (intro _ _ _; try dsimp only) | (intro _ _; try dsimp only) | split | dsimp only)
theorem spillBank_ok (s : State) (k : CraneCmd) (c b off : Nat) (first : Bool) (hs : MemOk s) : MemOk (spillBank s k c b off first) := by
  unfold spillBank
  repeat' (first | with_reducible assumption | with_reducible apply craneWrites_ok | with_reducible apply setBank_ok | with_reducible apply consumeFoot_ok | with_reducible apply ok_ite | with_reducible apply out_ite | apply hs | simp only [MemOk_mk])
theorem execAutomaticSpill_ok (c : CraneIx) (q : Queue) (s : State) (hs : MemOk s) : OutOk (execAutomaticSpill c q s) := by
  unfold execAutomaticSpill
  dsimp only
  repeat' (first | with_reducible assumption | with_reducible apply turnedAway_ok | with_reducible apply spillBank_ok | with_reducible apply setCmd_ok | with_reducible apply spendFree_ok | with_reducible apply ok_ite | with_reducible apply out_ite | with_reducible apply next_ok | apply hs | simp only [MemOk_mk] | (intro _ _ _; try dsimp only) | (intro _ _; try dsimp only) | split)
theorem finishMover_ok (s : State) (c : Nat) (q : Queue) (k : CraneCmd) (b : Bank) (hs : MemOk s) : MemOk (finishMover s c q k b) := by
  unfold finishMover
  repeat' (first | with_reducible assumption | with_reducible apply setCmd_ok | with_reducible apply setBank_ok | apply hs | simp only [MemOk_mk])
theorem execSpill_ok (c : CraneIx) (q : Queue) (s : State) (hs : MemOk s) : OutOk (execSpill c q s) := by
  unfold execSpill
  dsimp only
  repeat' (first | with_reducible assumption | with_reducible apply turnedAway_ok | with_reducible apply craneWrites_ok | with_reducible apply craneWrite_ok | with_reducible apply finishMover_ok | with_reducible apply consumeFoot_ok | with_reducible apply spendFree_ok | with_reducible apply next_ok | apply hs | simp only [MemOk_mk] | (intro _ _ _; try dsimp only) | (intro _ _; try dsimp only) | split)
theorem execZero_ok (c : CraneIx) (q : Queue) (s : State) (hs : MemOk s) : OutOk (execZero c q s) := by
  unfold execZero
  repeat' (first | with_reducible assumption | with_reducible apply turnedAway_ok | with_reducible apply finishMover_ok | with_reducible apply next_ok | apply hs | simp only [MemOk_mk] | (intro _ _ _; try dsimp only) | (intro _ _; try dsimp only) | split | dsimp only)
theorem execLoadacc_ok (c : CraneIx) (q : Queue) (s : State) (hs : MemOk s) : OutOk (execLoadacc c q s) := by
  unfold execLoadacc
  dsimp only
  repeat' (first | with_reducible assumption | with_reducible apply turnedAway_ok | with_reducible apply finishMover_ok | with_reducible apply tookFree_ok | with_reducible apply next_ok | apply hs | simp only [MemOk_mk] | (intro _ _ _; try dsimp only) | (intro _ _; try dsimp only) | split)
theorem finishDrain_ok (s : State) (c : Nat) (q : Queue) (k : CraneCmd) (out : List (Nat × List Byte) × Nsr) (hs : MemOk s) : MemOk (finishDrain s c q k out) := by
  unfold finishDrain
  repeat' (first | with_reducible assumption | with_reducible apply craneWrites_ok | with_reducible apply craneWrite_ok | with_reducible apply finishMover_ok | with_reducible apply consumeFoot_ok | with_reducible apply spendFree_ok | apply hs | simp only [MemOk_mk])
theorem execDrain_ok (c : CraneIx) (q : Queue) (s : State) (hs : MemOk s) : OutOk (execDrain c q s) := by
  unfold execDrain
  repeat' (first | with_reducible assumption | with_reducible apply turnedAway_ok | with_reducible apply finishDrain_ok | with_reducible apply next_ok | apply hs | simp only [MemOk_mk] | (intro _ _ _; try dsimp only) | (intro _ _; try dsimp only) | split | dsimp only)
theorem execTopk_ok (c : CraneIx) (q : Queue) (s : State) (hs : MemOk s) : OutOk (execTopk c q s) := by
  unfold execTopk
  repeat' (first | with_reducible assumption | with_reducible apply turnedAway_ok | with_reducible apply finishDrain_ok | with_reducible apply next_ok | apply hs | simp only [MemOk_mk] | (intro _ _ _; try dsimp only) | (intro _ _; try dsimp only) | split | dsimp only)
theorem execPivot_ok (c : CraneIx) (q : Queue) (s : State) (hs : MemOk s) : OutOk (execPivot c q s) := by
  unfold execPivot
  dsimp only
  repeat' (first | with_reducible assumption | with_reducible apply turnedAway_ok | with_reducible apply craneWrites_ok | with_reducible apply setCmd_ok | with_reducible apply consumeFoot_ok | with_reducible apply spendFree_ok | with_reducible apply next_ok | apply hs | simp only [MemOk_mk] | (intro _ _ _; try dsimp only) | (intro _ _; try dsimp only) | split)
theorem execMark_ok (c : CraneIx) (q : Queue) (s : State) (hs : MemOk s) : OutOk (execMark c q s) := by
  unfold execMark
  repeat' (first | with_reducible assumption | with_reducible apply turnedAway_ok | with_reducible apply whenever_ok | with_reducible apply setCmd_ok | apply hs | simp only [MemOk_mk] | (intro _ _ _; try dsimp only) | (intro _ _; try dsimp only) | split | dsimp only)

end Sys2Proof.Machine
end

