-- ==== Sys2Proof/Laws/WfSolve.lean ====
section
/-! SUPPORT. The operations and commands of Machine/Solve.lean keep the canonical form of memory. -/

namespace Sys2Proof.Machine

theorem freeArea_ok (s : State) (k : CraneCmd) (c o n : Nat) (hs : MemOk s) : MemOk (freeArea s k c o n) := by
  unfold freeArea
  repeat' (first | with_reducible assumption | with_reducible apply craneWrites_ok | apply hs | simp only [MemOk_mk])
theorem putEntry_ok (s : State) (k : CraneCmd) (a : Nat) (x1 : List (Nat × Nat × Nat)) (hs : MemOk s) : MemOk (putEntry s k a x1) := by
  induction x1 generalizing s with
  | nil => exact hs
  | cons y rest ih =>
    unfold putEntry
    apply ih
    repeat' (first | with_reducible assumption | with_reducible apply craneWrite_ok)
theorem advanceFacet_ok (s : State) (k : CraneCmd) (c : Nat) (entry : Nat) (e : List Byte) (hs : MemOk s) : MemOk (advanceFacet s k c entry e) := by
  unfold advanceFacet
  repeat' (first | with_reducible assumption | with_reducible apply craneWrites_ok | with_reducible apply freeArea_ok | with_reducible apply consumeFoot_ok | with_reducible apply putEntry_ok | with_reducible apply ok_ite | with_reducible apply out_ite | apply hs | simp only [MemOk_mk])
theorem advanceAll_ok (s : State) (k : CraneCmd) (c : Nat) (f : State → Nat → List Byte → State) (x1 : List Nat) (hf : ∀ s a e, MemOk s → MemOk (f s a e)) (hs : MemOk s) : MemOk (advanceAll s k c f x1) := by
  induction x1 generalizing s with
  | nil => exact hs
  | cons y rest ih =>
    unfold advanceAll
    apply ih
    repeat' (first | with_reducible assumption | with_reducible apply ok_ite | with_reducible apply hf)
theorem solveBatch_ok (s : State) (c : Nat) (k : CraneCmd) (f : State → Nat → List Byte → State)
    (hf : ∀ s a e, MemOk s → MemOk (f s a e)) (hs : MemOk s) : MemOk (solveBatch s c k f) := by
  unfold solveBatch
  dsimp only
  split
  · exact setCmd_ok _ _ _ _ (tookFree_ok _ _ (setBank_ok _ _ _ _ (advanceAll_ok _ _ _ _ _ hf hs)))
  · exact setCmd_ok _ _ _ _ hs
theorem execRootns_ok (c : CraneIx) (s : State) (hs : MemOk s) : OutOk (execRootns c s) := by
  unfold execRootns
  repeat' (first | with_reducible assumption | with_reducible apply turnedAway_ok | with_reducible apply solveBatch_ok | with_reducible apply advanceFacet_ok | with_reducible apply next_ok | apply hs | simp only [MemOk_mk] | (intro _ _ _; try dsimp only) | (intro _ _; try dsimp only) | split | dsimp only)
theorem cholFacet_ok (s : State) (k : CraneCmd) (c : Nat) (entry : Nat) (e : List Byte) (hs : MemOk s) : MemOk (cholFacet s k c entry e) := by
  unfold cholFacet
  dsimp only
  repeat' (first | with_reducible assumption | with_reducible apply consumeFoot_ok | with_reducible apply putEntry_ok | with_reducible apply craneWrites_ok | with_reducible apply ok_ite | with_reducible apply out_ite | apply hs | simp only [MemOk_mk] | (intro _ _ _; try dsimp only) | (intro _ _; try dsimp only) | split)
theorem execChol_ok (c : CraneIx) (s : State) (hs : MemOk s) : OutOk (execChol c s) := by
  unfold execChol
  repeat' (first | with_reducible assumption | with_reducible apply turnedAway_ok | with_reducible apply solveBatch_ok | with_reducible apply cholFacet_ok | with_reducible apply next_ok | apply hs | simp only [MemOk_mk] | (intro _ _ _; try dsimp only) | (intro _ _; try dsimp only) | split | dsimp only)

end Sys2Proof.Machine
end

