-- ==== Sys2Proof/Laws/WfStats.lean ====
section
/-! SUPPORT. The operations and commands of Machine/Stats.lean keep the canonical form of memory. -/

namespace Sys2Proof.Machine

theorem putMem_ok (s : State) (a : Nat) (bs : List Byte) (hs : MemOk s) : MemOk (putMem s a bs) := by
  unfold putMem
  repeat' (first | with_reducible assumption | with_reducible apply writeBytes_ok | with_reducible apply countNowin_ok | with_reducible apply ok_ite | with_reducible apply out_ite | apply hs | simp only [MemOk_mk])
theorem putNum_ok (s : State) (a n v : Nat) (hs : MemOk s) : MemOk (putNum s a n v) := by
  unfold putNum
  repeat' (first | with_reducible assumption | with_reducible apply putMem_ok | apply hs | simp only [MemOk_mk])
theorem putAll_ok (s : State) (x1 : List (Nat × List Byte)) (hs : MemOk s) : MemOk (putAll s x1) := by
  induction x1 generalizing s with
  | nil => exact hs
  | cons y rest ih =>
    unfold putAll
    apply ih
    repeat' (first | with_reducible assumption | with_reducible apply putMem_ok)
theorem consumeAll_ok (s : State) (consumer die : Nat) (x1 : List (Nat × Nat)) (hs : MemOk s) : MemOk (consumeAll s consumer die x1) := by
  induction x1 generalizing s with
  | nil => exact hs
  | cons y rest ih =>
    unfold consumeAll
    apply ih
    repeat' (first | with_reducible assumption | with_reducible apply consumeRange_ok)
theorem putShadow_ok (s : State) (x : Shadow) (hs : MemOk s) : MemOk (putShadow s x) := by
  unfold putShadow
  repeat' (first | with_reducible assumption | apply hs | simp only [MemOk_mk])
theorem execFactorMerge_ok (o : MergeOp) (s : State) (hs : MemOk s) : OutOk (execFactorMerge o s) := by
  unfold execFactorMerge
  dsimp only
  repeat' (first | with_reducible assumption | with_reducible apply turnedAway_ok | with_reducible apply consumeAll_ok | with_reducible apply putMem_ok | with_reducible apply whenever_ok | with_reducible apply spendFree_ok | with_reducible apply putShadow_ok | with_reducible apply ok_ite | with_reducible apply out_ite | apply hs | simp only [MemOk_mk] | (intro _ _ _; try dsimp only) | (intro _ _; try dsimp only) | split)

end Sys2Proof.Machine
end

