-- ==== Sys2Proof/Laws/WfQuay.lean ====
section
/-! SUPPORT. The operations and commands of Machine/Quay.lean keep the canonical form of memory. -/

namespace Sys2Proof.Machine

theorem execPortSignalDetect_ok (p : PortIx) (lanes : Nat) (s : State) (hs : MemOk s) : OutOk (execPortSignalDetect p lanes s) := by
  unfold execPortSignalDetect
  repeat' (first | with_reducible assumption | with_reducible apply whenever_ok | with_reducible apply setPortState_ok | apply hs | simp only [MemOk_mk])
theorem queueIdent_ok (s : State) (p : Nat) (hs : MemOk s) : MemOk (queueIdent s p) := by
  unfold queueIdent
  repeat' (first | with_reducible assumption | with_reducible apply queueCell_ok | apply hs | simp only [MemOk_mk])
theorem enterIdent_ok (s : State) (p : Nat) (hs : MemOk s) : MemOk (enterIdent s p) := by
  unfold enterIdent
  repeat' (first | with_reducible assumption | with_reducible apply setPort_ok | with_reducible apply queueIdent_ok | with_reducible apply setPortState_ok | apply hs | simp only [MemOk_mk])
theorem execTrainingComplete_ok (p : PortIx) (fecLocked : Bool) (s : State) (hs : MemOk s) : OutOk (execTrainingComplete p fecLocked s) := by
  unfold execTrainingComplete
  repeat' (first | with_reducible assumption | with_reducible apply whenever_ok | with_reducible apply enterIdent_ok | apply hs | simp only [MemOk_mk])
theorem execLinkLoss_ok (p : PortIx) (s : State) (hs : MemOk s) : OutOk (execLinkLoss p s) := by
  unfold execLinkLoss
  repeat' (first | with_reducible assumption | with_reducible apply whenever_ok | with_reducible apply leftService_ok | with_reducible apply enterDown_ok | apply hs | simp only [MemOk_mk])
theorem execIdentSend_ok (p : PortIx) (s : State) (hs : MemOk s) : OutOk (execIdentSend p s) := by
  unfold execIdentSend
  repeat' (first | with_reducible assumption | with_reducible apply whenever_ok | with_reducible apply queueIdent_ok | apply hs | simp only [MemOk_mk])
theorem switchLane_ok (s : State) (p lane : Nat) (hs : MemOk s) : MemOk (switchLane s p lane) := by
  unfold switchLane
  repeat' (first | with_reducible assumption | with_reducible apply fput_ok | with_reducible apply corrected_ok | with_reducible apply fcount_ok | with_reducible apply foundLane_ok | with_reducible apply setPort_ok | apply hs | simp only [MemOk_mk])
theorem execLaneFault_ok (p : PortIx) (lane : Fin 9) (_sign : LaneSign) (spareHealthy : Bool) (s : State) (hs : MemOk s) : OutOk (execLaneFault p lane _sign spareHealthy s) := by
  unfold execLaneFault
  repeat' (first | with_reducible assumption | with_reducible apply whenever_ok | with_reducible apply switchLane_ok | with_reducible apply enterFailed_ok | with_reducible apply ok_ite | with_reducible apply out_ite | apply hs | simp only [MemOk_mk])
theorem execLaneSwitchRetrainComplete_ok (p : PortIx) (s : State) (hs : MemOk s) : OutOk (execLaneSwitchRetrainComplete p s) := by
  unfold execLaneSwitchRetrainComplete
  repeat' (first | with_reducible assumption | with_reducible apply whenever_ok | with_reducible apply setPort_ok | apply hs | simp only [MemOk_mk])
theorem sendCell_ok (s : State) (p : Nat) (c : Cell) (hs : MemOk s) : MemOk (sendCell s p c) := by
  unfold sendCell
  repeat' (first | with_reducible assumption | with_reducible apply setPort_ok | with_reducible apply countEvent_ok | with_reducible apply corrected_ok | with_reducible apply fcount_ok | with_reducible apply countLatency_ok | with_reducible apply tookFree_ok | with_reducible apply ok_ite | with_reducible apply out_ite | apply hs | simp only [MemOk_mk])
theorem addRun_ok (s : State) (stream : Nat) (hs : MemOk s) : MemOk (addRun s stream) := by
  unfold addRun
  repeat' (first | with_reducible assumption | with_reducible apply writeNat_ok | apply hs | simp only [MemOk_mk])
theorem quayConsume_ok (s : State) (p : Nat) (rs : List (Nat × Nat)) (hs : MemOk s) : MemOk (quayConsume s p rs) := by
  unfold quayConsume
  repeat' (first | with_reducible assumption | with_reducible apply consumeRange_ok | with_reducible apply ok_foldl | apply hs | simp only [MemOk_mk] | (intro _ _ _; try dsimp only) | (intro _ _; try dsimp only) | split | dsimp only)
theorem startTx_ok (s : State) (p stream : Nat) (hs : MemOk s) : MemOk (startTx s p stream) := by
  unfold startTx
  repeat' (first | with_reducible assumption | with_reducible apply quayFault_ok | with_reducible apply quayConsume_ok | with_reducible apply countOverrun_ok | with_reducible apply spendFree_ok | with_reducible apply setPort_ok | with_reducible apply ok_ite | with_reducible apply out_ite | apply hs | simp only [MemOk_mk])
theorem sendData_ok (s : State) (p : Nat) (c : Cell) (x : Port) (hs : MemOk s) : MemOk (sendData s p c x) := by
  unfold sendData
  repeat' (first | with_reducible assumption | with_reducible apply sendCell_ok | with_reducible apply setPort_ok | with_reducible apply addRun_ok | with_reducible apply ok_ite | with_reducible apply out_ite | apply hs | simp only [MemOk_mk])
theorem execCellTransmit_ok (p : PortIx) (s : State) (hs : MemOk s) : OutOk (execCellTransmit p s) := by
  unfold execCellTransmit
  dsimp only
  repeat' (first | with_reducible assumption | with_reducible apply sendCell_ok | with_reducible apply setPort_ok | with_reducible apply turnedAway_ok | with_reducible apply whenever_ok | with_reducible apply sendData_ok | with_reducible apply next_ok | apply hs | simp only [MemOk_mk] | (intro _ _ _; try dsimp only) | (intro _ _; try dsimp only) | split)
theorem stageCell_ok (s : State) (p : Nat) (c : Cell) (hs : MemOk s) : MemOk (stageCell s p c) := by
  unfold stageCell
  repeat' (first | with_reducible assumption | with_reducible apply setPort_ok | apply hs | simp only [MemOk_mk])
theorem retain_ok (s : State) (r : RxRun) (d : List Byte) (hs : MemOk s) : MemOk (retain s r d) := by
  unfold retain
  repeat' (first | with_reducible assumption | with_reducible apply ok_ite | with_reducible apply out_ite | apply hs | simp only [MemOk_mk])
theorem finishReduce_ok (s : State) (r : RxRun) (d : List Byte) (hs : MemOk s) : MemOk (finishReduce s r d) := by
  unfold finishReduce
  repeat' (first | with_reducible assumption | with_reducible apply putNum_ok | with_reducible apply retain_ok | with_reducible apply putMem_ok | with_reducible apply ok_ite | with_reducible apply out_ite | apply hs | simp only [MemOk_mk])
theorem putRx_ok (s : State) (p stream : Nat) (r : RxRun) (hs : MemOk s) : MemOk (putRx s p stream r) := by
  unfold putRx
  repeat' (first | with_reducible assumption | with_reducible apply setPort_ok | with_reducible apply ok_ite | with_reducible apply out_ite | apply hs | simp only [MemOk_mk])
theorem dropRx_ok (s : State) (p stream : Nat) (hs : MemOk s) : MemOk (dropRx s p stream) := by
  unfold dropRx
  repeat' (first | with_reducible assumption | with_reducible apply setPort_ok | apply hs | simp only [MemOk_mk])
theorem reduceCell_ok (s : State) (p : Nat) (r : RxRun) (d : List Byte) (c : Cell) (hs : MemOk s) : MemOk (reduceCell s p r d c) := by
  unfold reduceCell
  repeat' (first | with_reducible assumption | with_reducible apply quayConsume_ok | with_reducible apply putMem_ok | with_reducible apply finishReduce_ok | with_reducible apply putRx_ok | with_reducible apply stageCell_ok | with_reducible apply spendFree_ok | with_reducible apply addRun_ok | with_reducible apply dropRx_ok | with_reducible apply ok_ite | with_reducible apply out_ite | apply hs | simp only [MemOk_mk])
theorem passCell_ok (s : State) (p : Nat) (r : RxRun) (d : List Byte) (c : Cell) (hs : MemOk s) : MemOk (passCell s p r d c) := by
  unfold passCell
  repeat' (first | with_reducible assumption | with_reducible apply stageCell_ok | with_reducible apply addRun_ok | with_reducible apply putRx_ok | with_reducible apply dropRx_ok | with_reducible apply ok_ite | with_reducible apply out_ite | apply hs | simp only [MemOk_mk])
theorem runCell_ok (s : State) (p : Nat) (r : RxRun) (c : Cell) (hs : MemOk s) : MemOk (runCell s p r c) := by
  unfold runCell
  repeat' (first | with_reducible assumption | with_reducible apply passCell_ok | with_reducible apply quayFault_ok | with_reducible apply putRx_ok | with_reducible apply reduceCell_ok | with_reducible apply ok_ite | with_reducible apply out_ite | apply hs | simp only [MemOk_mk])
theorem deliver_ok (s : State) (p : Nat) (c : Cell) (hs : MemOk s) : MemOk (deliver s p c) := by
  unfold deliver
  repeat' (first | with_reducible assumption | with_reducible apply quayFault_ok | with_reducible apply runCell_ok | with_reducible apply countEvent_ok | with_reducible apply ok_ite | with_reducible apply out_ite | apply hs | simp only [MemOk_mk] | (intro _ _ _; try dsimp only) | (intro _ _; try dsimp only) | split | dsimp only)
theorem nak_ok (s : State) (p : Nat) (lseq : BitVec 32) (code : Nat) (hs : MemOk s) : MemOk (nak s p lseq code) := by
  unfold nak
  repeat' (first | with_reducible assumption | with_reducible apply countEvent_ok | with_reducible apply queueCell_ok | apply hs | simp only [MemOk_mk])
theorem judgeIdent_ok (s : State) (p : Nat) (c : IdentCell) (hs : MemOk s) : MemOk (judgeIdent s p c) := by
  unfold judgeIdent
  repeat' (first | with_reducible assumption | with_reducible apply setPort_ok | with_reducible apply fput_ok | with_reducible apply enterService_ok | with_reducible apply leftService_ok | with_reducible apply enterQuarantine_ok | with_reducible apply ok_ite | with_reducible apply out_ite | apply hs | simp only [MemOk_mk])
theorem actOn_ok (s : State) (p : Nat) (c : Cell) (hs : MemOk s) : MemOk (actOn s p c) := by
  unfold actOn
  repeat' (first | with_reducible assumption | with_reducible apply takeRequest_ok | with_reducible apply judgeIdent_ok | with_reducible apply deliver_ok | with_reducible apply ok_ite | with_reducible apply out_ite | apply hs | simp only [MemOk_mk])
theorem acceptNext_ok (s : State) (p : Nat) (hs : MemOk s) : MemOk (acceptNext s p) := by
  unfold acceptNext
  repeat' (first | with_reducible assumption | with_reducible apply setPort_ok | apply hs | simp only [MemOk_mk])
theorem releaseReorder_ok (n : Nat) (s : State) (p : Nat) (hs : MemOk s) : MemOk (releaseReorder n s p) := by
  induction n generalizing s with
  | zero => exact hs
  | succ n ih =>
    unfold releaseReorder
    dsimp only
    repeat' (first | with_reducible assumption | with_reducible apply ih | with_reducible apply actOn_ok | with_reducible apply acceptNext_ok | with_reducible apply setPort_ok | split)
theorem holdAfterGap_ok (s : State) (p : Nat) (c : Cell) (hs : MemOk s) : MemOk (holdAfterGap s p c) := by
  unfold holdAfterGap
  dsimp only
  repeat' (first | with_reducible assumption | with_reducible apply setPort_ok | with_reducible apply nak_ok | with_reducible apply ok_foldl | apply hs | simp only [MemOk_mk] | (intro _ _ _; try dsimp only) | (intro _ _; try dsimp only) | split)
theorem receivedBad_ok (s : State) (p : Nat) (c : Cell) (hs : MemOk s) : MemOk (receivedBad s p c) := by
  unfold receivedBad
  repeat' (first | with_reducible assumption | with_reducible apply nak_ok | with_reducible apply countEvent_ok | apply hs | simp only [MemOk_mk])
theorem takeGood_ok (s : State) (p : Nat) (c : Cell) (buffer : Bool) (hs : MemOk s) : MemOk (takeGood s p c buffer) := by
  unfold takeGood
  repeat' (first | with_reducible assumption | with_reducible apply nak_ok | with_reducible apply releaseReorder_ok | with_reducible apply actOn_ok | with_reducible apply acceptNext_ok | with_reducible apply holdAfterGap_ok | with_reducible apply ok_ite | with_reducible apply out_ite | apply hs | simp only [MemOk_mk])
theorem takeNumbered_ok (s : State) (p : Nat) (c : Cell) (buffer : Bool) (hs : MemOk s) : MemOk (takeNumbered s p c buffer) := by
  unfold takeNumbered
  repeat' (first | with_reducible assumption | with_reducible apply receivedBad_ok | with_reducible apply takeGood_ok | with_reducible apply takeAck_ok | with_reducible apply ok_ite | with_reducible apply out_ite | apply hs | simp only [MemOk_mk])
theorem execDataCellReceive_ok (p : PortIx) (wire : List Byte) (fec buffer : Bool) (s : State) (hs : MemOk s) : OutOk (execDataCellReceive p wire fec buffer s) := by
  unfold execDataCellReceive
  repeat' (first | with_reducible assumption | with_reducible apply whenever_ok | with_reducible apply takeNumbered_ok | apply hs | simp only [MemOk_mk])
theorem execHoldCellReceive_ok (p : PortIx) (wire : List Byte) (fec : Bool) (s : State) (hs : MemOk s) : OutOk (execHoldCellReceive p wire fec s) := by
  unfold execHoldCellReceive
  repeat' (first | with_reducible assumption | with_reducible apply whenever_ok | with_reducible apply takeNumbered_ok | apply hs | simp only [MemOk_mk])
theorem execIdentReceive_ok (p : PortIx) (wire : List Byte) (fec : Bool) (s : State) (hs : MemOk s) : OutOk (execIdentReceive p wire fec s) := by
  unfold execIdentReceive
  repeat' (first | with_reducible assumption | with_reducible apply whenever_ok | with_reducible apply takeNumbered_ok | apply hs | simp only [MemOk_mk])
theorem retryFailed_ok (s : State) (p : Nat) (hs : MemOk s) : MemOk (retryFailed s p) := by
  unfold retryFailed
  repeat' (first | with_reducible assumption | with_reducible apply enterFailed_ok | with_reducible apply fput_ok | apply hs | simp only [MemOk_mk])
theorem replayCell_ok (s : State) (p : Nat) (lseq : BitVec 32) (hs : MemOk s) : MemOk (replayCell s p lseq) := by
  unfold replayCell
  dsimp only
  repeat' (first | with_reducible assumption | with_reducible apply retryFailed_ok | with_reducible apply setPort_ok | with_reducible apply ok_ite | with_reducible apply out_ite | apply hs | simp only [MemOk_mk] | (intro _ _ _; try dsimp only) | (intro _ _; try dsimp only) | split)
theorem takeLink_ok (s : State) (p : Nat) (c : Cell) (hs : MemOk s) : MemOk (takeLink s p c) := by
  unfold takeLink
  repeat' (first | with_reducible assumption | with_reducible apply takeAck_ok | with_reducible apply replayCell_ok | with_reducible apply ok_ite | with_reducible apply out_ite | apply hs | simp only [MemOk_mk])
theorem execLinkCellReceive_ok (p : PortIx) (wire : List Byte) (fec : Bool) (s : State) (hs : MemOk s) : OutOk (execLinkCellReceive p wire fec s) := by
  unfold execLinkCellReceive
  repeat' (first | with_reducible assumption | with_reducible apply whenever_ok | with_reducible apply receivedBad_ok | with_reducible apply takeLink_ok | with_reducible apply ok_ite | with_reducible apply out_ite | apply hs | simp only [MemOk_mk])
theorem execAckTimeout_ok (p : PortIx) (s : State) (hs : MemOk s) : OutOk (execAckTimeout p s) := by
  unfold execAckTimeout
  repeat' (first | with_reducible assumption | with_reducible apply whenever_ok | with_reducible apply retryFailed_ok | apply hs | simp only [MemOk_mk])
theorem pollTx_ok (s : State) (p : Nat) (hs : MemOk s) : MemOk (pollTx s p) := by
  unfold pollTx
  dsimp only
  repeat' (first | with_reducible assumption | with_reducible apply quayConsume_ok | with_reducible apply spendFree_ok | with_reducible apply setPort_ok | with_reducible apply ok_ite | with_reducible apply out_ite | apply hs | simp only [MemOk_mk] | (intro _ _ _; try dsimp only) | (intro _ _; try dsimp only) | split)
theorem reduceHeld_ok (s : State) (p stream : Nat) (x1 : List Cell) (hs : MemOk s) : MemOk (reduceHeld s p stream x1) := by
  induction x1 generalizing s with
  | nil => exact hs
  | cons y rest ih =>
    unfold reduceHeld
    repeat' (first | with_reducible assumption | with_reducible apply ih | with_reducible apply reduceCell_ok | split)
theorem pollRx_ok (s : State) (p : Nat) (hs : MemOk s) : MemOk (pollRx s p) := by
  unfold pollRx
  repeat' (first | with_reducible assumption | with_reducible apply reduceHeld_ok | with_reducible apply putRx_ok | with_reducible apply ok_ite | with_reducible apply out_ite | apply hs | simp only [MemOk_mk] | (intro _ _ _; try dsimp only) | (intro _ _; try dsimp only) | split | dsimp only)
theorem execQuayGatePoll_ok (p : PortIx) (s : State) (hs : MemOk s) : OutOk (execQuayGatePoll p s) := by
  unfold execQuayGatePoll
  repeat' (first | with_reducible assumption | with_reducible apply pollRx_ok | with_reducible apply pollTx_ok | with_reducible apply next_ok | apply hs | simp only [MemOk_mk])
theorem startRx_ok (s : State) (p stream : Nat) (hs : MemOk s) : MemOk (startRx s p stream) := by
  unfold startRx
  repeat' (first | with_reducible assumption | with_reducible apply quayFault_ok | with_reducible apply setPort_ok | with_reducible apply ok_ite | with_reducible apply out_ite | apply hs | simp only [MemOk_mk])

end Sys2Proof.Machine
end

