-- ==== Sys2Proof/Laws/WfRoots.lean ====
section
/-! SUPPORT. The operations and commands of Machine/Roots.lean keep the canonical form of memory. -/

namespace Sys2Proof.Machine

theorem identitySet_ok (s : State) (l : Layer) (set gen : Nat) (hs : MemOk s) : MemOk (identitySet s l set gen) := by
  unfold identitySet
  repeat' (first | with_reducible assumption | with_reducible apply putAll_ok | with_reducible apply putMem_ok | apply hs | simp only [MemOk_mk])
theorem identityReplica_ok (s : State) (pn : Panel) (g : Bool) (i gen : Nat) (hs : MemOk s) : MemOk (identityReplica s pn g i gen) := by
  unfold identityReplica
  repeat' (first | with_reducible assumption | with_reducible apply putMem_ok | with_reducible apply ok_ite | with_reducible apply out_ite | apply hs | simp only [MemOk_mk])
theorem launchRoots_ok (s : State) (l : Layer) (hs : MemOk s) : MemOk (launchRoots s l) := by
  unfold launchRoots
  dsimp only
  repeat' (first | with_reducible assumption | with_reducible apply identitySet_ok | with_reducible apply identityReplica_ok | with_reducible apply ok_foldl | apply hs | simp only [MemOk_mk] | (intro _ _ _; try dsimp only) | (intro _ _; try dsimp only) | split)
theorem countRoot_ok (s : State) (set off : Nat) (hs : MemOk s) : MemOk (countRoot s set off) := by
  unfold countRoot
  repeat' (first | with_reducible assumption | with_reducible apply putNum_ok | apply hs | simp only [MemOk_mk])
theorem putRoot_ok (s : State) (l : Layer) (n : Nat) (bs : List Byte) (hs : MemOk s) : MemOk (putRoot s l n bs) := by
  unfold putRoot
  repeat' (first | with_reducible assumption | with_reducible apply putMem_ok | apply hs | simp only [MemOk_mk])
theorem putCycle_ok (s : State) (c : Cycle) (hs : MemOk s) : MemOk (putCycle s c) := by
  unfold putCycle
  repeat' (first | with_reducible assumption | with_reducible apply setJob_ok | apply hs | simp only [MemOk_mk])
theorem endCycle_ok (s : State) (num : Nat) (hs : MemOk s) : MemOk (endCycle s num) := by
  unfold endCycle
  repeat' (first | with_reducible assumption | with_reducible apply setJob_ok | apply hs | simp only [MemOk_mk])
theorem finishFactor_ok (s : State) (l : Layer) (n off : Nat) (hs : MemOk s) : MemOk (finishFactor s l n off) := by
  unfold finishFactor
  dsimp only
  repeat' (first | with_reducible assumption | with_reducible apply countRoot_ok | with_reducible apply putCycle_ok | apply hs | simp only [MemOk_mk] | (intro _ _ _; try dsimp only) | (intro _ _; try dsimp only) | split)
theorem copyInput_ok (l : Layer) (s : State) (n : Nat) (hs : MemOk s) : MemOk (copyInput l s n) := by
  unfold copyInput
  dsimp only
  repeat' (first | with_reducible assumption | with_reducible apply putMem_ok | with_reducible apply consumeRange_ok | with_reducible apply ok_ite | with_reducible apply out_ite | apply hs | simp only [MemOk_mk] | (intro _ _ _; try dsimp only) | (intro _ _; try dsimp only) | split)
theorem identityFactor_ok (l : Layer) (s : State) (n : Nat) (hs : MemOk s) : MemOk (identityFactor l s n) := by
  unfold identityFactor
  repeat' (first | with_reducible assumption | with_reducible apply finishFactor_ok | with_reducible apply putRoot_ok | with_reducible apply ok_ite | with_reducible apply out_ite | apply hs | simp only [MemOk_mk] | (intro _ _ _; try dsimp only) | (intro _ _; try dsimp only) | split | dsimp only)
theorem openCycle_ok (s : State) (l : Layer) (step : Nat) (hs : MemOk s) : MemOk (openCycle s l step) := by
  unfold openCycle
  repeat' (first | with_reducible assumption | with_reducible apply putMem_ok | with_reducible apply identityFactor_ok | with_reducible apply putCycle_ok | with_reducible apply ok_foldl | apply hs | simp only [MemOk_mk])
theorem beginCycle_ok (s : State) (l : Layer) (step : Nat) (hs : MemOk s) : MemOk (beginCycle s l step) := by
  unfold beginCycle
  repeat' (first | with_reducible assumption | with_reducible apply openCycle_ok | with_reducible apply copyInput_ok | with_reducible apply ok_foldl | apply hs | simp only [MemOk_mk])
theorem placeFacet_ok (l : Layer) (s : State) (p : FacetPlace) (hs : MemOk s) : MemOk (placeFacet l s p) := by
  unfold placeFacet
  dsimp only
  repeat' (first | with_reducible assumption | with_reducible apply consumeRange_ok | with_reducible apply putAll_ok | with_reducible apply putMem_ok | with_reducible apply countRoot_ok | with_reducible apply putCycle_ok | with_reducible apply ok_ite | with_reducible apply out_ite | apply hs | simp only [MemOk_mk] | (intro _ _ _; try dsimp only) | (intro _ _; try dsimp only) | split)
theorem execRefreshCycleStart_ok (layer step : BitVec 32) (places : List FacetPlace) (s : State) (hs : MemOk s) : OutOk (execRefreshCycleStart layer step places s) := by
  unfold execRefreshCycleStart
  dsimp only
  repeat' (first | with_reducible assumption | with_reducible apply turnedAway_ok | with_reducible apply beginCycle_ok | with_reducible apply whenever_ok | with_reducible apply spendFree_ok | with_reducible apply placeFacet_ok | with_reducible apply ok_ite | with_reducible apply out_ite | with_reducible apply ok_foldl | apply hs | simp only [MemOk_mk] | (intro _ _ _; try dsimp only) | (intro _ _; try dsimp only) | split)
theorem execRootBankSwap_ok (layer : BitVec 32) (s : State) (hs : MemOk s) : OutOk (execRootBankSwap layer s) := by
  unfold execRootBankSwap
  dsimp only
  repeat' (first | with_reducible assumption | with_reducible apply turnedAway_ok | with_reducible apply whenever_ok | with_reducible apply endCycle_ok | with_reducible apply putNum_ok | apply hs | simp only [MemOk_mk] | (intro _ _ _; try dsimp only) | (intro _ _; try dsimp only) | split)
theorem collectFacet_ok (l : Layer) (s : State) (p : Placed) (hs : MemOk s) : MemOk (collectFacet l s p) := by
  unfold collectFacet
  dsimp only
  repeat' (first | with_reducible assumption | with_reducible apply putRoot_ok | with_reducible apply consumeAll_ok | with_reducible apply countRoot_ok | with_reducible apply finishFactor_ok | with_reducible apply ok_ite | with_reducible apply out_ite | apply hs | simp only [MemOk_mk] | (intro _ _ _; try dsimp only) | (intro _ _; try dsimp only) | split)
theorem collectSolved_ok (s : State) (c : Nat) (k : CraneCmd) (hs : MemOk s) : MemOk (collectSolved s c k) := by
  unfold collectSolved
  dsimp only
  repeat' (first | with_reducible assumption | with_reducible apply collectFacet_ok | with_reducible apply ok_ite | with_reducible apply out_ite | with_reducible apply ok_foldl | apply hs | simp only [MemOk_mk] | (intro _ _ _; try dsimp only) | (intro _ _; try dsimp only) | split)
theorem execCraneRetire_ok (c : CraneIx) (q : Queue) (s : State) (hs : MemOk s) : OutOk (execCraneRetire c q s) := by
  unfold execCraneRetire
  dsimp only
  repeat' (first | with_reducible assumption | with_reducible apply turnedAway_ok | with_reducible apply setCrane_ok | with_reducible apply fput_ok | with_reducible apply countLatency_ok | with_reducible apply countEvent_ok | with_reducible apply whenever_ok | with_reducible apply completeTag_ok | with_reducible apply spendFree_ok | with_reducible apply collectSolved_ok | with_reducible apply ok_ite | with_reducible apply out_ite | apply hs | simp only [MemOk_mk] | (intro _ _ _; try dsimp only) | (intro _ _; try dsimp only) | split)
theorem keepStale_ok (s : State) (l : Layer) (x : Factor) (n : Nat) (hs : MemOk s) : MemOk (keepStale s l x n) := by
  unfold keepStale
  repeat' (first | with_reducible assumption | with_reducible apply finishFactor_ok | with_reducible apply putRoot_ok | with_reducible apply consumeRange_ok | apply hs | simp only [MemOk_mk])
theorem startRetry_ok (s : State) (l : Layer) (x : Factor) (c : Cycle) (p : Placed) (hs : MemOk s) : MemOk (startRetry s l x c p) := by
  unfold startRetry
  repeat' (first | with_reducible assumption | with_reducible apply putAll_ok | with_reducible apply putMem_ok | with_reducible apply countRoot_ok | with_reducible apply putCycle_ok | with_reducible apply ok_ite | with_reducible apply out_ite | apply hs | simp only [MemOk_mk])
theorem execSolveRetry_ok (layer : BitVec 32) (slot : BitVec 16) (s : State) (hs : MemOk s) : OutOk (execSolveRetry layer slot s) := by
  unfold execSolveRetry
  dsimp only
  repeat' (first | with_reducible assumption | with_reducible apply turnedAway_ok | with_reducible apply spendFree_ok | with_reducible apply keepStale_ok | with_reducible apply whenever_ok | with_reducible apply startRetry_ok | with_reducible apply ok_ite | with_reducible apply out_ite | with_reducible apply next_ok | apply hs | simp only [MemOk_mk] | (intro _ _ _; try dsimp only) | (intro _ _; try dsimp only) | split)
theorem putSketch_ok (s : State) (l : Layer) (x : Factor) (n : Nat) (h : RecHead) (retried : Bool) (k : SketchRoot) (hs : MemOk s) : MemOk (putSketch s l x n h retried k) := by
  unfold putSketch
  repeat' (first | with_reducible assumption | with_reducible apply finishFactor_ok | with_reducible apply putRoot_ok | with_reducible apply ok_ite | with_reducible apply out_ite | apply hs | simp only [MemOk_mk])
theorem sketchRoot_ok (s : State) (l : Layer) (x : Factor) (n : Nat) (hs : MemOk s) : MemOk (sketchRoot s l x n) := by
  unfold sketchRoot
  dsimp only
  repeat' (first | with_reducible assumption | with_reducible apply consumeRange_ok | with_reducible apply keepStale_ok | with_reducible apply putSketch_ok | with_reducible apply countRoot_ok | with_reducible apply ok_ite | with_reducible apply out_ite | apply hs | simp only [MemOk_mk] | (intro _ _ _; try dsimp only) | (intro _ _; try dsimp only) | split)
theorem execSketchRoot_ok (layer : BitVec 32) (g : Bool) (s : State) (hs : MemOk s) : OutOk (execSketchRoot layer g s) := by
  unfold execSketchRoot
  repeat' (first | with_reducible assumption | with_reducible apply turnedAway_ok | with_reducible apply whenever_ok | with_reducible apply spendFree_ok | with_reducible apply sketchRoot_ok | apply hs | simp only [MemOk_mk] | (intro _ _ _; try dsimp only) | (intro _ _; try dsimp only) | split | dsimp only)
theorem diagonalRoot_ok (s : State) (l : Layer) (x : Factor) (n : Nat) (hs : MemOk s) : MemOk (diagonalRoot s l x n) := by
  unfold diagonalRoot
  repeat' (first | with_reducible assumption | with_reducible apply consumeRange_ok | with_reducible apply keepStale_ok | with_reducible apply finishFactor_ok | with_reducible apply putRoot_ok | with_reducible apply ok_ite | with_reducible apply out_ite | apply hs | simp only [MemOk_mk])
theorem execDiagonalRoot_ok (layer : BitVec 32) (g : Bool) (s : State) (hs : MemOk s) : OutOk (execDiagonalRoot layer g s) := by
  unfold execDiagonalRoot
  repeat' (first | with_reducible assumption | with_reducible apply turnedAway_ok | with_reducible apply whenever_ok | with_reducible apply spendFree_ok | with_reducible apply diagonalRoot_ok | apply hs | simp only [MemOk_mk] | (intro _ _ _; try dsimp only) | (intro _ _; try dsimp only) | split | dsimp only)

end Sys2Proof.Machine
end

