-- ==== Sys2Proof/Laws/WfUpdate.lean ====
section
/-! SUPPORT. The operations and commands of Machine/Update.lean keep the canonical form of memory. -/

namespace Sys2Proof.Machine

theorem setUpd_ok (s : State) (d : Die) (l : List UpdOp) (hs : MemOk s) : MemOk (setUpd s d l) := by
  unfold setUpd
  repeat' (first | with_reducible assumption | with_reducible apply ok_ite | with_reducible apply out_ite | apply hs | simp only [MemOk_mk])
theorem setUpdHeld_ok (s : State) (d : Die) (l : List Nat) (hs : MemOk s) : MemOk (setUpdHeld s d l) := by
  unfold setUpdHeld
  repeat' (first | with_reducible assumption | with_reducible apply ok_ite | with_reducible apply out_ite | apply hs | simp only [MemOk_mk])
theorem issueUpd_ok (s : State) (d : Die) (desc : Nat) (hs : MemOk s) : MemOk (issueUpd s d desc) := by
  unfold issueUpd
  repeat' (first | with_reducible assumption | with_reducible apply fput_ok | with_reducible apply setUpd_ok | with_reducible apply setUpdHeld_ok | with_reducible apply ok_ite | with_reducible apply out_ite | apply hs | simp only [MemOk_mk])
theorem execLedgerUpdRelease_ok (d : Die) (s : State) (hs : MemOk s) : OutOk (execLedgerUpdRelease d s) := by
  unfold execLedgerUpdRelease
  repeat' (first | with_reducible assumption | with_reducible apply turnedAway_ok | with_reducible apply whenever_ok | with_reducible apply setUpdHeld_ok | with_reducible apply setUpd_ok | apply hs | simp only [MemOk_mk] | (intro _ _ _; try dsimp only) | (intro _ _; try dsimp only) | split | dsimp only)
theorem carryOut_ok (d : Die) (t s : State) (ht : MemOk t) (hs : MemOk s) : OutOk (carryOut d t s) := by
  unfold carryOut
  repeat' (first | with_reducible assumption | with_reducible apply whenever_ok | with_reducible apply spendFree_ok | with_reducible apply setUpd_ok | apply ht | apply hs | simp only [MemOk_mk])
theorem execUpdateOpRetire_ok (d : Die) (s : State) (hs : MemOk s) : OutOk (execUpdateOpRetire d s) := by
  unfold execUpdateOpRetire
  dsimp only
  repeat' (first | with_reducible assumption | with_reducible apply turnedAway_ok | with_reducible apply whenever_ok | with_reducible apply countEvent_ok | with_reducible apply fput_ok | with_reducible apply setUpd_ok | with_reducible apply ok_ite | with_reducible apply out_ite | apply hs | simp only [MemOk_mk] | (intro _ _ _; try dsimp only) | (intro _ _; try dsimp only) | split)
theorem execGpack_ok (o : GpackOp) (s : State) (hs : MemOk s) : OutOk (execGpack o s) := by
  unfold execGpack
  dsimp only
  repeat' (first | with_reducible assumption | with_reducible apply turnedAway_ok | with_reducible apply consumeAll_ok | with_reducible apply putMem_ok | with_reducible apply carryOut_ok | with_reducible apply ok_ite | with_reducible apply out_ite | apply hs | simp only [MemOk_mk] | (intro _ _ _; try dsimp only) | (intro _ _; try dsimp only) | split)
theorem copyFactors_ok (s t : State) (k : Nat) (pn : Panel) (st : Nat) (hs : MemOk s) (ht : MemOk t) : MemOk (copyFactors s t k pn st) := by
  unfold copyFactors
  repeat' (first | with_reducible assumption | with_reducible apply putAll_ok | apply hs | apply ht | simp only [MemOk_mk])
theorem execUpdate_ok (o : UpdateOp) (s : State) (hs : MemOk s) : OutOk (execUpdate o s) := by
  unfold execUpdate
  dsimp only
  repeat' (first | with_reducible assumption | with_reducible apply turnedAway_ok | with_reducible apply consumeAll_ok | with_reducible apply copyFactors_ok | with_reducible apply putMem_ok | with_reducible apply carryOut_ok | with_reducible apply putShadow_ok | with_reducible apply ok_ite | with_reducible apply out_ite | apply hs | simp only [MemOk_mk] | (intro _ _ _; try dsimp only) | (intro _ _; try dsimp only) | split)
theorem execEmit_ok (o : EmitOp) (s : State) (hs : MemOk s) : OutOk (execEmit o s) := by
  unfold execEmit
  dsimp only
  repeat' (first | with_reducible assumption | with_reducible apply turnedAway_ok | with_reducible apply consumeAll_ok | with_reducible apply putMem_ok | with_reducible apply carryOut_ok | with_reducible apply putShadow_ok | with_reducible apply ok_ite | with_reducible apply out_ite | apply hs | simp only [MemOk_mk] | (intro _ _ _; try dsimp only) | (intro _ _; try dsimp only) | split)
theorem acceptFlip_ok (s : State) (index : Nat) (hs : MemOk s) : MemOk (acceptFlip s index) := by
  unfold acceptFlip
  repeat' (first | with_reducible assumption | with_reducible apply fput_ok | apply hs | simp only [MemOk_mk])
theorem execLedgerFlip_ok (index : BitVec 16) (s : State) (hs : MemOk s) : OutOk (execLedgerFlip index s) := by
  unfold execLedgerFlip
  repeat' (first | with_reducible assumption | with_reducible apply whenever_ok | with_reducible apply acceptFlip_ok | apply hs | simp only [MemOk_mk])
theorem copyLedger_ok (s : State) (st : Nat) (hs : MemOk s) : MemOk (copyLedger s st) := by
  unfold copyLedger
  repeat' (first | with_reducible assumption | apply hs | simp only [MemOk_mk])
theorem closeStep_ok (s : State) (st : Nat) (hs : MemOk s) : MemOk (closeStep s st) := by
  unfold closeStep
  repeat' (first | with_reducible assumption | with_reducible apply setJob_ok | with_reducible apply copyLedger_ok | with_reducible apply ok_ite | with_reducible apply out_ite | apply hs | simp only [MemOk_mk])
theorem performFlip_ok (s : State) (k : Nat) (rest : List Nat) (pn : Panel) (sh : Shadow) (hs : MemOk s) : MemOk (performFlip s k rest pn sh) := by
  unfold performFlip
  repeat' (first | with_reducible assumption | with_reducible apply consumeRange_ok | with_reducible apply putMem_ok | with_reducible apply fput_ok | with_reducible apply fcount_ok | with_reducible apply closeStep_ok | with_reducible apply countEvent_ok | apply hs | simp only [MemOk_mk])
theorem execFlipPerformed_ok (s : State) (hs : MemOk s) : OutOk (execFlipPerformed s) := by
  unfold execFlipPerformed
  dsimp only
  repeat' (first | with_reducible assumption | with_reducible apply turnedAway_ok | with_reducible apply whenever_ok | with_reducible apply spendFree_ok | with_reducible apply performFlip_ok | apply hs | simp only [MemOk_mk] | (intro _ _ _; try dsimp only) | (intro _ _; try dsimp only) | split)

end Sys2Proof.Machine
end

