-- ==== Sys2Proof/Laws/WfBarge.lean ====
section
/-! SUPPORT. The operations and commands of Machine/Barge.lean keep the canonical form of memory. -/

namespace Sys2Proof.Machine

theorem readAhead_ok (s : State) (b : Nat) (hs : MemOk s) : MemOk (readAhead s b) := by
  unfold readAhead
  dsimp only
  repeat' (first | with_reducible assumption | with_reducible apply setBarge_ok | with_reducible apply ok_ite | with_reducible apply out_ite | apply hs | simp only [MemOk_mk] | (intro _ _ _; try dsimp only) | (intro _ _; try dsimp only) | split)
theorem enqueueStart_ok (s : State) (b : Nat) (x : BargeStart) (hs : MemOk s) : MemOk (enqueueStart s b x) := by
  unfold enqueueStart
  repeat' (first | with_reducible assumption | with_reducible apply readAhead_ok | with_reducible apply setBarge_ok | with_reducible apply ok_ite | with_reducible apply out_ite | apply hs | simp only [MemOk_mk])
theorem writeBargeStart_ok (s : State) (who : Agent) (die stream b : Nat) (hs : MemOk s) : MemOk (writeBargeStart s who die stream b) := by
  unfold writeBargeStart
  repeat' (first | with_reducible assumption | with_reducible apply violation_ok | with_reducible apply enqueueStart_ok | with_reducible apply ok_ite | with_reducible apply out_ite | apply hs | simp only [MemOk_mk] | (intro _ _ _; try dsimp only) | (intro _ _; try dsimp only) | split | dsimp only)
theorem execBargeStart_ok (who : Agent) (die : Die) (stream : BitVec 16) (b : Fin 32) (s : State) (hs : MemOk s) : OutOk (execBargeStart who die stream b s) := by
  unfold execBargeStart
  repeat' (first | with_reducible assumption | with_reducible apply writeBargeStart_ok | with_reducible apply next_ok | apply hs | simp only [MemOk_mk])
theorem execBargeStartRelease_ok (b : BargeIx) (s : State) (hs : MemOk s) : OutOk (execBargeStartRelease b s) := by
  unfold execBargeStartRelease
  dsimp only
  repeat' (first | with_reducible assumption | with_reducible apply turnedAway_ok | with_reducible apply whenever_ok | with_reducible apply readAhead_ok | with_reducible apply setBarge_ok | apply hs | simp only [MemOk_mk] | (intro _ _ _; try dsimp only) | (intro _ _; try dsimp only) | split)
theorem rejectStream_ok (s : State) (b : Nat) (x : BargeStart) (cause : Nat) (hs : MemOk s) : MemOk (rejectStream s b x cause) := by
  unfold rejectStream
  repeat' (first | with_reducible assumption | with_reducible apply countEvent_ok | with_reducible apply fput_ok | with_reducible apply fputBool_ok | with_reducible apply ok_ite | with_reducible apply out_ite | apply hs | simp only [MemOk_mk])
theorem bargeHome_ok (s : State) (d : List Byte) (write : Bool) (hs : MemOk s) : MemOk (bargeHome s d write) := by
  unfold bargeHome
  repeat' (first | with_reducible assumption | with_reducible apply hcRange_ok | with_reducible apply ok_foldl | apply hs | simp only [MemOk_mk] | (intro _ _ _; try dsimp only) | (intro _ _; try dsimp only) | split | dsimp only)
theorem bargeConsume_ok (s : State) (b : Nat) (d : List Byte) (hs : MemOk s) : MemOk (bargeConsume s b d) := by
  unfold bargeConsume
  repeat' (first | with_reducible assumption | with_reducible apply consumePoison_ok | with_reducible apply ok_ite | with_reducible apply out_ite | with_reducible apply ok_foldl | apply hs | simp only [MemOk_mk] | (intro _ _ _; try dsimp only) | (intro _ _; try dsimp only) | split | dsimp only)
theorem beginStream_ok (s : State) (b : Nat) (r : BargeRun) (hs : MemOk s) : MemOk (beginStream s b r) := by
  unfold beginStream
  repeat' (first | with_reducible assumption | with_reducible apply spendFree_ok | with_reducible apply bargeHome_ok | with_reducible apply bargeConsume_ok | with_reducible apply setBarge_ok | with_reducible apply ok_ite | with_reducible apply out_ite | apply hs | simp only [MemOk_mk])
theorem execBargeStreamStart_ok (b : BargeIx) (errs : List MemErr) (s : State) (hs : MemOk s) : OutOk (execBargeStreamStart b errs s) := by
  unfold execBargeStreamStart
  dsimp only
  repeat' (first | with_reducible assumption | with_reducible apply turnedAway_ok | with_reducible apply meetErrors_ok | with_reducible apply setBarge_ok | with_reducible apply countEvent_ok | with_reducible apply beginStream_ok | with_reducible apply whenever_ok | with_reducible apply rejectStream_ok | with_reducible apply readAhead_ok | with_reducible apply ok_ite | with_reducible apply out_ite | apply hs | simp only [MemOk_mk] | (intro _ _ _; try dsimp only) | (intro _ _; try dsimp only) | split)
theorem execBargeGatePoll_ok (b : BargeIx) (errs : List MemErr) (s : State) (hs : MemOk s) : OutOk (execBargeGatePoll b errs s) := by
  unfold execBargeGatePoll
  repeat' (first | with_reducible assumption | with_reducible apply turnedAway_ok | with_reducible apply whenever_ok | with_reducible apply beginStream_ok | with_reducible apply meetErrors_ok | apply hs | simp only [MemOk_mk] | (intro _ _ _; try dsimp only) | (intro _ _; try dsimp only) | split | dsimp only)
theorem sealWard_ok (s : State) (d : List Byte) (hs : MemOk s) : MemOk (sealWard s d) := by
  unfold sealWard
  repeat' (first | with_reducible assumption | with_reducible apply writeBytes_ok | with_reducible apply ok_ite | with_reducible apply out_ite | apply hs | simp only [MemOk_mk])
theorem finishStream_ok (s : State) (b : Nat) (r : BargeRun) (ws : List BWrite) (out record : List Byte) (hs : MemOk s) : MemOk (finishStream s b r ws out record) := by
  unfold finishStream
  dsimp only
  repeat' (first | with_reducible assumption | with_reducible apply sealWard_ok | with_reducible apply bargeHome_ok | with_reducible apply performWrites_ok | with_reducible apply stageCell_ok | with_reducible apply writeBytes_ok | with_reducible apply writeNat_ok | with_reducible apply countLatency_ok | with_reducible apply countEvent_ok | with_reducible apply setBarge_ok | with_reducible apply spendFree_ok | with_reducible apply ok_ite | with_reducible apply out_ite | with_reducible apply ok_foldl | apply hs | simp only [MemOk_mk] | (intro _ _ _; try dsimp only) | (intro _ _; try dsimp only) | split)
theorem execBargeStreamComplete_ok (b : BargeIx) (s : State) (hs : MemOk s) : OutOk (execBargeStreamComplete b s) := by
  unfold execBargeStreamComplete
  dsimp only
  repeat' (first | with_reducible assumption | with_reducible apply turnedAway_ok | with_reducible apply setPort_ok | with_reducible apply finishStream_ok | with_reducible apply ok_ite | with_reducible apply out_ite | with_reducible apply next_ok | apply hs | simp only [MemOk_mk] | (intro _ _ _; try dsimp only) | (intro _ _; try dsimp only) | split)
theorem captureStorage_ok (s : State) (stream port cause : Nat) (hs : MemOk s) : MemOk (captureStorage s stream port cause) := by
  unfold captureStorage
  repeat' (first | with_reducible assumption | with_reducible apply fput_ok | with_reducible apply ok_ite | with_reducible apply out_ite | apply hs | simp only [MemOk_mk])
theorem storageFault_ok (s : State) (b : Nat) (r : BargeRun) (port cause : Nat) (hs : MemOk s) : MemOk (storageFault s b r port cause) := by
  unfold storageFault
  repeat' (first | with_reducible assumption | with_reducible apply setBarge_ok | with_reducible apply performWrites_ok | with_reducible apply captureStorage_ok | with_reducible apply fatal_ok | with_reducible apply ok_ite | with_reducible apply out_ite | apply hs | simp only [MemOk_mk])
theorem putReads_ok (s : State) (b : Nat) (r : BargeRun) (reads : List StorRead) (second : Bool) (hs : MemOk s) : MemOk (putReads s b r reads second) := by
  unfold putReads
  repeat' (first | with_reducible assumption | with_reducible apply setBarge_ok | apply hs | simp only [MemOk_mk])
theorem readFailed_ok (s : State) (b : Nat) (r : BargeRun) (reads : List StorRead) (second : Bool) (i : Nat) (x : StorRead) (cause : Nat) (hs : MemOk s) : MemOk (readFailed s b r reads second i x cause) := by
  unfold readFailed
  repeat' (first | with_reducible assumption | with_reducible apply storageFault_ok | with_reducible apply corrected_ok | with_reducible apply fcount_ok | with_reducible apply putReads_ok | with_reducible apply ok_ite | with_reducible apply out_ite | apply hs | simp only [MemOk_mk])
theorem extentArrived_ok (s : State) (b : Nat) (r : BargeRun) (data : List Byte) (second : Bool) (port : Nat) (hs : MemOk s) : MemOk (extentArrived s b r data second port) := by
  unfold extentArrived
  repeat' (first | with_reducible assumption | with_reducible apply storageFault_ok | with_reducible apply putReads_ok | with_reducible apply setBarge_ok | with_reducible apply ok_ite | with_reducible apply out_ite | apply hs | simp only [MemOk_mk])
theorem readDone_ok (s : State) (b : Nat) (r : BargeRun) (reads : List StorRead) (second : Bool) (i : Nat) (x : StorRead) (data : List Byte) (hs : MemOk s) : MemOk (readDone s b r reads second i x data) := by
  unfold readDone
  repeat' (first | with_reducible assumption | with_reducible apply fcount_ok | with_reducible apply extentArrived_ok | with_reducible apply putReads_ok | with_reducible apply ok_ite | with_reducible apply out_ite | apply hs | simp only [MemOk_mk])
theorem onRead_ok (b : BargeIx) (i : Nat) (f : BargeRun → List StorRead → Bool → StorRead → Out) (s : State)
    (hf : ∀ r l x y, OutOk (f r l x y)) (hs : MemOk s) : OutOk (onRead b i f s) := by
  unfold onRead
  repeat' (first | with_reducible apply turnedAway_ok | with_reducible assumption | apply hf | split)
theorem execStorageReadComplete_ok (b : BargeIx) (read : Nat) (ok : Bool) (data : List Byte) (s : State) (hs : MemOk s) :
    OutOk (execStorageReadComplete b read ok data s) := by
  unfold execStorageReadComplete
  refine onRead_ok _ _ _ _ (fun r l x y => ?_) hs
  refine out_ite _ _ _ (next_ok _ (readFailed_ok _ _ _ _ _ _ _ _ hs)) (whenever_ok _ _ _ (readDone_ok _ _ _ _ _ _ _ _ hs) hs)
theorem execStorageReadTimeout_ok (b : BargeIx) (read : Nat) (s : State) (hs : MemOk s) :
    OutOk (execStorageReadTimeout b read s) := by
  unfold execStorageReadTimeout
  exact onRead_ok _ _ _ _ (fun r l x y => next_ok _ (readFailed_ok _ _ _ _ _ _ _ _ hs)) hs
theorem execStorageLinkChange_ok (port : Fin 2) (linkUp : Bool) (connected : BitVec 16) (reconnected : Nat) (s : State) (hs : MemOk s) : OutOk (execStorageLinkChange port linkUp connected reconnected s) := by
  unfold execStorageLinkChange
  repeat' (first | with_reducible assumption | with_reducible apply fputBool_ok | with_reducible apply fcount_ok | with_reducible apply fput_ok | with_reducible apply ok_ite | with_reducible apply out_ite | with_reducible apply next_ok | apply hs | simp only [MemOk_mk])

end Sys2Proof.Machine
end

