-- ==== Sys2Proof/Laws/WfTugAlu.lean ====
section
/-! SUPPORT. The operations and commands of Machine/TugAlu.lean keep the canonical form of memory. -/

namespace Sys2Proof.Machine

theorem captureIllegal_ok (s : State) (t cause : Nat) (hs : MemOk s) : MemOk (captureIllegal s t cause) := by
  unfold captureIllegal
  repeat' (first | with_reducible assumption | with_reducible apply fput_ok | with_reducible apply ok_ite | with_reducible apply out_ite | apply hs | simp only [MemOk_mk])
theorem illegal_ok (s : State) (t cause : Nat) (hs : MemOk s) : MemOk (illegal s t cause) := by
  unfold illegal
  repeat' (first | with_reducible assumption | with_reducible apply park_ok | with_reducible apply captureIllegal_ok | with_reducible apply fatal_ok | with_reducible apply ok_ite | with_reducible apply out_ite | apply hs | simp only [MemOk_mk])
theorem countFetch_ok (s : State) (t : Nat) (hs : MemOk s) : MemOk (countFetch s t) := by
  unfold countFetch
  repeat' (first | with_reducible assumption | with_reducible apply countNowin_ok | with_reducible apply ok_ite | with_reducible apply out_ite | apply hs | simp only [MemOk_mk])
theorem execIll_ok (t : Tid) (cause : IllCause) (s : State) (hs : MemOk s) : OutOk (execIll t cause s) := by
  unfold execIll
  repeat' (first | with_reducible assumption | with_reducible apply fetching_ok | with_reducible apply illegal_ok | with_reducible apply countFetch_ok | with_reducible apply next_ok | apply hs | simp only [MemOk_mk] | (intro _ _ _; try dsimp only) | (intro _ _; try dsimp only) | split | dsimp only)
theorem alu2_ok (t : Tid) (rd ra rb : RegIx) (f : Word → Word → Word) (s : State) (hs : MemOk s) : OutOk (alu2 t rd ra rb f s) := by
  unfold alu2
  repeat' (first | with_reducible assumption | with_reducible apply issueWith_ok | with_reducible apply retire_ok | with_reducible apply setG_ok | apply hs | simp only [MemOk_mk] | (intro _ _ _; try dsimp only) | (intro _ _; try dsimp only) | split | dsimp only)
theorem alu1_ok (t : Tid) (rd ra : RegIx) (f : Word → Word) (s : State) (hs : MemOk s) : OutOk (alu1 t rd ra f s) := by
  unfold alu1
  repeat' (first | with_reducible assumption | with_reducible apply issueWith_ok | with_reducible apply retire_ok | with_reducible apply setG_ok | apply hs | simp only [MemOk_mk] | (intro _ _ _; try dsimp only) | (intro _ _; try dsimp only) | split | dsimp only)
theorem execAdd_ok (t : Tid) (rd ra rb : RegIx) (s : State) (hs : MemOk s) : OutOk (execAdd t rd ra rb s) := by
  unfold execAdd
  repeat' (first | with_reducible assumption | with_reducible apply fetching_ok | with_reducible apply alu2_ok | apply hs | simp only [MemOk_mk])
theorem execSub_ok (t : Tid) (rd ra rb : RegIx) (s : State) (hs : MemOk s) : OutOk (execSub t rd ra rb s) := by
  unfold execSub
  repeat' (first | with_reducible assumption | with_reducible apply fetching_ok | with_reducible apply alu2_ok | apply hs | simp only [MemOk_mk])
theorem execAnd_ok (t : Tid) (rd ra rb : RegIx) (s : State) (hs : MemOk s) : OutOk (execAnd t rd ra rb s) := by
  unfold execAnd
  repeat' (first | with_reducible assumption | with_reducible apply fetching_ok | with_reducible apply alu2_ok | apply hs | simp only [MemOk_mk])
theorem execOr_ok (t : Tid) (rd ra rb : RegIx) (s : State) (hs : MemOk s) : OutOk (execOr t rd ra rb s) := by
  unfold execOr
  repeat' (first | with_reducible assumption | with_reducible apply fetching_ok | with_reducible apply alu2_ok | apply hs | simp only [MemOk_mk])
theorem execXor_ok (t : Tid) (rd ra rb : RegIx) (s : State) (hs : MemOk s) : OutOk (execXor t rd ra rb s) := by
  unfold execXor
  repeat' (first | with_reducible assumption | with_reducible apply fetching_ok | with_reducible apply alu2_ok | apply hs | simp only [MemOk_mk])
theorem execSll_ok (t : Tid) (rd ra rb : RegIx) (s : State) (hs : MemOk s) : OutOk (execSll t rd ra rb s) := by
  unfold execSll
  repeat' (first | with_reducible assumption | with_reducible apply fetching_ok | with_reducible apply alu2_ok | apply hs | simp only [MemOk_mk])
theorem execSrl_ok (t : Tid) (rd ra rb : RegIx) (s : State) (hs : MemOk s) : OutOk (execSrl t rd ra rb s) := by
  unfold execSrl
  repeat' (first | with_reducible assumption | with_reducible apply fetching_ok | with_reducible apply alu2_ok | apply hs | simp only [MemOk_mk])
theorem execSra_ok (t : Tid) (rd ra rb : RegIx) (s : State) (hs : MemOk s) : OutOk (execSra t rd ra rb s) := by
  unfold execSra
  repeat' (first | with_reducible assumption | with_reducible apply fetching_ok | with_reducible apply alu2_ok | apply hs | simp only [MemOk_mk])
theorem execSlt_ok (t : Tid) (rd ra rb : RegIx) (s : State) (hs : MemOk s) : OutOk (execSlt t rd ra rb s) := by
  unfold execSlt
  repeat' (first | with_reducible assumption | with_reducible apply fetching_ok | with_reducible apply alu2_ok | apply hs | simp only [MemOk_mk])
theorem execSltu_ok (t : Tid) (rd ra rb : RegIx) (s : State) (hs : MemOk s) : OutOk (execSltu t rd ra rb s) := by
  unfold execSltu
  repeat' (first | with_reducible assumption | with_reducible apply fetching_ok | with_reducible apply alu2_ok | apply hs | simp only [MemOk_mk])
theorem execMin_ok (t : Tid) (rd ra rb : RegIx) (s : State) (hs : MemOk s) : OutOk (execMin t rd ra rb s) := by
  unfold execMin
  repeat' (first | with_reducible assumption | with_reducible apply fetching_ok | with_reducible apply alu2_ok | with_reducible apply ok_ite | with_reducible apply out_ite | apply hs | simp only [MemOk_mk])
theorem execMax_ok (t : Tid) (rd ra rb : RegIx) (s : State) (hs : MemOk s) : OutOk (execMax t rd ra rb s) := by
  unfold execMax
  repeat' (first | with_reducible assumption | with_reducible apply fetching_ok | with_reducible apply alu2_ok | with_reducible apply ok_ite | with_reducible apply out_ite | apply hs | simp only [MemOk_mk])
theorem execMinu_ok (t : Tid) (rd ra rb : RegIx) (s : State) (hs : MemOk s) : OutOk (execMinu t rd ra rb s) := by
  unfold execMinu
  repeat' (first | with_reducible assumption | with_reducible apply fetching_ok | with_reducible apply alu2_ok | with_reducible apply ok_ite | with_reducible apply out_ite | apply hs | simp only [MemOk_mk])
theorem execMaxu_ok (t : Tid) (rd ra rb : RegIx) (s : State) (hs : MemOk s) : OutOk (execMaxu t rd ra rb s) := by
  unfold execMaxu
  repeat' (first | with_reducible assumption | with_reducible apply fetching_ok | with_reducible apply alu2_ok | with_reducible apply ok_ite | with_reducible apply out_ite | apply hs | simp only [MemOk_mk])
theorem execMul_ok (t : Tid) (rd ra rb : RegIx) (s : State) (hs : MemOk s) : OutOk (execMul t rd ra rb s) := by
  unfold execMul
  repeat' (first | with_reducible assumption | with_reducible apply fetching_ok | with_reducible apply alu2_ok | apply hs | simp only [MemOk_mk])
theorem execMulh_ok (t : Tid) (rd ra rb : RegIx) (s : State) (hs : MemOk s) : OutOk (execMulh t rd ra rb s) := by
  unfold execMulh
  repeat' (first | with_reducible assumption | with_reducible apply fetching_ok | with_reducible apply alu2_ok | apply hs | simp only [MemOk_mk])
theorem execMulhu_ok (t : Tid) (rd ra rb : RegIx) (s : State) (hs : MemOk s) : OutOk (execMulhu t rd ra rb s) := by
  unfold execMulhu
  repeat' (first | with_reducible assumption | with_reducible apply fetching_ok | with_reducible apply alu2_ok | apply hs | simp only [MemOk_mk])
theorem execDiv_ok (t : Tid) (rd ra rb : RegIx) (s : State) (hs : MemOk s) : OutOk (execDiv t rd ra rb s) := by
  unfold execDiv
  repeat' (first | with_reducible assumption | with_reducible apply fetching_ok | with_reducible apply alu2_ok | apply hs | simp only [MemOk_mk])
theorem execDivu_ok (t : Tid) (rd ra rb : RegIx) (s : State) (hs : MemOk s) : OutOk (execDivu t rd ra rb s) := by
  unfold execDivu
  repeat' (first | with_reducible assumption | with_reducible apply fetching_ok | with_reducible apply alu2_ok | with_reducible apply ok_ite | with_reducible apply out_ite | apply hs | simp only [MemOk_mk])
theorem execRem_ok (t : Tid) (rd ra rb : RegIx) (s : State) (hs : MemOk s) : OutOk (execRem t rd ra rb s) := by
  unfold execRem
  repeat' (first | with_reducible assumption | with_reducible apply fetching_ok | with_reducible apply alu2_ok | apply hs | simp only [MemOk_mk])
theorem execRemu_ok (t : Tid) (rd ra rb : RegIx) (s : State) (hs : MemOk s) : OutOk (execRemu t rd ra rb s) := by
  unfold execRemu
  repeat' (first | with_reducible assumption | with_reducible apply fetching_ok | with_reducible apply alu2_ok | with_reducible apply ok_ite | with_reducible apply out_ite | apply hs | simp only [MemOk_mk])
theorem execAddw_ok (t : Tid) (rd ra rb : RegIx) (s : State) (hs : MemOk s) : OutOk (execAddw t rd ra rb s) := by
  unfold execAddw
  repeat' (first | with_reducible assumption | with_reducible apply fetching_ok | with_reducible apply alu2_ok | apply hs | simp only [MemOk_mk])
theorem execSubw_ok (t : Tid) (rd ra rb : RegIx) (s : State) (hs : MemOk s) : OutOk (execSubw t rd ra rb s) := by
  unfold execSubw
  repeat' (first | with_reducible assumption | with_reducible apply fetching_ok | with_reducible apply alu2_ok | apply hs | simp only [MemOk_mk])
theorem execClz_ok (t : Tid) (rd ra : RegIx) (s : State) (hs : MemOk s) : OutOk (execClz t rd ra s) := by
  unfold execClz
  repeat' (first | with_reducible assumption | with_reducible apply fetching_ok | with_reducible apply alu1_ok | apply hs | simp only [MemOk_mk])
theorem execCtz_ok (t : Tid) (rd ra : RegIx) (s : State) (hs : MemOk s) : OutOk (execCtz t rd ra s) := by
  unfold execCtz
  repeat' (first | with_reducible assumption | with_reducible apply fetching_ok | with_reducible apply alu1_ok | apply hs | simp only [MemOk_mk])
theorem execPopc_ok (t : Tid) (rd ra : RegIx) (s : State) (hs : MemOk s) : OutOk (execPopc t rd ra s) := by
  unfold execPopc
  repeat' (first | with_reducible assumption | with_reducible apply fetching_ok | with_reducible apply alu1_ok | apply hs | simp only [MemOk_mk])
theorem execAddi_ok (t : Tid) (rd ra : RegIx) (imm : BitVec 16) (s : State) (hs : MemOk s) : OutOk (execAddi t rd ra imm s) := by
  unfold execAddi
  repeat' (first | with_reducible assumption | with_reducible apply fetching_ok | with_reducible apply alu1_ok | apply hs | simp only [MemOk_mk])
theorem execAndi_ok (t : Tid) (rd ra : RegIx) (imm : BitVec 16) (s : State) (hs : MemOk s) : OutOk (execAndi t rd ra imm s) := by
  unfold execAndi
  repeat' (first | with_reducible assumption | with_reducible apply fetching_ok | with_reducible apply alu1_ok | apply hs | simp only [MemOk_mk])
theorem execOri_ok (t : Tid) (rd ra : RegIx) (imm : BitVec 16) (s : State) (hs : MemOk s) : OutOk (execOri t rd ra imm s) := by
  unfold execOri
  repeat' (first | with_reducible assumption | with_reducible apply fetching_ok | with_reducible apply alu1_ok | apply hs | simp only [MemOk_mk])
theorem execXori_ok (t : Tid) (rd ra : RegIx) (imm : BitVec 16) (s : State) (hs : MemOk s) : OutOk (execXori t rd ra imm s) := by
  unfold execXori
  repeat' (first | with_reducible assumption | with_reducible apply fetching_ok | with_reducible apply alu1_ok | apply hs | simp only [MemOk_mk])
theorem execSlti_ok (t : Tid) (rd ra : RegIx) (imm : BitVec 16) (s : State) (hs : MemOk s) : OutOk (execSlti t rd ra imm s) := by
  unfold execSlti
  repeat' (first | with_reducible assumption | with_reducible apply fetching_ok | with_reducible apply alu1_ok | apply hs | simp only [MemOk_mk])
theorem execLui_ok (t : Tid) (rd : RegIx) (imm : BitVec 16) (s : State) (hs : MemOk s) : OutOk (execLui t rd imm s) := by
  unfold execLui
  repeat' (first | with_reducible assumption | with_reducible apply fetching_ok | with_reducible apply issueWith_ok | with_reducible apply retire_ok | with_reducible apply setG_ok | apply hs | simp only [MemOk_mk] | (intro _ _ _; try dsimp only) | (intro _ _; try dsimp only) | split | dsimp only)
theorem execLsh16_ok (t : Tid) (rd ra : RegIx) (imm : BitVec 16) (s : State) (hs : MemOk s) : OutOk (execLsh16 t rd ra imm s) := by
  unfold execLsh16
  repeat' (first | with_reducible assumption | with_reducible apply fetching_ok | with_reducible apply alu1_ok | apply hs | simp only [MemOk_mk])
theorem execShi_ok (t : Tid) (rd ra : RegIx) (imm : BitVec 16) (s : State) (hs : MemOk s) : OutOk (execShi t rd ra imm s) := by
  unfold execShi
  repeat' (first | with_reducible assumption | with_reducible apply fetching_ok | with_reducible apply whenever_ok | with_reducible apply illegal_ok | with_reducible apply alu1_ok | with_reducible apply ok_ite | with_reducible apply out_ite | apply hs | simp only [MemOk_mk] | (intro _ _ _; try dsimp only) | (intro _ _; try dsimp only) | split | dsimp only)
theorem branchIf_ok (t : Tid) (ra rb : RegIx) (imm : BitVec 16) (c : Word → Word → Bool) (s : State) (hs : MemOk s) : OutOk (branchIf t ra rb imm c s) := by
  unfold branchIf
  repeat' (first | with_reducible assumption | with_reducible apply issueWith_ok | with_reducible apply retireTo_ok | with_reducible apply ok_ite | with_reducible apply out_ite | apply hs | simp only [MemOk_mk] | (intro _ _ _; try dsimp only) | (intro _ _; try dsimp only) | split | dsimp only)
theorem execBeq_ok (t : Tid) (ra rb : RegIx) (imm : BitVec 16) (s : State) (hs : MemOk s) : OutOk (execBeq t ra rb imm s) := by
  unfold execBeq
  repeat' (first | with_reducible assumption | with_reducible apply fetching_ok | with_reducible apply branchIf_ok | apply hs | simp only [MemOk_mk])
theorem execBne_ok (t : Tid) (ra rb : RegIx) (imm : BitVec 16) (s : State) (hs : MemOk s) : OutOk (execBne t ra rb imm s) := by
  unfold execBne
  repeat' (first | with_reducible assumption | with_reducible apply fetching_ok | with_reducible apply branchIf_ok | apply hs | simp only [MemOk_mk])
theorem execBlt_ok (t : Tid) (ra rb : RegIx) (imm : BitVec 16) (s : State) (hs : MemOk s) : OutOk (execBlt t ra rb imm s) := by
  unfold execBlt
  repeat' (first | with_reducible assumption | with_reducible apply fetching_ok | with_reducible apply branchIf_ok | apply hs | simp only [MemOk_mk])
theorem execBge_ok (t : Tid) (ra rb : RegIx) (imm : BitVec 16) (s : State) (hs : MemOk s) : OutOk (execBge t ra rb imm s) := by
  unfold execBge
  repeat' (first | with_reducible assumption | with_reducible apply fetching_ok | with_reducible apply branchIf_ok | apply hs | simp only [MemOk_mk])
theorem execBltu_ok (t : Tid) (ra rb : RegIx) (imm : BitVec 16) (s : State) (hs : MemOk s) : OutOk (execBltu t ra rb imm s) := by
  unfold execBltu
  repeat' (first | with_reducible assumption | with_reducible apply fetching_ok | with_reducible apply branchIf_ok | apply hs | simp only [MemOk_mk])
theorem execBgeu_ok (t : Tid) (ra rb : RegIx) (imm : BitVec 16) (s : State) (hs : MemOk s) : OutOk (execBgeu t ra rb imm s) := by
  unfold execBgeu
  repeat' (first | with_reducible assumption | with_reducible apply fetching_ok | with_reducible apply branchIf_ok | apply hs | simp only [MemOk_mk])
theorem execJ_ok (t : Tid) (imm : BitVec 26) (s : State) (hs : MemOk s) : OutOk (execJ t imm s) := by
  unfold execJ
  repeat' (first | with_reducible assumption | with_reducible apply fetching_ok | with_reducible apply issueWith_ok | with_reducible apply retireTo_ok | apply hs | simp only [MemOk_mk] | (intro _ _ _; try dsimp only) | (intro _ _; try dsimp only) | split | dsimp only)
theorem execJal_ok (t : Tid) (imm : BitVec 26) (s : State) (hs : MemOk s) : OutOk (execJal t imm s) := by
  unfold execJal
  repeat' (first | with_reducible assumption | with_reducible apply fetching_ok | with_reducible apply issueWith_ok | with_reducible apply retireTo_ok | with_reducible apply setG_ok | apply hs | simp only [MemOk_mk] | (intro _ _ _; try dsimp only) | (intro _ _; try dsimp only) | split | dsimp only)
theorem execJalr_ok (t : Tid) (rd ra : RegIx) (imm : BitVec 16) (s : State) (hs : MemOk s) : OutOk (execJalr t rd ra imm s) := by
  unfold execJalr
  repeat' (first | with_reducible assumption | with_reducible apply fetching_ok | with_reducible apply issueWith_ok | with_reducible apply retireTo_ok | with_reducible apply setG_ok | apply hs | simp only [MemOk_mk] | (intro _ _ _; try dsimp only) | (intro _ _; try dsimp only) | split | dsimp only)

end Sys2Proof.Machine
end

