-- ==== Sys2Proof/Laws/WfTugFp.lean ====
section
/-! SUPPORT. The operations and commands of Machine/TugFp.lean keep the canonical form of memory. -/

namespace Sys2Proof.Machine

theorem fpFinish_ok (s : State) (t rd : Nat) (bits : Word) (fl : BitVec 4) (hs : MemOk s) : MemOk (fpFinish s t rd bits fl) := by
  unfold fpFinish
  repeat' (first | with_reducible assumption | with_reducible apply retire_ok | with_reducible apply orFstat_ok | with_reducible apply setG_ok | apply hs | simp only [MemOk_mk])
theorem fp2_ok (t : Tid) (sz : FSize) (rd ra rb : RegIx) (f : Fmt → Num → Num → Num × BitVec 4) (s : State) (hs : MemOk s) : OutOk (fp2 t sz rd ra rb f s) := by
  unfold fp2
  dsimp only
  repeat' (first | with_reducible assumption | with_reducible apply issueWith_ok | with_reducible apply fpFinish_ok | apply hs | simp only [MemOk_mk] | (intro _ _ _; try dsimp only) | (intro _ _; try dsimp only) | split)
theorem execFadd_ok (t : Tid) (sz : FSize) (rd ra rb : RegIx) (s : State) (hs : MemOk s) : OutOk (execFadd t sz rd ra rb s) := by
  unfold execFadd
  repeat' (first | with_reducible assumption | with_reducible apply fetching_ok | with_reducible apply fp2_ok | apply hs | simp only [MemOk_mk])
theorem execFsub_ok (t : Tid) (sz : FSize) (rd ra rb : RegIx) (s : State) (hs : MemOk s) : OutOk (execFsub t sz rd ra rb s) := by
  unfold execFsub
  repeat' (first | with_reducible assumption | with_reducible apply fetching_ok | with_reducible apply fp2_ok | apply hs | simp only [MemOk_mk])
theorem execFmul_ok (t : Tid) (sz : FSize) (rd ra rb : RegIx) (s : State) (hs : MemOk s) : OutOk (execFmul t sz rd ra rb s) := by
  unfold execFmul
  repeat' (first | with_reducible assumption | with_reducible apply fetching_ok | with_reducible apply fp2_ok | apply hs | simp only [MemOk_mk])
theorem execFdiv_ok (t : Tid) (sz : FSize) (rd ra rb : RegIx) (s : State) (hs : MemOk s) : OutOk (execFdiv t sz rd ra rb s) := by
  unfold execFdiv
  repeat' (first | with_reducible assumption | with_reducible apply fetching_ok | with_reducible apply fp2_ok | apply hs | simp only [MemOk_mk])
theorem execFmin_ok (t : Tid) (sz : FSize) (rd ra rb : RegIx) (s : State) (hs : MemOk s) : OutOk (execFmin t sz rd ra rb s) := by
  unfold execFmin
  repeat' (first | with_reducible assumption | with_reducible apply fetching_ok | with_reducible apply fp2_ok | apply hs | simp only [MemOk_mk])
theorem execFmax_ok (t : Tid) (sz : FSize) (rd ra rb : RegIx) (s : State) (hs : MemOk s) : OutOk (execFmax t sz rd ra rb s) := by
  unfold execFmax
  repeat' (first | with_reducible assumption | with_reducible apply fetching_ok | with_reducible apply fp2_ok | apply hs | simp only [MemOk_mk])
theorem execFsqrt_ok (t : Tid) (sz : FSize) (rd ra : RegIx) (s : State) (hs : MemOk s) : OutOk (execFsqrt t sz rd ra s) := by
  unfold execFsqrt
  dsimp only
  repeat' (first | with_reducible assumption | with_reducible apply fetching_ok | with_reducible apply issueWith_ok | with_reducible apply fpFinish_ok | apply hs | simp only [MemOk_mk] | (intro _ _ _; try dsimp only) | (intro _ _; try dsimp only) | split)
theorem execFmadd_ok (t : Tid) (sz : FSize) (rd ra rb : RegIx) (s : State) (hs : MemOk s) : OutOk (execFmadd t sz rd ra rb s) := by
  unfold execFmadd
  dsimp only
  repeat' (first | with_reducible assumption | with_reducible apply fetching_ok | with_reducible apply issueWith_ok | with_reducible apply fpFinish_ok | apply hs | simp only [MemOk_mk] | (intro _ _ _; try dsimp only) | (intro _ _; try dsimp only) | split)
theorem fpConvert_ok (t : Tid) (rd ra : RegIx) (f : Word → Word × BitVec 4) (s : State) (hs : MemOk s) : OutOk (fpConvert t rd ra f s) := by
  unfold fpConvert
  repeat' (first | with_reducible assumption | with_reducible apply issueWith_ok | with_reducible apply fpFinish_ok | apply hs | simp only [MemOk_mk] | (intro _ _ _; try dsimp only) | (intro _ _; try dsimp only) | split | dsimp only)
theorem execFcvtSD_ok (t : Tid) (rd ra : RegIx) (s : State) (hs : MemOk s) : OutOk (execFcvtSD t rd ra s) := by
  unfold execFcvtSD
  repeat' (first | with_reducible assumption | with_reducible apply fetching_ok | with_reducible apply fpConvert_ok | apply hs | simp only [MemOk_mk])
theorem execFcvtDS_ok (t : Tid) (rd ra : RegIx) (s : State) (hs : MemOk s) : OutOk (execFcvtDS t rd ra s) := by
  unfold execFcvtDS
  repeat' (first | with_reducible assumption | with_reducible apply fetching_ok | with_reducible apply fpConvert_ok | apply hs | simp only [MemOk_mk])
theorem execFcvtLD_ok (t : Tid) (rd ra : RegIx) (s : State) (hs : MemOk s) : OutOk (execFcvtLD t rd ra s) := by
  unfold execFcvtLD
  repeat' (first | with_reducible assumption | with_reducible apply fetching_ok | with_reducible apply fpConvert_ok | apply hs | simp only [MemOk_mk])
theorem execFcvtDL_ok (t : Tid) (rd ra : RegIx) (s : State) (hs : MemOk s) : OutOk (execFcvtDL t rd ra s) := by
  unfold execFcvtDL
  repeat' (first | with_reducible assumption | with_reducible apply fetching_ok | with_reducible apply fpConvert_ok | apply hs | simp only [MemOk_mk])
theorem execFcvtBfS_ok (t : Tid) (rd ra : RegIx) (s : State) (hs : MemOk s) : OutOk (execFcvtBfS t rd ra s) := by
  unfold execFcvtBfS
  repeat' (first | with_reducible assumption | with_reducible apply fetching_ok | with_reducible apply fpConvert_ok | apply hs | simp only [MemOk_mk])
theorem fpCompare_ok (t : Tid) (rd ra rb : RegIx) (f : Num → Num → Bool × BitVec 4) (s : State) (hs : MemOk s) : OutOk (fpCompare t rd ra rb f s) := by
  unfold fpCompare
  dsimp only
  repeat' (first | with_reducible assumption | with_reducible apply issueWith_ok | with_reducible apply fpFinish_ok | apply hs | simp only [MemOk_mk] | (intro _ _ _; try dsimp only) | (intro _ _; try dsimp only) | split)
theorem execFeqD_ok (t : Tid) (rd ra rb : RegIx) (s : State) (hs : MemOk s) : OutOk (execFeqD t rd ra rb s) := by
  unfold execFeqD
  repeat' (first | with_reducible assumption | with_reducible apply fetching_ok | with_reducible apply fpCompare_ok | apply hs | simp only [MemOk_mk])
theorem execFltD_ok (t : Tid) (rd ra rb : RegIx) (s : State) (hs : MemOk s) : OutOk (execFltD t rd ra rb s) := by
  unfold execFltD
  repeat' (first | with_reducible assumption | with_reducible apply fetching_ok | with_reducible apply fpCompare_ok | apply hs | simp only [MemOk_mk])
theorem execFleD_ok (t : Tid) (rd ra rb : RegIx) (s : State) (hs : MemOk s) : OutOk (execFleD t rd ra rb s) := by
  unfold execFleD
  repeat' (first | with_reducible assumption | with_reducible apply fetching_ok | with_reducible apply fpCompare_ok | apply hs | simp only [MemOk_mk])

end Sys2Proof.Machine
end

