-- ==== Sys2Proof/Laws/WfTugSimd.lean ====
section
/-! SUPPORT. The operations and commands of Machine/TugSimd.lean keep the canonical form of memory. -/

namespace Sys2Proof.Machine

theorem simdFinish_ok (s : State) (o : VOp) (x : VWord) (fl : BitVec 4) (hs : MemOk s) : MemOk (simdFinish s o x fl) := by
  unfold simdFinish
  repeat' (first | with_reducible assumption | with_reducible apply retire_ok | with_reducible apply orFstat_ok | with_reducible apply setV_ok | apply hs | simp only [MemOk_mk])
theorem simdMap_ok (s : State) (o : VOp) (w : Nat) (f : Nat → Nat × BitVec 4) (hs : MemOk s) : MemOk (simdMap s o w f) := by
  unfold simdMap
  repeat' (first | with_reducible assumption | with_reducible apply simdFinish_ok | apply hs | simp only [MemOk_mk])
theorem simd_ok (o : VOp) (legal : Bool) (gs vs : List Nat) (f : State → State) (s : State) (hf : ∀ s, MemOk s → MemOk (f s)) (hs : MemOk s) : OutOk (simd o legal gs vs f s) := by
  unfold simd
  repeat' (first | with_reducible assumption | with_reducible apply issueWith_ok | with_reducible apply whenever_ok | with_reducible apply illegal_ok | with_reducible apply ok_ite | with_reducible apply out_ite | apply hf | apply hs | simp only [MemOk_mk])
theorem simdArith_ok (o : VOp) (fi : Int → Int → Int) (ff : Fmt → Num → Num → Num × BitVec 4) (s : State) (hs : MemOk s) : OutOk (simdArith o fi ff s) := by
  unfold simdArith
  dsimp only
  repeat' (first | with_reducible assumption | with_reducible apply simd_ok | with_reducible apply simdMap_ok | with_reducible apply ok_ite | with_reducible apply out_ite | apply hs | simp only [MemOk_mk] | (intro _ _ _; try dsimp only) | (intro _ _; try dsimp only) | split)
theorem execVadd_ok (o : VOp) (s : State) (hs : MemOk s) : OutOk (execVadd o s) := by
  unfold execVadd
  repeat' (first | with_reducible assumption | with_reducible apply fetching_ok | with_reducible apply simdArith_ok | apply hs | simp only [MemOk_mk])
theorem execVsub_ok (o : VOp) (s : State) (hs : MemOk s) : OutOk (execVsub o s) := by
  unfold execVsub
  repeat' (first | with_reducible assumption | with_reducible apply fetching_ok | with_reducible apply simdArith_ok | apply hs | simp only [MemOk_mk])
theorem execVmul_ok (o : VOp) (s : State) (hs : MemOk s) : OutOk (execVmul o s) := by
  unfold execVmul
  repeat' (first | with_reducible assumption | with_reducible apply fetching_ok | with_reducible apply simdArith_ok | apply hs | simp only [MemOk_mk])
theorem execVmin_ok (o : VOp) (s : State) (hs : MemOk s) : OutOk (execVmin o s) := by
  unfold execVmin
  repeat' (first | with_reducible assumption | with_reducible apply fetching_ok | with_reducible apply simdArith_ok | with_reducible apply ok_ite | with_reducible apply out_ite | apply hs | simp only [MemOk_mk])
theorem execVmax_ok (o : VOp) (s : State) (hs : MemOk s) : OutOk (execVmax o s) := by
  unfold execVmax
  repeat' (first | with_reducible assumption | with_reducible apply fetching_ok | with_reducible apply simdArith_ok | with_reducible apply ok_ite | with_reducible apply out_ite | apply hs | simp only [MemOk_mk])
theorem execVfma_ok (o : VOp) (s : State) (hs : MemOk s) : OutOk (execVfma o s) := by
  unfold execVfma
  dsimp only
  repeat' (first | with_reducible assumption | with_reducible apply fetching_ok | with_reducible apply simd_ok | with_reducible apply simdMap_ok | apply hs | simp only [MemOk_mk] | (intro _ _ _; try dsimp only) | (intro _ _; try dsimp only) | split)
theorem execVdiv_ok (o : VOp) (s : State) (hs : MemOk s) : OutOk (execVdiv o s) := by
  unfold execVdiv
  dsimp only
  repeat' (first | with_reducible assumption | with_reducible apply fetching_ok | with_reducible apply simd_ok | with_reducible apply simdMap_ok | apply hs | simp only [MemOk_mk] | (intro _ _ _; try dsimp only) | (intro _ _; try dsimp only) | split)
theorem execVsqrt_ok (o : VOp) (s : State) (hs : MemOk s) : OutOk (execVsqrt o s) := by
  unfold execVsqrt
  dsimp only
  repeat' (first | with_reducible assumption | with_reducible apply fetching_ok | with_reducible apply simd_ok | with_reducible apply simdMap_ok | apply hs | simp only [MemOk_mk] | (intro _ _ _; try dsimp only) | (intro _ _; try dsimp only) | split)
theorem simdBits_ok (o : VOp) (f : Nat → Nat → Nat → Nat) (s : State) (hs : MemOk s) : OutOk (simdBits o f s) := by
  unfold simdBits
  dsimp only
  repeat' (first | with_reducible assumption | with_reducible apply simd_ok | with_reducible apply simdMap_ok | apply hs | simp only [MemOk_mk] | (intro _ _ _; try dsimp only) | (intro _ _; try dsimp only) | split)
theorem execVand_ok (o : VOp) (s : State) (hs : MemOk s) : OutOk (execVand o s) := by
  unfold execVand
  repeat' (first | with_reducible assumption | with_reducible apply fetching_ok | with_reducible apply simdBits_ok | apply hs | simp only [MemOk_mk])
theorem execVor_ok (o : VOp) (s : State) (hs : MemOk s) : OutOk (execVor o s) := by
  unfold execVor
  repeat' (first | with_reducible assumption | with_reducible apply fetching_ok | with_reducible apply simdBits_ok | apply hs | simp only [MemOk_mk])
theorem execVxor_ok (o : VOp) (s : State) (hs : MemOk s) : OutOk (execVxor o s) := by
  unfold execVxor
  repeat' (first | with_reducible assumption | with_reducible apply fetching_ok | with_reducible apply simdBits_ok | apply hs | simp only [MemOk_mk])
theorem execVshl_ok (o : VOp) (s : State) (hs : MemOk s) : OutOk (execVshl o s) := by
  unfold execVshl
  repeat' (first | with_reducible assumption | with_reducible apply fetching_ok | with_reducible apply simdBits_ok | apply hs | simp only [MemOk_mk])
theorem execVshr_ok (o : VOp) (s : State) (hs : MemOk s) : OutOk (execVshr o s) := by
  unfold execVshr
  repeat' (first | with_reducible assumption | with_reducible apply fetching_ok | with_reducible apply simdBits_ok | apply hs | simp only [MemOk_mk])
theorem execVsra_ok (o : VOp) (s : State) (hs : MemOk s) : OutOk (execVsra o s) := by
  unfold execVsra
  repeat' (first | with_reducible assumption | with_reducible apply fetching_ok | with_reducible apply simdBits_ok | apply hs | simp only [MemOk_mk])
theorem simdCompare_ok (o : VOp) (fi : Int → Int → Bool) (ff : Num → Num → Bool × BitVec 4) (s : State) (hs : MemOk s) : OutOk (simdCompare o fi ff s) := by
  unfold simdCompare
  dsimp only
  repeat' (first | with_reducible assumption | with_reducible apply simd_ok | with_reducible apply simdMap_ok | with_reducible apply ok_ite | with_reducible apply out_ite | apply hs | simp only [MemOk_mk] | (intro _ _ _; try dsimp only) | (intro _ _; try dsimp only) | split)
theorem execVceq_ok (o : VOp) (s : State) (hs : MemOk s) : OutOk (execVceq o s) := by
  unfold execVceq
  repeat' (first | with_reducible assumption | with_reducible apply fetching_ok | with_reducible apply simdCompare_ok | apply hs | simp only [MemOk_mk])
theorem execVclt_ok (o : VOp) (s : State) (hs : MemOk s) : OutOk (execVclt o s) := by
  unfold execVclt
  repeat' (first | with_reducible assumption | with_reducible apply fetching_ok | with_reducible apply simdCompare_ok | apply hs | simp only [MemOk_mk])
theorem execVcle_ok (o : VOp) (s : State) (hs : MemOk s) : OutOk (execVcle o s) := by
  unfold execVcle
  repeat' (first | with_reducible assumption | with_reducible apply fetching_ok | with_reducible apply simdCompare_ok | apply hs | simp only [MemOk_mk])
theorem execVsel_ok (o : VOp) (s : State) (hs : MemOk s) : OutOk (execVsel o s) := by
  unfold execVsel
  dsimp only
  repeat' (first | with_reducible assumption | with_reducible apply fetching_ok | with_reducible apply simd_ok | with_reducible apply simdMap_ok | with_reducible apply ok_ite | with_reducible apply out_ite | apply hs | simp only [MemOk_mk] | (intro _ _ _; try dsimp only) | (intro _ _; try dsimp only) | split)
theorem simdReduce_ok (o : VOp) (fi : Int → Int → Int) (ff : Fmt → Num → Num → Num × BitVec 4) (rest : VWord → Nat → Nat) (s : State) (hs : MemOk s) : OutOk (simdReduce o fi ff rest s) := by
  unfold simdReduce
  dsimp only
  repeat' (first | with_reducible assumption | with_reducible apply simd_ok | with_reducible apply simdFinish_ok | with_reducible apply ok_ite | with_reducible apply out_ite | apply hs | simp only [MemOk_mk] | (intro _ _ _; try dsimp only) | (intro _ _; try dsimp only) | split)
theorem execVredadd_ok (o : VOp) (s : State) (hs : MemOk s) : OutOk (execVredadd o s) := by
  unfold execVredadd
  repeat' (first | with_reducible assumption | with_reducible apply fetching_ok | with_reducible apply simdReduce_ok | apply hs | simp only [MemOk_mk])
theorem execVredmax_ok (o : VOp) (s : State) (hs : MemOk s) : OutOk (execVredmax o s) := by
  unfold execVredmax
  repeat' (first | with_reducible assumption | with_reducible apply fetching_ok | with_reducible apply simdReduce_ok | with_reducible apply ok_ite | with_reducible apply out_ite | apply hs | simp only [MemOk_mk])
theorem execVcvt_ok (o : VOp) (s : State) (hs : MemOk s) : OutOk (execVcvt o s) := by
  unfold execVcvt
  dsimp only
  repeat' (first | with_reducible assumption | with_reducible apply fetching_ok | with_reducible apply simd_ok | with_reducible apply simdMap_ok | with_reducible apply ok_ite | with_reducible apply out_ite | apply hs | simp only [MemOk_mk] | (intro _ _ _; try dsimp only) | (intro _ _; try dsimp only) | split)
theorem simdPack_ok (o : VOp) (gr : Bool) (mode : State → Word → Nat → Rnd) (s : State) (hs : MemOk s) : OutOk (simdPack o gr mode s) := by
  unfold simdPack
  dsimp only
  repeat' (first | with_reducible assumption | with_reducible apply simd_ok | with_reducible apply simdFinish_ok | with_reducible apply ok_ite | with_reducible apply out_ite | apply hs | simp only [MemOk_mk] | (intro _ _ _; try dsimp only) | (intro _ _; try dsimp only) | split)
theorem execVpack8e_ok (o : VOp) (s : State) (hs : MemOk s) : OutOk (execVpack8e o s) := by
  unfold execVpack8e
  repeat' (first | with_reducible assumption | with_reducible apply fetching_ok | with_reducible apply simdPack_ok | apply hs | simp only [MemOk_mk])
theorem execVpack8g_ok (o : VOp) (s : State) (hs : MemOk s) : OutOk (execVpack8g o s) := by
  unfold execVpack8g
  repeat' (first | with_reducible assumption | with_reducible apply fetching_ok | with_reducible apply simdPack_ok | apply hs | simp only [MemOk_mk])
theorem execVpack8gs_ok (o : VOp) (s : State) (hs : MemOk s) : OutOk (execVpack8gs o s) := by
  unfold execVpack8gs
  repeat' (first | with_reducible assumption | with_reducible apply fetching_ok | with_reducible apply simdPack_ok | apply hs | simp only [MemOk_mk])
theorem simdUnpack_ok (o : VOp) (gr : Bool) (s : State) (hs : MemOk s) : OutOk (simdUnpack o gr s) := by
  unfold simdUnpack
  dsimp only
  repeat' (first | with_reducible assumption | with_reducible apply simd_ok | with_reducible apply simdFinish_ok | with_reducible apply ok_ite | with_reducible apply out_ite | apply hs | simp only [MemOk_mk] | (intro _ _ _; try dsimp only) | (intro _ _; try dsimp only) | split)
theorem execVunpack8e_ok (o : VOp) (s : State) (hs : MemOk s) : OutOk (execVunpack8e o s) := by
  unfold execVunpack8e
  repeat' (first | with_reducible assumption | with_reducible apply fetching_ok | with_reducible apply simdUnpack_ok | apply hs | simp only [MemOk_mk])
theorem execVunpack8g_ok (o : VOp) (s : State) (hs : MemOk s) : OutOk (execVunpack8g o s) := by
  unfold execVunpack8g
  repeat' (first | with_reducible assumption | with_reducible apply fetching_ok | with_reducible apply simdUnpack_ok | apply hs | simp only [MemOk_mk])
theorem execVperm_ok (o : VOp) (s : State) (hs : MemOk s) : OutOk (execVperm o s) := by
  unfold execVperm
  repeat' (first | with_reducible assumption | with_reducible apply fetching_ok | with_reducible apply simd_ok | with_reducible apply simdMap_ok | apply hs | simp only [MemOk_mk] | (intro _ _ _; try dsimp only) | (intro _ _; try dsimp only) | split | dsimp only)
theorem execVbcast_ok (o : VOp) (s : State) (hs : MemOk s) : OutOk (execVbcast o s) := by
  unfold execVbcast
  dsimp only
  repeat' (first | with_reducible assumption | with_reducible apply fetching_ok | with_reducible apply simd_ok | with_reducible apply simdMap_ok | apply hs | simp only [MemOk_mk] | (intro _ _ _; try dsimp only) | (intro _ _; try dsimp only) | split)
theorem execVext_ok (o : VOp) (s : State) (hs : MemOk s) : OutOk (execVext o s) := by
  unfold execVext
  dsimp only
  repeat' (first | with_reducible assumption | with_reducible apply fetching_ok | with_reducible apply simd_ok | with_reducible apply retire_ok | with_reducible apply setG_ok | with_reducible apply ok_ite | with_reducible apply out_ite | apply hs | simp only [MemOk_mk] | (intro _ _ _; try dsimp only) | (intro _ _; try dsimp only) | split)

end Sys2Proof.Machine
end

