-- ==== Sys2Proof/Laws/WfTugMem.lean ====
section
/-! SUPPORT. The operations and commands of Machine/TugMem.lean keep the canonical form of memory. -/

namespace Sys2Proof.Machine

theorem takeSlot_ok (s : State) (a : Access) (hs : MemOk s) : MemOk (takeSlot s a) := by
  unfold takeSlot
  repeat' (first | with_reducible assumption | with_reducible apply overtake_ok | with_reducible apply setCore_ok | with_reducible apply retire_ok | with_reducible apply setThread_ok | with_reducible apply ok_ite | with_reducible apply out_ite | apply hs | simp only [MemOk_mk])
theorem holdAccess_ok (s : State) (a : Access) (hs : MemOk s) : MemOk (holdAccess s a) := by
  unfold holdAccess
  repeat' (first | with_reducible assumption | with_reducible apply takeSlot_ok | with_reducible apply setThread_ok | with_reducible apply ok_ite | with_reducible apply out_ite | apply hs | simp only [MemOk_mk])
theorem writeDest_ok (s : State) (a : Access) (x : Nat) (hs : MemOk s) : MemOk (writeDest s a x) := by
  unfold writeDest
  repeat' (first | with_reducible assumption | with_reducible apply setG_ok | with_reducible apply setV_ok | with_reducible apply ok_ite | with_reducible apply out_ite | apply hs | simp only [MemOk_mk] | (intro _ _ _; try dsimp only) | (intro _ _; try dsimp only) | split | dsimp only)
theorem dispatchAccess_ok (s : State) (a : Access) (hs : MemOk s) : MemOk (dispatchAccess s a) := by
  unfold dispatchAccess
  dsimp only
  repeat' (first | with_reducible assumption | with_reducible apply countLatency_ok | with_reducible apply tookFree_ok | with_reducible apply retire_ok | with_reducible apply writeDest_ok | with_reducible apply holdAccess_ok | with_reducible apply setCore_ok | with_reducible apply ok_ite | with_reducible apply out_ite | apply hs | simp only [MemOk_mk] | (intro _ _ _; try dsimp only) | (intro _ _; try dsimp only) | split)
theorem access_ok (s : State) (a : Access) (hs : MemOk s) : MemOk (access s a) := by
  unfold access
  repeat' (first | with_reducible assumption | with_reducible apply dispatchAccess_ok | with_reducible apply countIssue_ok | with_reducible apply violation_ok | with_reducible apply retire_ok | with_reducible apply writeDest_ok | with_reducible apply countEvent_ok | with_reducible apply countNowin_ok | apply hs | simp only [MemOk_mk] | (intro _ _ _; try dsimp only) | (intro _ _; try dsimp only) | split | dsimp only)
theorem memIssue_ok (t : Nat) (gs vs : List Nat) (wait : State → Bool) (f : State → State) (s : State) (hf : ∀ s, MemOk s → MemOk (f s)) (hs : MemOk s) : OutOk (memIssue t gs vs wait f s) := by
  unfold memIssue
  repeat' (first | with_reducible assumption | with_reducible apply stall_ok | with_reducible apply ok_ite | with_reducible apply out_ite | with_reducible apply next_ok | apply hf | apply hs | simp only [MemOk_mk])
theorem loadInstr_ok (t : Tid) (rd ra : RegIx) (imm : BitVec 16) (bytes : Nat) (signed : Bool) (s : State) (hs : MemOk s) : OutOk (loadInstr t rd ra imm bytes signed s) := by
  unfold loadInstr
  repeat' (first | with_reducible assumption | with_reducible apply memIssue_ok | with_reducible apply access_ok | apply hs | simp only [MemOk_mk] | (intro _ _ _; try dsimp only) | (intro _ _; try dsimp only) | split | dsimp only)
theorem storeInstr_ok (t : Tid) (rs ra : RegIx) (imm : BitVec 16) (bytes : Nat) (s : State) (hs : MemOk s) : OutOk (storeInstr t rs ra imm bytes s) := by
  unfold storeInstr
  repeat' (first | with_reducible assumption | with_reducible apply memIssue_ok | with_reducible apply access_ok | apply hs | simp only [MemOk_mk] | (intro _ _ _; try dsimp only) | (intro _ _; try dsimp only) | split | dsimp only)
theorem execLd_ok (t : Tid) (rd ra : RegIx) (imm : BitVec 16) (s : State) (hs : MemOk s) : OutOk (execLd t rd ra imm s) := by
  unfold execLd
  repeat' (first | with_reducible assumption | with_reducible apply fetching_ok | with_reducible apply loadInstr_ok | apply hs | simp only [MemOk_mk])
theorem execLw_ok (t : Tid) (rd ra : RegIx) (imm : BitVec 16) (s : State) (hs : MemOk s) : OutOk (execLw t rd ra imm s) := by
  unfold execLw
  repeat' (first | with_reducible assumption | with_reducible apply fetching_ok | with_reducible apply loadInstr_ok | apply hs | simp only [MemOk_mk])
theorem execLwu_ok (t : Tid) (rd ra : RegIx) (imm : BitVec 16) (s : State) (hs : MemOk s) : OutOk (execLwu t rd ra imm s) := by
  unfold execLwu
  repeat' (first | with_reducible assumption | with_reducible apply fetching_ok | with_reducible apply loadInstr_ok | apply hs | simp only [MemOk_mk])
theorem execLh_ok (t : Tid) (rd ra : RegIx) (imm : BitVec 16) (s : State) (hs : MemOk s) : OutOk (execLh t rd ra imm s) := by
  unfold execLh
  repeat' (first | with_reducible assumption | with_reducible apply fetching_ok | with_reducible apply loadInstr_ok | apply hs | simp only [MemOk_mk])
theorem execLhu_ok (t : Tid) (rd ra : RegIx) (imm : BitVec 16) (s : State) (hs : MemOk s) : OutOk (execLhu t rd ra imm s) := by
  unfold execLhu
  repeat' (first | with_reducible assumption | with_reducible apply fetching_ok | with_reducible apply loadInstr_ok | apply hs | simp only [MemOk_mk])
theorem execLb_ok (t : Tid) (rd ra : RegIx) (imm : BitVec 16) (s : State) (hs : MemOk s) : OutOk (execLb t rd ra imm s) := by
  unfold execLb
  repeat' (first | with_reducible assumption | with_reducible apply fetching_ok | with_reducible apply loadInstr_ok | apply hs | simp only [MemOk_mk])
theorem execLbu_ok (t : Tid) (rd ra : RegIx) (imm : BitVec 16) (s : State) (hs : MemOk s) : OutOk (execLbu t rd ra imm s) := by
  unfold execLbu
  repeat' (first | with_reducible assumption | with_reducible apply fetching_ok | with_reducible apply loadInstr_ok | apply hs | simp only [MemOk_mk])
theorem execSd_ok (t : Tid) (rs ra : RegIx) (imm : BitVec 16) (s : State) (hs : MemOk s) : OutOk (execSd t rs ra imm s) := by
  unfold execSd
  repeat' (first | with_reducible assumption | with_reducible apply fetching_ok | with_reducible apply storeInstr_ok | apply hs | simp only [MemOk_mk])
theorem execSw_ok (t : Tid) (rs ra : RegIx) (imm : BitVec 16) (s : State) (hs : MemOk s) : OutOk (execSw t rs ra imm s) := by
  unfold execSw
  repeat' (first | with_reducible assumption | with_reducible apply fetching_ok | with_reducible apply storeInstr_ok | apply hs | simp only [MemOk_mk])
theorem execSh_ok (t : Tid) (rs ra : RegIx) (imm : BitVec 16) (s : State) (hs : MemOk s) : OutOk (execSh t rs ra imm s) := by
  unfold execSh
  repeat' (first | with_reducible assumption | with_reducible apply fetching_ok | with_reducible apply storeInstr_ok | apply hs | simp only [MemOk_mk])
theorem execSb_ok (t : Tid) (rs ra : RegIx) (imm : BitVec 16) (s : State) (hs : MemOk s) : OutOk (execSb t rs ra imm s) := by
  unfold execSb
  repeat' (first | with_reducible assumption | with_reducible apply fetching_ok | with_reducible apply storeInstr_ok | apply hs | simp only [MemOk_mk])
theorem execVld_ok (t : Tid) (vd ra : RegIx) (imm : BitVec 16) (s : State) (hs : MemOk s) : OutOk (execVld t vd ra imm s) := by
  unfold execVld
  repeat' (first | with_reducible assumption | with_reducible apply fetching_ok | with_reducible apply memIssue_ok | with_reducible apply access_ok | apply hs | simp only [MemOk_mk] | (intro _ _ _; try dsimp only) | (intro _ _; try dsimp only) | split | dsimp only)
theorem execVst_ok (t : Tid) (vs ra : RegIx) (imm : BitVec 16) (s : State) (hs : MemOk s) : OutOk (execVst t vs ra imm s) := by
  unfold execVst
  repeat' (first | with_reducible assumption | with_reducible apply fetching_ok | with_reducible apply memIssue_ok | with_reducible apply access_ok | apply hs | simp only [MemOk_mk] | (intro _ _ _; try dsimp only) | (intro _ _; try dsimp only) | split | dsimp only)
theorem amoInstr_ok (t : Tid) (rd ra rb : RegIx) (op : AmoOp) (sz : AmoSize) (aq rl : Bool) (s : State) (hs : MemOk s) : OutOk (amoInstr t rd ra rb op sz aq rl s) := by
  unfold amoInstr
  repeat' (first | with_reducible assumption | with_reducible apply memIssue_ok | with_reducible apply access_ok | with_reducible apply ok_ite | with_reducible apply out_ite | apply hs | simp only [MemOk_mk] | (intro _ _ _; try dsimp only) | (intro _ _; try dsimp only) | split | dsimp only)
theorem execAmoswap_ok (t : Tid) (rd ra rb : RegIx) (sz : AmoSize) (aq rl : Bool) (s : State) (hs : MemOk s) : OutOk (execAmoswap t rd ra rb sz aq rl s) := by
  unfold execAmoswap
  repeat' (first | with_reducible assumption | with_reducible apply fetching_ok | with_reducible apply amoInstr_ok | apply hs | simp only [MemOk_mk])
theorem execAmoadd_ok (t : Tid) (rd ra rb : RegIx) (sz : AmoSize) (aq rl : Bool) (s : State) (hs : MemOk s) : OutOk (execAmoadd t rd ra rb sz aq rl s) := by
  unfold execAmoadd
  repeat' (first | with_reducible assumption | with_reducible apply fetching_ok | with_reducible apply amoInstr_ok | apply hs | simp only [MemOk_mk])
theorem execAmoand_ok (t : Tid) (rd ra rb : RegIx) (sz : AmoSize) (aq rl : Bool) (s : State) (hs : MemOk s) : OutOk (execAmoand t rd ra rb sz aq rl s) := by
  unfold execAmoand
  repeat' (first | with_reducible assumption | with_reducible apply fetching_ok | with_reducible apply amoInstr_ok | apply hs | simp only [MemOk_mk])
theorem execAmoor_ok (t : Tid) (rd ra rb : RegIx) (sz : AmoSize) (aq rl : Bool) (s : State) (hs : MemOk s) : OutOk (execAmoor t rd ra rb sz aq rl s) := by
  unfold execAmoor
  repeat' (first | with_reducible assumption | with_reducible apply fetching_ok | with_reducible apply amoInstr_ok | apply hs | simp only [MemOk_mk])
theorem execAmomax_ok (t : Tid) (rd ra rb : RegIx) (sz : AmoSize) (aq rl : Bool) (s : State) (hs : MemOk s) : OutOk (execAmomax t rd ra rb sz aq rl s) := by
  unfold execAmomax
  repeat' (first | with_reducible assumption | with_reducible apply fetching_ok | with_reducible apply amoInstr_ok | apply hs | simp only [MemOk_mk])
theorem execAmomin_ok (t : Tid) (rd ra rb : RegIx) (sz : AmoSize) (aq rl : Bool) (s : State) (hs : MemOk s) : OutOk (execAmomin t rd ra rb sz aq rl s) := by
  unfold execAmomin
  repeat' (first | with_reducible assumption | with_reducible apply fetching_ok | with_reducible apply amoInstr_ok | apply hs | simp only [MemOk_mk])
theorem execAmomaxu_ok (t : Tid) (rd ra rb : RegIx) (sz : AmoSize) (aq rl : Bool) (s : State) (hs : MemOk s) : OutOk (execAmomaxu t rd ra rb sz aq rl s) := by
  unfold execAmomaxu
  repeat' (first | with_reducible assumption | with_reducible apply fetching_ok | with_reducible apply amoInstr_ok | apply hs | simp only [MemOk_mk])
theorem execAmominu_ok (t : Tid) (rd ra rb : RegIx) (sz : AmoSize) (aq rl : Bool) (s : State) (hs : MemOk s) : OutOk (execAmominu t rd ra rb sz aq rl s) := by
  unfold execAmominu
  repeat' (first | with_reducible assumption | with_reducible apply fetching_ok | with_reducible apply amoInstr_ok | apply hs | simp only [MemOk_mk])
theorem execAmocas_ok (t : Tid) (rd ra rb : RegIx) (sz : AmoSize) (aq rl : Bool) (s : State) (hs : MemOk s) : OutOk (execAmocas t rd ra rb sz aq rl s) := by
  unfold execAmocas
  repeat' (first | with_reducible assumption | with_reducible apply fetching_ok | with_reducible apply amoInstr_ok | apply hs | simp only [MemOk_mk])
theorem execRequestSlotFree_ok (t : Tid) (s : State) (hs : MemOk s) : OutOk (execRequestSlotFree t s) := by
  unfold execRequestSlotFree
  dsimp only
  repeat' (first | with_reducible assumption | with_reducible apply turnedAway_ok | with_reducible apply whenever_ok | with_reducible apply takeSlot_ok | with_reducible apply setThread_ok | apply hs | simp only [MemOk_mk] | (intro _ _ _; try dsimp only) | (intro _ _; try dsimp only) | split)
theorem execFetchMissFill_ok (t : Tid) (errs : List MemErr) (s : State) (hs : MemOk s) : OutOk (execFetchMissFill t errs s) := by
  unfold execFetchMissFill
  repeat' (first | with_reducible assumption | with_reducible apply hcAccess_ok | with_reducible apply countEvent_ok | with_reducible apply meetErrors_ok | with_reducible apply setCore_ok | with_reducible apply whenever_ok | with_reducible apply consumeRange_ok | apply hs | simp only [MemOk_mk])

end Sys2Proof.Machine
end

