-- ==== Sys2Proof/Laws/WfClock.lean ====
section
/-! SUPPORT. The operations and commands of Machine/Clock.lean keep the canonical form of memory. -/

namespace Sys2Proof.Machine

theorem wakeThread_ok (s : State) (t : Nat) (hs : MemOk s) : MemOk (wakeThread s t) := by
  unfold wakeThread
  repeat' (first | with_reducible assumption | with_reducible apply makeReady_ok | with_reducible apply ok_ite | with_reducible apply out_ite | apply hs | simp only [MemOk_mk] | (intro _ _ _; try dsimp only) | (intro _ _; try dsimp only) | split | dsimp only)
theorem wakeLate_ok (s : State) (hs : MemOk s) : MemOk (wakeLate s) := by
  unfold wakeLate
  repeat' (first | with_reducible assumption | with_reducible apply wakeThread_ok | with_reducible apply ok_foldl | apply hs | simp only [MemOk_mk])
theorem tick_ok (s : State) (hs : MemOk s) : MemOk (tick s) := by
  unfold tick
  repeat' (first | with_reducible assumption | with_reducible apply wakeLate_ok | with_reducible apply ok_ite | with_reducible apply out_ite | apply hs | simp only [MemOk_mk])

end Sys2Proof.Machine
end

