-- ==== Sys2Proof/Laws/WfPerfCtl.lean ====
section
/-! SUPPORT. The operations and commands of Machine/PerfCtl.lean keep the canonical form of memory. -/

namespace Sys2Proof.Machine

theorem setPerf_ok (s : State) (p : PerfSt) (hs : MemOk s) : MemOk (setPerf s p) := by
  unfold setPerf
  repeat' (first | with_reducible assumption | apply hs | simp only [MemOk_mk])
theorem snapAt_ok (s : State) (t : Nat) (hs : MemOk s) : MemOk (snapAt s t) := by
  unfold snapAt
  repeat' (first | with_reducible assumption | with_reducible apply fput_ok | with_reducible apply setPerf_ok | apply hs | simp only [MemOk_mk])
theorem clearPerf_ok (s : State) (hs : MemOk s) : MemOk (clearPerf s) := by
  unfold clearPerf
  repeat' (first | with_reducible assumption | with_reducible apply setPerf_ok | apply hs | simp only [MemOk_mk])
theorem execPerfSnap_ok (s : State) (hs : MemOk s) : OutOk (execPerfSnap s) := by
  unfold execPerfSnap
  repeat' (first | with_reducible assumption | with_reducible apply snapAt_ok | with_reducible apply next_ok | apply hs | simp only [MemOk_mk])
theorem execPerfClear_ok (s : State) (hs : MemOk s) : OutOk (execPerfClear s) := by
  unfold execPerfClear
  repeat' (first | with_reducible assumption | with_reducible apply clearPerf_ok | with_reducible apply next_ok | apply hs | simp only [MemOk_mk])
theorem armPerf_ok (s : State) (action : Nat) (hs : MemOk s) : MemOk (armPerf s action) := by
  unfold armPerf
  repeat' (first | with_reducible assumption | with_reducible apply fput_ok | with_reducible apply setPerf_ok | with_reducible apply ok_ite | with_reducible apply out_ite | apply hs | simp only [MemOk_mk])
theorem execPerfArm_ok (action : BitVec 2) (s : State) (hs : MemOk s) : OutOk (execPerfArm action s) := by
  unfold execPerfArm
  repeat' (first | with_reducible assumption | with_reducible apply armPerf_ok | with_reducible apply fput_ok | with_reducible apply next_ok | apply hs | simp only [MemOk_mk])
theorem disarm_ok (s : State) (hs : MemOk s) : MemOk (disarm s) := by
  unfold disarm
  repeat' (first | with_reducible assumption | with_reducible apply fput_ok | apply hs | simp only [MemOk_mk])
theorem execSnapAction_ok (s : State) (hs : MemOk s) : OutOk (execSnapAction s) := by
  unfold execSnapAction
  repeat' (first | with_reducible assumption | with_reducible apply whenever_ok | with_reducible apply snapAt_ok | with_reducible apply disarm_ok | apply hs | simp only [MemOk_mk])
theorem execStartAction_ok (s : State) (hs : MemOk s) : OutOk (execStartAction s) := by
  unfold execStartAction
  repeat' (first | with_reducible assumption | with_reducible apply clearPerf_ok | with_reducible apply disarm_ok | with_reducible apply whenever_ok | with_reducible apply setPerf_ok | apply hs | simp only [MemOk_mk])
theorem execStopAction_ok (s : State) (hs : MemOk s) : OutOk (execStopAction s) := by
  unfold execStopAction
  repeat' (first | with_reducible assumption | with_reducible apply snapAt_ok | with_reducible apply disarm_ok | with_reducible apply whenever_ok | with_reducible apply setPerf_ok | apply hs | simp only [MemOk_mk])
theorem writeCtr_ok (s : State) (n v : Nat) (hs : MemOk s) : MemOk (writeCtr s n v) := by
  unfold writeCtr
  repeat' (first | with_reducible assumption | with_reducible apply setPerf_ok | apply hs | simp only [MemOk_mk])
theorem execPerfCtrWrite_ok (n : Fin 8) (value : BitVec 48) (s : State) (hs : MemOk s) : OutOk (execPerfCtrWrite n value s) := by
  unfold execPerfCtrWrite
  repeat' (first | with_reducible assumption | with_reducible apply writeCtr_ok | with_reducible apply next_ok | apply hs | simp only [MemOk_mk])
theorem overflowBy_ok (s : State) (n inc : Nat) (hs : MemOk s) : MemOk (overflowBy s n inc) := by
  unfold overflowBy
  repeat' (first | with_reducible assumption | with_reducible apply setPerf_ok | with_reducible apply countEvent_ok | with_reducible apply ok_ite | with_reducible apply out_ite | apply hs | simp only [MemOk_mk])
theorem execCounterOverflow_ok (n : Fin 8) (inc : Nat) (s : State) (hs : MemOk s) : OutOk (execCounterOverflow n inc s) := by
  unfold execCounterOverflow
  repeat' (first | with_reducible assumption | with_reducible apply whenever_ok | with_reducible apply overflowBy_ok | apply hs | simp only [MemOk_mk])
theorem reloadTug_ok (s : State) (k n : Nat) (hs : MemOk s) : MemOk (reloadTug s k n) := by
  unfold reloadTug
  repeat' (first | with_reducible assumption | with_reducible apply setPerf_ok | apply hs | simp only [MemOk_mk])
theorem reloadCrane_ok (s : State) (c : Nat) (hs : MemOk s) : MemOk (reloadCrane s c) := by
  unfold reloadCrane
  repeat' (first | with_reducible assumption | with_reducible apply setPerf_ok | apply hs | simp only [MemOk_mk])
theorem loadSampling_ok (s : State) (tug cr : Bool) (hs : MemOk s) : MemOk (loadSampling s tug cr) := by
  unfold loadSampling
  dsimp only
  repeat' (first | with_reducible assumption | with_reducible apply tookFree_ok | with_reducible apply reloadTug_ok | with_reducible apply reloadCrane_ok | with_reducible apply ok_ite | with_reducible apply out_ite | with_reducible apply ok_foldl | apply hs | simp only [MemOk_mk] | (intro _ _ _; try dsimp only) | (intro _ _; try dsimp only) | split)
theorem enableSampling_ok (s : State) (tug cr : Bool) (hs : MemOk s) : MemOk (enableSampling s tug cr) := by
  unfold enableSampling
  repeat' (first | with_reducible assumption | with_reducible apply fputBool_ok | with_reducible apply loadSampling_ok | with_reducible apply fput_ok | with_reducible apply ok_ite | with_reducible apply out_ite | apply hs | simp only [MemOk_mk])
theorem execSamplingEnable_ok (tugEn craneEn : Bool) (s : State) (hs : MemOk s) : OutOk (execSamplingEnable tugEn craneEn s) := by
  unfold execSamplingEnable
  repeat' (first | with_reducible assumption | with_reducible apply enableSampling_ok | with_reducible apply next_ok | apply hs | simp only [MemOk_mk])
theorem loseRecord_ok (s : State) (hs : MemOk s) : MemOk (loseRecord s) := by
  unfold loseRecord
  repeat' (first | with_reducible assumption | with_reducible apply countEvent_ok | with_reducible apply fcount_ok | with_reducible apply setPerf_ok | apply hs | simp only [MemOk_mk])
theorem selectTug_ok (s : State) (k : Nat) (tag : Tag) (hs : MemOk s) : MemOk (selectTug s k tag) := by
  unfold selectTug
  dsimp only
  repeat' (first | with_reducible assumption | with_reducible apply loseRecord_ok | with_reducible apply setPerf_ok | with_reducible apply tookFree_ok | with_reducible apply reloadTug_ok | apply hs | simp only [MemOk_mk] | (intro _ _ _; try dsimp only) | (intro _ _; try dsimp only) | split)
theorem execTugSampleSelect_ok (tug : Fin 128) (t : Tid) (word : BitVec 32) (addr : Word) (tier : Nat) (s : State) (hs : MemOk s) : OutOk (execTugSampleSelect tug t word addr tier s) := by
  unfold execTugSampleSelect
  repeat' (first | with_reducible assumption | with_reducible apply whenever_ok | with_reducible apply selectTug_ok | apply hs | simp only [MemOk_mk])
theorem selectCrane_ok (s : State) (c : Nat) (tag : Tag) (hs : MemOk s) : MemOk (selectCrane s c tag) := by
  unfold selectCrane
  dsimp only
  repeat' (first | with_reducible assumption | with_reducible apply loseRecord_ok | with_reducible apply setPerf_ok | with_reducible apply reloadCrane_ok | apply hs | simp only [MemOk_mk] | (intro _ _ _; try dsimp only) | (intro _ _; try dsimp only) | split)
theorem execCraneSampleSelect_ok (c : CraneIx) (q : Queue) (s : State) (hs : MemOk s) : OutOk (execCraneSampleSelect c q s) := by
  unfold execCraneSampleSelect
  repeat' (first | with_reducible assumption | with_reducible apply turnedAway_ok | with_reducible apply whenever_ok | with_reducible apply selectCrane_ok | apply hs | simp only [MemOk_mk] | (intro _ _ _; try dsimp only) | (intro _ _; try dsimp only) | split | dsimp only)
theorem writeRecord_ok (s : State) (r : List Byte) (hs : MemOk s) : MemOk (writeRecord s r) := by
  unfold writeRecord
  repeat' (first | with_reducible assumption | with_reducible apply loseRecord_ok | with_reducible apply writeBytes_ok | with_reducible apply countNowin_ok | with_reducible apply countEvent_ok | with_reducible apply fput_ok | with_reducible apply setPerf_ok | with_reducible apply ok_ite | with_reducible apply out_ite | apply hs | simp only [MemOk_mk])
theorem execSampleRecordWrite_ok (kind : Bool) (unit : Nat) (latency : BitVec 32) (stalled : BitVec 32) (flags : BitVec 8) (s : State) (hs : MemOk s) : OutOk (execSampleRecordWrite kind unit latency stalled flags s) := by
  unfold execSampleRecordWrite
  dsimp only
  repeat' (first | with_reducible assumption | with_reducible apply turnedAway_ok | with_reducible apply tookFree_ok | with_reducible apply writeRecord_ok | with_reducible apply whenever_ok | with_reducible apply setPerf_ok | with_reducible apply ok_ite | with_reducible apply out_ite | with_reducible apply next_ok | apply hs | simp only [MemOk_mk] | (intro _ _ _; try dsimp only) | (intro _ _; try dsimp only) | split)

end Sys2Proof.Machine
end

