-- ==== Sys2Proof/Laws/WfTugSys.lean ====
section
/-! SUPPORT. The operations and commands of Machine/TugSys.lean keep the canonical form of memory. -/

namespace Sys2Proof.Machine

theorem execRdsr_ok (t : Tid) (rd : RegIx) (imm : BitVec 12) (s : State) (hs : MemOk s) : OutOk (execRdsr t rd imm s) := by
  unfold execRdsr
  repeat' (first | with_reducible assumption | with_reducible apply fetching_ok | with_reducible apply issueWith_ok | with_reducible apply retire_ok | with_reducible apply setG_ok | with_reducible apply tookFree_ok | with_reducible apply violation_ok | with_reducible apply ok_ite | with_reducible apply out_ite | apply hs | simp only [MemOk_mk] | (intro _ _ _; try dsimp only) | (intro _ _; try dsimp only) | split | dsimp only)
theorem srWrite_ok (s : State) (t n : Nat) (x : Word) (hs : MemOk s) (u : State) (h : srWrite s t n x = some u) : MemOk u := by
  unfold srWrite at h
  dsimp only at h
  split at h
  · cases h; exact setThread_ok _ _ _ hs
  · split at h
    · cases h; exact setThread_ok _ _ _ hs
    · split at h
      · cases h; exact setThread_ok _ _ _ hs
      · cases h
theorem execWrsr_ok (t : Tid) (ra : RegIx) (imm : BitVec 12) (s : State) (hs : MemOk s) : OutOk (execWrsr t ra imm s) := by
  unfold execWrsr
  refine fetching_ok _ _ _ _ (fun s hs => ?_) hs
  refine issueWith_ok _ _ _ _ _ ?_ hs
  intro s hs
  generalize h : srWrite s t.val imm.toNat (g s t.val ra.val) = o
  cases o
  · exact retire_ok _ _ (violation_ok _ _ _ _ hs)
  · exact retire_ok _ _ (srWrite_ok _ _ _ _ hs _ h)
theorem fenceCaches_ok (s : State) (t : Nat) (imm : BitVec 12) (hs : MemOk s) : MemOk (fenceCaches s t imm) := by
  unfold fenceCaches
  repeat' (first | with_reducible assumption | with_reducible apply setCore_ok | with_reducible apply ok_ite | with_reducible apply out_ite | apply hs | simp only [MemOk_mk])
theorem execFence_ok (t : Tid) (imm : BitVec 12) (s : State) (hs : MemOk s) : OutOk (execFence t imm s) := by
  unfold execFence
  repeat' (first | with_reducible assumption | with_reducible apply fetching_ok | with_reducible apply whenever_ok | with_reducible apply illegal_ok | with_reducible apply retire_ok | with_reducible apply fenceCaches_ok | with_reducible apply countEvent_ok | with_reducible apply countIssue_ok | with_reducible apply ok_ite | with_reducible apply out_ite | apply hs | simp only [MemOk_mk] | (intro _ _ _; try dsimp only) | (intro _ _; try dsimp only) | split | dsimp only)
theorem execTidewait_ok (t : Tid) (ra : RegIx) (s : State) (hs : MemOk s) : OutOk (execTidewait t ra s) := by
  unfold execTidewait
  dsimp only
  repeat' (first | with_reducible assumption | with_reducible apply fetching_ok | with_reducible apply issueWith_ok | with_reducible apply retire_ok | with_reducible apply giveUp_ok | with_reducible apply ok_ite | with_reducible apply out_ite | apply hs | simp only [MemOk_mk] | (intro _ _ _; try dsimp only) | (intro _ _; try dsimp only) | split)
theorem execSlotwait_ok (t : Tid) (ra : RegIx) (s : State) (hs : MemOk s) : OutOk (execSlotwait t ra s) := by
  unfold execSlotwait
  repeat' (first | with_reducible assumption | with_reducible apply fetching_ok | with_reducible apply issueWith_ok | with_reducible apply giveUp_ok | with_reducible apply retire_ok | apply hs | simp only [MemOk_mk] | (intro _ _ _; try dsimp only) | (intro _ _; try dsimp only) | split | dsimp only)
theorem execTidewaitComplete_ok (t : Tid) (s : State) (hs : MemOk s) : OutOk (execTidewaitComplete t s) := by
  unfold execTidewaitComplete
  repeat' (first | with_reducible assumption | with_reducible apply whenever_ok | with_reducible apply makeReady_ok | with_reducible apply turnedAway_ok | apply hs | simp only [MemOk_mk] | (intro _ _ _; try dsimp only) | (intro _ _; try dsimp only) | split | dsimp only)
theorem execSlotwaitComplete_ok (t : Tid) (s : State) (hs : MemOk s) : OutOk (execSlotwaitComplete t s) := by
  unfold execSlotwaitComplete
  repeat' (first | with_reducible assumption | with_reducible apply whenever_ok | with_reducible apply makeReady_ok | with_reducible apply turnedAway_ok | apply hs | simp only [MemOk_mk] | (intro _ _ _; try dsimp only) | (intro _ _; try dsimp only) | split | dsimp only)
theorem execYield_ok (t : Tid) (s : State) (hs : MemOk s) : OutOk (execYield t s) := by
  unfold execYield
  repeat' (first | with_reducible assumption | with_reducible apply fetching_ok | with_reducible apply issueWith_ok | with_reducible apply giveUp_ok | with_reducible apply retire_ok | with_reducible apply ok_ite | with_reducible apply out_ite | apply hs | simp only [MemOk_mk] | (intro _ _ _; try dsimp only) | (intro _ _; try dsimp only) | split | dsimp only)
theorem execHalt_ok (t : Tid) (s : State) (hs : MemOk s) : OutOk (execHalt t s) := by
  unfold execHalt
  repeat' (first | with_reducible assumption | with_reducible apply fetching_ok | with_reducible apply issueWith_ok | with_reducible apply park_ok | with_reducible apply retire_ok | apply hs | simp only [MemOk_mk] | (intro _ _ _; try dsimp only) | (intro _ _; try dsimp only) | split | dsimp only)
theorem execTimesliceExpiry_ok (t : Tid) (s : State) (hs : MemOk s) : OutOk (execTimesliceExpiry t s) := by
  unfold execTimesliceExpiry
  repeat' (first | with_reducible assumption | with_reducible apply whenever_ok | with_reducible apply giveUp_ok | apply hs | simp only [MemOk_mk])
theorem loseDests_ok (s : State) (t : Nat) (hs : MemOk s) : MemOk (loseDests s t) := by
  unfold loseDests
  repeat' (first | with_reducible assumption | with_reducible apply setCore_ok | with_reducible apply ok_ite | with_reducible apply out_ite | apply hs | simp only [MemOk_mk])
theorem startThread_ok (s : State) (u : Nat) (pc : Word) (hs : MemOk s) : MemOk (startThread s u pc) := by
  unfold startThread
  repeat' (first | with_reducible assumption | with_reducible apply loseDests_ok | with_reducible apply park_ok | with_reducible apply makeReady_ok | with_reducible apply setThread_ok | apply hs | simp only [MemOk_mk])
theorem execTstart_ok (t : Tid) (ra rb : RegIx) (s : State) (hs : MemOk s) : OutOk (execTstart t ra rb s) := by
  unfold execTstart
  dsimp only
  repeat' (first | with_reducible assumption | with_reducible apply fetching_ok | with_reducible apply issueWith_ok | with_reducible apply startThread_ok | with_reducible apply retire_ok | with_reducible apply violation_ok | with_reducible apply ok_ite | with_reducible apply out_ite | apply hs | simp only [MemOk_mk] | (intro _ _ _; try dsimp only) | (intro _ _; try dsimp only) | split)
theorem execTstop_ok (t : Tid) (ra : RegIx) (s : State) (hs : MemOk s) : OutOk (execTstop t ra s) := by
  unfold execTstop
  dsimp only
  repeat' (first | with_reducible assumption | with_reducible apply fetching_ok | with_reducible apply issueWith_ok | with_reducible apply park_ok | with_reducible apply retire_ok | with_reducible apply violation_ok | with_reducible apply ok_ite | with_reducible apply out_ite | apply hs | simp only [MemOk_mk] | (intro _ _ _; try dsimp only) | (intro _ _; try dsimp only) | split)
theorem acceptWord_ok (s : State) (t c rd : Nat) (word : Word) (hs : MemOk s) : MemOk (acceptWord s t c rd word) := by
  unfold acceptWord
  repeat' (first | with_reducible assumption | with_reducible apply countEvent_ok | with_reducible apply sampleCrane_ok | with_reducible apply retire_ok | with_reducible apply setG_ok | with_reducible apply setCrane_ok | apply hs | simp only [MemOk_mk])
theorem execCissue_ok (t : Tid) (rd ra rb : RegIx) (s : State) (hs : MemOk s) : OutOk (execCissue t rd ra rb s) := by
  unfold execCissue
  dsimp only
  repeat' (first | with_reducible assumption | with_reducible apply fetching_ok | with_reducible apply memIssue_ok | with_reducible apply retire_ok | with_reducible apply setG_ok | with_reducible apply violation_ok | with_reducible apply countIssue_ok | with_reducible apply giveUp_ok | with_reducible apply acceptWord_ok | with_reducible apply ok_ite | with_reducible apply out_ite | apply hs | simp only [MemOk_mk] | (intro _ _ _; try dsimp only) | (intro _ _; try dsimp only) | split)
theorem execCissueAccept_ok (t : Tid) (s : State) (hs : MemOk s) : OutOk (execCissueAccept t s) := by
  unfold execCissueAccept
  repeat' (first | with_reducible assumption | with_reducible apply whenever_ok | with_reducible apply makeReady_ok | with_reducible apply acceptWord_ok | with_reducible apply countIssue_ok | with_reducible apply turnedAway_ok | apply hs | simp only [MemOk_mk] | (intro _ _ _; try dsimp only) | (intro _ _; try dsimp only) | split | dsimp only)
theorem acquire_ok (s : State) (t : Nat) (hs : MemOk s) : MemOk (acquire s t) := by
  unfold acquire
  repeat' (first | with_reducible assumption | with_reducible apply setCore_ok | apply hs | simp only [MemOk_mk])
theorem execCwait_ok (t : Tid) (ra rb : RegIx) (s : State) (hs : MemOk s) : OutOk (execCwait t ra rb s) := by
  unfold execCwait
  dsimp only
  repeat' (first | with_reducible assumption | with_reducible apply fetching_ok | with_reducible apply issueWith_ok | with_reducible apply retire_ok | with_reducible apply acquire_ok | with_reducible apply noteWaited_ok | with_reducible apply giveUp_ok | with_reducible apply ok_ite | with_reducible apply out_ite | apply hs | simp only [MemOk_mk] | (intro _ _ _; try dsimp only) | (intro _ _; try dsimp only) | split)
theorem execCwaitComplete_ok (t : Tid) (s : State) (hs : MemOk s) : OutOk (execCwaitComplete t s) := by
  unfold execCwaitComplete
  repeat' (first | with_reducible assumption | with_reducible apply whenever_ok | with_reducible apply makeReady_ok | with_reducible apply acquire_ok | with_reducible apply noteWaited_ok | with_reducible apply turnedAway_ok | apply hs | simp only [MemOk_mk] | (intro _ _ _; try dsimp only) | (intro _ _; try dsimp only) | split | dsimp only)
theorem execCqdepth_ok (t : Tid) (rd ra : RegIx) (s : State) (hs : MemOk s) : OutOk (execCqdepth t rd ra s) := by
  unfold execCqdepth
  repeat' (first | with_reducible assumption | with_reducible apply fetching_ok | with_reducible apply issueWith_ok | with_reducible apply retire_ok | with_reducible apply setG_ok | apply hs | simp only [MemOk_mk] | (intro _ _ _; try dsimp only) | (intro _ _; try dsimp only) | split | dsimp only)

end Sys2Proof.Machine
end

