-- ==== Sys2Proof/Laws/WfLaunch.lean ====
section
/-! SUPPORT. The operations and commands of Machine/Launch.lean keep the canonical form of memory. -/

namespace Sys2Proof.Machine

theorem ack_ok (s : State) (st result groupFail : Nat) (hs : MemOk s) : MemOk (ack s st result groupFail) := by
  unfold ack
  repeat' (first | with_reducible assumption | with_reducible apply setJob_ok | apply hs | simp only [MemOk_mk])
theorem copyTables_ok (s : State) (a : Nat) (hs : MemOk s) : MemOk (copyTables s a) := by
  unfold copyTables
  dsimp only
  repeat' (first | with_reducible assumption | with_reducible apply putMem_ok | with_reducible apply ok_ite | with_reducible apply out_ite | with_reducible apply ok_foldl | apply hs | simp only [MemOk_mk] | (intro _ _ _; try dsimp only) | (intro _ _; try dsimp only) | split)
theorem bindCrane_ok (s : State) (w c : Nat) (hs : MemOk s) : MemOk (bindCrane s w c) := by
  unfold bindCrane
  repeat' (first | with_reducible assumption | with_reducible apply fput_ok | apply hs | simp only [MemOk_mk])
theorem putRegion_ok (s : State) (b l n : Nat) (hs : MemOk s) : MemOk (putRegion s b l n) := by
  unfold putRegion
  dsimp only
  repeat' (first | with_reducible assumption | with_reducible apply fput_ok | with_reducible apply ok_foldl | apply hs | simp only [MemOk_mk] | (intro _ _ _; try dsimp only) | (intro _ _; try dsimp only) | split)
theorem putBindings_ok (s : State) (a : Nat) (hs : MemOk s) : MemOk (putBindings s a) := by
  unfold putBindings
  dsimp only
  repeat' (first | with_reducible assumption | with_reducible apply bindCrane_ok | with_reducible apply putRegion_ok | with_reducible apply ok_foldl | apply hs | simp only [MemOk_mk] | (intro _ _ _; try dsimp only) | (intro _ _; try dsimp only) | split)
theorem putSlots_ok (s : State) (a ver records : Nat) (resume : Bool) (hs : MemOk s) : MemOk (putSlots s a ver records resume) := by
  unfold putSlots
  repeat' (first | with_reducible assumption | with_reducible apply fput_ok | with_reducible apply ok_ite | with_reducible apply out_ite | apply hs | simp only [MemOk_mk])
theorem stageImage_ok (s : State) (tableAddr : Nat) (routing : Nat → Nat) (hs : MemOk s) : MemOk (stageImage s tableAddr routing) := by
  unfold stageImage
  dsimp only
  repeat' (first | with_reducible assumption | with_reducible apply ok_foldl | with_reducible apply stageReg_ok | intro _ _ _)
theorem loadJob_ok (s : State) (m : List Byte) (hs : MemOk s) : MemOk (loadJob s m) := by
  unfold loadJob
  repeat' (first | with_reducible assumption | with_reducible apply putAll_ok | apply hs | simp only [MemOk_mk])
theorem stageJob_ok (s : State) (o : LoadObs) (a rank : Nat) (hs : MemOk s) : MemOk (stageJob s o a rank) := by
  unfold stageJob
  repeat' (first | with_reducible assumption | with_reducible apply setJob_ok | with_reducible apply putSlots_ok | with_reducible apply loadJob_ok | with_reducible apply putBindings_ok | with_reducible apply copyTables_ok | with_reducible apply checkImage_ok | with_reducible apply stageImage_ok | with_reducible apply ok_ite | with_reducible apply out_ite | apply hs | simp only [MemOk_mk])
theorem discardStage_ok (s : State) (hs : MemOk s) : MemOk (discardStage s) := by
  unfold discardStage
  repeat' (first | with_reducible assumption | with_reducible apply setStage_ok | with_reducible apply ok_ite | with_reducible apply out_ite | apply hs | simp only [MemOk_mk])
theorem rejectPrepare_ok (s t : State) (code : Nat) (hs : MemOk s) (ht : MemOk t) : MemOk (rejectPrepare s t code) := by
  unfold rejectPrepare
  repeat' (first | with_reducible assumption | with_reducible apply setStage_ok | with_reducible apply fput_ok | with_reducible apply ack_ok | with_reducible apply rampDown_ok | with_reducible apply setJob_ok | with_reducible apply ok_ite | with_reducible apply out_ite | apply hs | apply ht | simp only [MemOk_mk])
theorem settlePass_ok (s : State) (hs : MemOk s) : MemOk (settlePass s) := by
  unfold settlePass
  repeat' (first | with_reducible assumption | with_reducible apply setPwr_ok | with_reducible apply ack_ok | with_reducible apply ok_ite | with_reducible apply out_ite | apply hs | simp only [MemOk_mk])
theorem passPrepare_ok (s : State) (hs : MemOk s) : MemOk (passPrepare s) := by
  unfold passPrepare
  repeat' (first | with_reducible assumption | with_reducible apply extendM_ok | with_reducible apply settlePass_ok | with_reducible apply rampUp_ok | with_reducible apply setJob_ok | apply hs | simp only [MemOk_mk])
theorem execPrepare_ok (o : LoadObs) (s : State) (hs : MemOk s) : OutOk (execPrepare o s) := by
  unfold execPrepare
  repeat' (first | with_reducible assumption | with_reducible apply setJob_ok | with_reducible apply stageJob_ok | with_reducible apply whenever_ok | with_reducible apply ack_ok | with_reducible apply rejectPrepare_ok | with_reducible apply passPrepare_ok | with_reducible apply ok_ite | with_reducible apply out_ite | apply hs | simp only [MemOk_mk])
theorem execArm_ok (s : State) (hs : MemOk s) : OutOk (execArm s) := by
  unfold execArm
  repeat' (first | with_reducible assumption | with_reducible apply whenever_ok | with_reducible apply ack_ok | with_reducible apply armStage_ok | with_reducible apply fput_ok | with_reducible apply setJob_ok | with_reducible apply rampDown_ok | with_reducible apply ok_ite | with_reducible apply out_ite | apply hs | simp only [MemOk_mk])
theorem releaseJob_ok (s : State) (hs : MemOk s) : MemOk (releaseJob s) := by
  unfold releaseJob
  dsimp only
  repeat' (first | with_reducible assumption | with_reducible apply putRegion_ok | with_reducible apply bindCrane_ok | with_reducible apply ok_foldl | apply hs | simp only [MemOk_mk] | (intro _ _ _; try dsimp only) | (intro _ _; try dsimp only) | split)
theorem execAbort_ok (s : State) (hs : MemOk s) : OutOk (execAbort s) := by
  unfold execAbort
  repeat' (first | with_reducible assumption | with_reducible apply whenever_ok | with_reducible apply ack_ok | with_reducible apply rampDown_ok | with_reducible apply releaseJob_ok | with_reducible apply discardStage_ok | with_reducible apply ok_ite | with_reducible apply out_ite | apply hs | simp only [MemOk_mk])
theorem execEndCmd_ok (s : State) (hs : MemOk s) : OutOk (execEndCmd s) := by
  unfold execEndCmd
  repeat' (first | with_reducible assumption | with_reducible apply whenever_ok | with_reducible apply ack_ok | with_reducible apply setJob_ok | with_reducible apply ok_ite | with_reducible apply out_ite | apply hs | simp only [MemOk_mk])
theorem zeroFields_ok (s : State) (x1 : List Field) (hs : MemOk s) : MemOk (zeroFields s x1) := by
  induction x1 generalizing s with
  | nil => exact hs
  | cons y rest ih =>
    unfold zeroFields
    apply ih
    repeat' (first | with_reducible assumption | with_reducible apply fput_ok)
theorem resetCrane_ok (s : State) (c : Nat) (hs : MemOk s) : MemOk (resetCrane s c) := by
  unfold resetCrane
  repeat' (first | with_reducible assumption | with_reducible apply setCrane_ok | with_reducible apply fput_ok | apply hs | simp only [MemOk_mk])
theorem stopSampling_ok (s : State) (hs : MemOk s) : MemOk (stopSampling s) := by
  unfold stopSampling
  repeat' (first | with_reducible assumption | with_reducible apply fput_ok | with_reducible apply ok_ite | with_reducible apply out_ite | apply hs | simp only [MemOk_mk])
theorem resetCaches_ok (s : State) (k : Nat) (hs : MemOk s) : MemOk (resetCaches s k) := by
  unfold resetCaches
  repeat' (first | with_reducible assumption | with_reducible apply setCore_ok | apply hs | simp only [MemOk_mk])
theorem launchReset_ok (s : State) (hs : MemOk s) : MemOk (launchReset s) := by
  unfold launchReset
  dsimp only
  have h1 : MemOk ((List.range 16).foldl resetCrane (zeroFields s launchZeros)) := by
    repeat' (first | with_reducible assumption | with_reducible apply ok_foldl | with_reducible apply resetCrane_ok | with_reducible apply zeroFields_ok | intro _ _ _)
  repeat' (first | with_reducible assumption | with_reducible apply stopSampling_ok | with_reducible apply ok_ite | with_reducible apply fput_ok | with_reducible apply fputBool_ok | with_reducible apply ok_foldl | with_reducible apply resetCaches_ok | (intro _ _ _) | simp only [MemOk_mk])
theorem noteLaunch_ok (s : State) (hs : MemOk s) : MemOk (noteLaunch s) := by
  unfold noteLaunch
  repeat' (first | with_reducible assumption | with_reducible apply setSec_ok | apply hs | simp only [MemOk_mk])
theorem launchAllRoots_ok (s : State) (hs : MemOk s) : MemOk (launchAllRoots s) := by
  unfold launchAllRoots
  repeat' (first | with_reducible assumption | with_reducible apply launchRoots_ok | with_reducible apply ok_foldl | apply hs | simp only [MemOk_mk])
theorem execLaunchCommit_ok (s : State) (hs : MemOk s) : OutOk (execLaunchCommit s) := by
  unfold execLaunchCommit
  dsimp only
  repeat' (first | with_reducible assumption | with_reducible apply noteLaunch_ok | with_reducible apply launchReset_ok | with_reducible apply setJob_ok | with_reducible apply launchAllRoots_ok | with_reducible apply copyTables_ok | with_reducible apply whenever_ok | with_reducible apply startThread_ok | with_reducible apply ok_foldl | apply hs | simp only [MemOk_mk] | (intro _ _ _; try dsimp only) | (intro _ _; try dsimp only) | split)
theorem stopByEnd_ok (s : State) (cause : Nat) (detail : Word) (hs : MemOk s) : MemOk (stopByEnd s cause detail) := by
  unfold stopByEnd
  repeat' (first | with_reducible assumption | with_reducible apply parkJobThreads_ok | with_reducible apply abortArmed_ok | with_reducible apply fput_ok | with_reducible apply setJob_ok | apply hs | simp only [MemOk_mk])
theorem execEndInstant_ok (s : State) (hs : MemOk s) : OutOk (execEndInstant s) := by
  unfold execEndInstant
  repeat' (first | with_reducible assumption | with_reducible apply turnedAway_ok | with_reducible apply whenever_ok | with_reducible apply stopByEnd_ok | apply hs | simp only [MemOk_mk] | (intro _ _ _; try dsimp only) | (intro _ _; try dsimp only) | split | dsimp only)
theorem execProgramFaultEnd_ok (f : ProgFault) (s : State) (hs : MemOk s) : OutOk (execProgramFaultEnd f s) := by
  unfold execProgramFaultEnd
  repeat' (first | with_reducible assumption | with_reducible apply whenever_ok | with_reducible apply stopByEnd_ok | apply hs | simp only [MemOk_mk])
theorem resetTables_ok (s : State) (c : Nat) (hs : MemOk s) : MemOk (resetTables s c) := by
  unfold resetTables
  repeat' (first | with_reducible assumption | with_reducible apply setCrane_ok | with_reducible apply zeroFields_ok | apply hs | simp only [MemOk_mk])
theorem execJobEnded_ok (s : State) (hs : MemOk s) : OutOk (execJobEnded s) := by
  unfold execJobEnded
  repeat' (first | with_reducible assumption | with_reducible apply whenever_ok | with_reducible apply rampDown_ok | with_reducible apply writeFound_ok | with_reducible apply setJob_ok | with_reducible apply resetTables_ok | with_reducible apply ok_foldl | apply hs | simp only [MemOk_mk])

end Sys2Proof.Machine
end

