-- ==== Sys2Proof/Laws/WfSecure.lean ====
section
/-! SUPPORT. The operations and commands of Machine/Secure.lean keep the canonical form of memory. -/

namespace Sys2Proof.Machine

theorem setSlotHead_ok (s : State) (slot : Nat) (m : List Byte) (hs : MemOk s) : MemOk (setSlotHead s slot m) := by
  unfold setSlotHead
  repeat' (first | with_reducible assumption | with_reducible apply setJob_ok | with_reducible apply ok_ite | with_reducible apply out_ite | apply hs | simp only [MemOk_mk])
theorem putSlotVersion_ok (s : State) (slot v : Nat) (hs : MemOk s) : MemOk (putSlotVersion s slot v) := by
  unfold putSlotVersion
  repeat' (first | with_reducible assumption | with_reducible apply fput_ok | with_reducible apply ok_ite | with_reducible apply out_ite | apply hs | simp only [MemOk_mk])
theorem acceptSwitch_ok (s : State) (effStep effMb slot : Nat) (hs : MemOk s) : MemOk (acceptSwitch s effStep effMb slot) := by
  unfold acceptSwitch
  repeat' (first | with_reducible assumption | with_reducible apply setJob_ok | with_reducible apply fput_ok | with_reducible apply fcount_ok | apply hs | simp only [MemOk_mk])
theorem writeSwitch_ok (s : State) (effStep effMb slot : Nat) (hs : MemOk s) : MemOk (writeSwitch s effStep effMb slot) := by
  unfold writeSwitch
  repeat' (first | with_reducible assumption | with_reducible apply fput_ok | with_reducible apply acceptSwitch_ok | with_reducible apply setJob_ok | with_reducible apply ok_ite | with_reducible apply out_ite | apply hs | simp only [MemOk_mk])
theorem loadSlot_ok (s : State) (m : List Byte) (slot state : Nat) (hs : MemOk s) : MemOk (loadSlot s m slot state) := by
  unfold loadSlot
  repeat' (first | with_reducible assumption | with_reducible apply putAll_ok | with_reducible apply putSlotVersion_ok | with_reducible apply fput_ok | with_reducible apply setSlotHead_ok | apply hs | simp only [MemOk_mk])
theorem loadSwitch_ok (s : State) (o : LoadObs) (slot : Nat) (hs : MemOk s) : MemOk (loadSwitch s o slot) := by
  unfold loadSwitch
  repeat' (first | with_reducible assumption | with_reducible apply loadSlot_ok | with_reducible apply putSlotVersion_ok | with_reducible apply fput_ok | with_reducible apply setSlotHead_ok | with_reducible apply ok_ite | with_reducible apply out_ite | apply hs | simp only [MemOk_mk])
theorem execManifestSwitch_ok (o : LoadObs) (s : State) (hs : MemOk s) : OutOk (execManifestSwitch o s) := by
  unfold execManifestSwitch
  repeat' (first | with_reducible assumption | with_reducible apply whenever_ok | with_reducible apply writeSwitch_ok | with_reducible apply loadSwitch_ok | apply hs | simp only [MemOk_mk])
theorem freeSlotAfter_ok (s : State) (step : Nat) (hs : MemOk s) : MemOk (freeSlotAfter s step) := by
  unfold freeSlotAfter
  repeat' (first | with_reducible assumption | with_reducible apply putSlotVersion_ok | with_reducible apply fput_ok | with_reducible apply ok_ite | with_reducible apply out_ite | apply hs | simp only [MemOk_mk])
theorem updateSecured_ok (s : State) (hs : MemOk s) : MemOk (updateSecured s) := by
  unfold updateSecured
  repeat' (first | with_reducible assumption | with_reducible apply freeSlotAfter_ok | with_reducible apply fput_ok | with_reducible apply ok_ite | with_reducible apply out_ite | apply hs | simp only [MemOk_mk])
theorem execSecureGenerationComplete_ok (ward : Bool) (step : BitVec 32) (s : State) (hs : MemOk s) : OutOk (execSecureGenerationComplete ward step s) := by
  unfold execSecureGenerationComplete
  repeat' (first | with_reducible assumption | with_reducible apply writeBytes_ok | with_reducible apply whenever_ok | with_reducible apply corrected_ok | with_reducible apply fput_ok | with_reducible apply updateSecured_ok | with_reducible apply ok_ite | with_reducible apply out_ite | apply hs | simp only [MemOk_mk])
theorem execPartnerConfirmation_ok (step : BitVec 32) (s : State) (hs : MemOk s) : OutOk (execPartnerConfirmation step s) := by
  unfold execPartnerConfirmation
  repeat' (first | with_reducible assumption | with_reducible apply whenever_ok | with_reducible apply updateSecured_ok | apply hs | simp only [MemOk_mk])
theorem restoreExtents_ok (s : State) (base : Nat) (hs : MemOk s) : MemOk (restoreExtents s base) := by
  unfold restoreExtents
  dsimp only
  repeat' (first | with_reducible assumption | with_reducible apply performWrites_ok | with_reducible apply ok_foldl | apply hs | simp only [MemOk_mk] | (intro _ _ _; try dsimp only) | (intro _ _; try dsimp only) | split)
theorem reopenCycle_ok (st : Nat) (s : State) (l : Layer) (hs : MemOk s) : MemOk (reopenCycle st s l) := by
  unfold reopenCycle
  repeat' (first | with_reducible assumption | with_reducible apply openCycle_ok | with_reducible apply ok_ite | with_reducible apply out_ite | apply hs | simp only [MemOk_mk])
theorem reemitImages_ok (s : State) (hs : MemOk s) : MemOk (reemitImages s) := by
  unfold reemitImages
  repeat' (first | with_reducible assumption | with_reducible apply putAll_ok | with_reducible apply ok_ite | with_reducible apply out_ite | apply hs | simp only [MemOk_mk])
theorem restorePins_ok (s : State) (log : List SwitchRec) (before after : LoadObs) (needBefore : Bool) (hs : MemOk s) : MemOk (restorePins s log before after needBefore) := by
  unfold restorePins
  repeat' (first | with_reducible assumption | with_reducible apply setJob_ok | with_reducible apply fput_ok | with_reducible apply loadSlot_ok | with_reducible apply ok_ite | with_reducible apply out_ite | apply hs | simp only [MemOk_mk])
theorem execRestoreComplete_ok (log : List SwitchRec) (before after : LoadObs) (s : State) (hs : MemOk s) : OutOk (execRestoreComplete log before after s) := by
  unfold execRestoreComplete
  repeat' (first | with_reducible assumption | with_reducible apply restorePins_ok | with_reducible apply restoreExtents_ok | with_reducible apply reemitImages_ok | with_reducible apply reopenCycle_ok | with_reducible apply fput_ok | with_reducible apply writeNat_ok | with_reducible apply turnedAway_ok | with_reducible apply fatal_ok | with_reducible apply whenever_ok | with_reducible apply spendFree_ok | with_reducible apply setJob_ok | with_reducible apply ok_ite | with_reducible apply out_ite | with_reducible apply ok_foldl | with_reducible apply next_ok | apply hs | simp only [MemOk_mk])

end Sys2Proof.Machine
end

