-- ==== Sys2Proof/Laws/WfCtlWrite.lean ====
section
/-! SUPPORT. The operations and commands of Machine/CtlWrite.lean keep the canonical form of memory. -/

namespace Sys2Proof.Machine

theorem plainPart_ok (s : State) (who : Agent) (w : CtlAcc) (hs : MemOk s) : MemOk (plainPart s who w) := by
  unfold plainPart
  repeat' (first | with_reducible assumption | with_reducible apply writePerf_ok | with_reducible apply writeFields_ok | apply hs | simp only [MemOk_mk])
theorem writeStageCtrl_ok (s : State) (who : Agent) (w : CtlAcc) (hs : MemOk s) : MemOk (writeStageCtrl s who w) := by
  unfold writeStageCtrl
  repeat' (first | with_reducible assumption | with_reducible apply ignoredCtrl_ok | with_reducible apply refuseStage_ok | with_reducible apply fput_ok | with_reducible apply startCheck_ok | with_reducible apply armStage_ok | with_reducible apply abortStage_ok | with_reducible apply ok_ite | with_reducible apply out_ite | apply hs | simp only [MemOk_mk])
theorem writePerfCtl_ok (s : State) (who : Agent) (w : CtlAcc) (hs : MemOk s) : MemOk (writePerfCtl s who w) := by
  unfold writePerfCtl
  repeat' (first | with_reducible assumption | with_reducible apply plainPart_ok | with_reducible apply snapAt_ok | with_reducible apply clearPerf_ok | with_reducible apply armPerf_ok | with_reducible apply ok_ite | with_reducible apply out_ite | apply hs | simp only [MemOk_mk])
theorem writePerfCtr_ok (s : State) (n : Nat) (w : CtlAcc) (hs : MemOk s) : MemOk (writePerfCtr s n w) := by
  unfold writePerfCtr
  repeat' (first | with_reducible assumption | with_reducible apply writeCtr_ok | apply hs | simp only [MemOk_mk])
theorem writeSampCtl_ok (s : State) (who : Agent) (w : CtlAcc) (hs : MemOk s) : MemOk (writeSampCtl s who w) := by
  unfold writeSampCtl
  repeat' (first | with_reducible assumption | with_reducible apply plainPart_ok | with_reducible apply enableSampling_ok | with_reducible apply ok_ite | with_reducible apply out_ite | apply hs | simp only [MemOk_mk])
theorem writeFwCommand_ok (s : State) (w : CtlAcc) (hs : MemOk s) : MemOk (writeFwCommand s w) := by
  unfold writeFwCommand
  repeat' (first | with_reducible assumption | with_reducible apply writeStanddown_ok | with_reducible apply fput_ok | with_reducible apply writeExtGo_ok | with_reducible apply writeRemap_ok | with_reducible apply acceptFlip_ok | with_reducible apply issueUpd_ok | with_reducible apply writeSwitch_ok | with_reducible apply ok_ite | with_reducible apply out_ite | apply hs | simp only [MemOk_mk])
theorem ctlWrite_ok (s : State) (who : Agent) (w : CtlAcc) (hs : MemOk s) : MemOk (ctlWrite s who w) := by
  unfold ctlWrite
  dsimp only
  repeat' (first | with_reducible assumption | with_reducible apply writeShadow_ok | with_reducible apply writeStageCtrl_ok | with_reducible apply writePerfCtl_ok | with_reducible apply writePerfCtr_ok | with_reducible apply writeSampCtl_ok | with_reducible apply writeBargeStart_ok | with_reducible apply writeFwCommand_ok | with_reducible apply writeAct_ok | with_reducible apply plainPart_ok | with_reducible apply ok_ite | with_reducible apply out_ite | apply hs | simp only [MemOk_mk] | (intro _ _ _; try dsimp only) | (intro _ _; try dsimp only) | split)
theorem execRegisterWrite_ok (who : Agent) (off : BitVec 26) (bytes : Nat) (value hwSet hwClear : Word) (s : State) (hs : MemOk s) : OutOk (execRegisterWrite who off bytes value hwSet hwClear s) := by
  unfold execRegisterWrite
  dsimp only
  repeat' (first | with_reducible assumption | with_reducible apply ctlWrite_ok | with_reducible apply violation_ok | with_reducible apply turnedAway_ok | with_reducible apply ok_ite | with_reducible apply out_ite | with_reducible apply next_ok | apply hs | simp only [MemOk_mk] | (intro _ _ _; try dsimp only) | (intro _ _; try dsimp only) | split)

end Sys2Proof.Machine
end

