-- ==== Sys2Proof/Laws/WfEntries.lean ====
section
/-! SUPPORT. The operations and commands of Machine/Entries.lean keep the canonical form of memory. -/

namespace Sys2Proof.Machine

theorem appendJob_ok (s : State) (c stream : Nat) (hs : MemOk s) : MemOk (appendJob s c stream) := by
  unfold appendJob
  repeat' (first | with_reducible assumption | with_reducible apply fetchLists_ok | with_reducible apply setCrane_ok | with_reducible apply countOverrun_ok | with_reducible apply ok_ite | with_reducible apply out_ite | apply hs | simp only [MemOk_mk])
theorem startBg_ok (s : State) (e : Entry) (hs : MemOk s) : MemOk (startBg s e) := by
  unfold startBg
  repeat' (first | with_reducible assumption | with_reducible apply setCrane_ok | with_reducible apply appendJob_ok | with_reducible apply fput_ok | apply hs | simp only [MemOk_mk])
theorem startBallast_ok (s : State) (e : Entry) (hs : MemOk s) : MemOk (startBallast s e) := by
  unfold startBallast
  dsimp only
  repeat' (first | with_reducible assumption | with_reducible apply setCrane_ok | apply hs | simp only [MemOk_mk] | (intro _ _ _; try dsimp only) | (intro _ _; try dsimp only) | split)
theorem startEntry_ok (s : State) (e : Entry) (hs : MemOk s) : MemOk (startEntry s e) := by
  unfold startEntry
  repeat' (first | with_reducible assumption | with_reducible apply startTx_ok | with_reducible apply startRx_ok | with_reducible apply enqueueStart_ok | with_reducible apply startBg_ok | with_reducible apply startBallast_ok | with_reducible apply passMarker_ok | apply hs | simp only [MemOk_mk] | (intro _ _ _; try dsimp only) | (intro _ _; try dsimp only) | split | dsimp only)
theorem reachEntry_ok (kind res : Nat) (s : State) (hs : MemOk s) : OutOk (reachEntry kind res s) := by
  unfold reachEntry
  repeat' (first | with_reducible assumption | with_reducible apply turnedAway_ok | with_reducible apply startEntry_ok | with_reducible apply dropDue_ok | with_reducible apply markLate_ok | with_reducible apply ok_ite | with_reducible apply out_ite | with_reducible apply next_ok | apply hs | simp only [MemOk_mk] | (intro _ _ _; try dsimp only) | (intro _ _; try dsimp only) | split | dsimp only)
theorem execQuayTx_ok (port : PortIx) (s : State) (hs : MemOk s) : OutOk (execQuayTx port s) := by
  unfold execQuayTx
  repeat' (first | with_reducible assumption | with_reducible apply reachEntry_ok | apply hs | simp only [MemOk_mk])
theorem execQuayRx_ok (port : PortIx) (s : State) (hs : MemOk s) : OutOk (execQuayRx port s) := by
  unfold execQuayRx
  repeat' (first | with_reducible assumption | with_reducible apply reachEntry_ok | apply hs | simp only [MemOk_mk])
theorem execBarge_ok (b : BargeIx) (s : State) (hs : MemOk s) : OutOk (execBarge b s) := by
  unfold execBarge
  repeat' (first | with_reducible assumption | with_reducible apply reachEntry_ok | apply hs | simp only [MemOk_mk])
theorem execCraneBg_ok (c : CraneIx) (s : State) (hs : MemOk s) : OutOk (execCraneBg c s) := by
  unfold execCraneBg
  repeat' (first | with_reducible assumption | with_reducible apply reachEntry_ok | apply hs | simp only [MemOk_mk])
theorem execBallast_ok (c : CraneIx) (s : State) (hs : MemOk s) : OutOk (execBallast c s) := by
  unfold execBallast
  repeat' (first | with_reducible assumption | with_reducible apply reachEntry_ok | apply hs | simp only [MemOk_mk])
theorem execMarker_ok (s : State) (hs : MemOk s) : OutOk (execMarker s) := by
  unfold execMarker
  repeat' (first | with_reducible assumption | with_reducible apply reachEntry_ok | apply hs | simp only [MemOk_mk])
theorem execEntryLateStart_ok (kind : EntryKind) (unit : Nat) (s : State) (hs : MemOk s) : OutOk (execEntryLateStart kind unit s) := by
  unfold execEntryLateStart
  repeat' (first | with_reducible assumption | with_reducible apply turnedAway_ok | with_reducible apply whenever_ok | with_reducible apply startEntry_ok | with_reducible apply countOverrun_ok | with_reducible apply dropDue_ok | apply hs | simp only [MemOk_mk] | (intro _ _ _; try dsimp only) | (intro _ _; try dsimp only) | split | dsimp only)

end Sys2Proof.Machine
end

