-- ==== Sys2Proof/Laws/WfHost.lean ====
section
/-! SUPPORT. The operations and commands of Machine/Host.lean keep the canonical form of memory. -/

namespace Sys2Proof.Machine

theorem setHostSt_ok (s : State) (h : HostSt) (hs : MemOk s) : MemOk (setHostSt s h) := by
  unfold setHostSt
  repeat' (first | with_reducible assumption | apply hs | simp only [MemOk_mk])
theorem countHost_ok (s : State) (a n : Nat) (write : Bool) (hs : MemOk s) : MemOk (countHost s a n write) := by
  unfold countHost
  repeat' (first | with_reducible assumption | with_reducible apply countEvent_ok | with_reducible apply hcRange_ok | apply hs | simp only [MemOk_mk])
theorem answerRead_ok (s : State) (bs : List Byte) (poison : Bool) (hs : MemOk s) : MemOk (answerRead s bs poison) := by
  unfold answerRead
  repeat' (first | with_reducible assumption | with_reducible apply setHostSt_ok | apply hs | simp only [MemOk_mk])
theorem hostRead_ok (s : State) (a n : Nat) (hs : MemOk s) : MemOk (hostRead s a n) := by
  unfold hostRead
  repeat' (first | with_reducible assumption | with_reducible apply answerRead_ok | with_reducible apply countHost_ok | with_reducible apply spendFree_ok | with_reducible apply ok_ite | with_reducible apply out_ite | apply hs | simp only [MemOk_mk])
theorem execHostMemRead_ok (hpa : BitVec 52) (len : Nat) (errs : List MemErr) (s : State) (hs : MemOk s) : OutOk (execHostMemRead hpa len errs s) := by
  unfold execHostMemRead
  repeat' (first | with_reducible assumption | with_reducible apply turnedAway_ok | with_reducible apply whenever_ok | with_reducible apply hostRead_ok | with_reducible apply meetErrors_ok | with_reducible apply countHostDenied_ok | with_reducible apply answerRead_ok | with_reducible apply ok_ite | with_reducible apply out_ite | apply hs | simp only [MemOk_mk] | (intro _ _ _; try dsimp only) | (intro _ _; try dsimp only) | split | dsimp only)
theorem hostWrite_ok (s : State) (a : Nat) (data : List Byte) (poison : Bool) (hs : MemOk s) : MemOk (hostWrite s a data poison) := by
  unfold hostWrite
  repeat' (first | with_reducible assumption | with_reducible apply countHost_ok | with_reducible apply writePoison_ok | with_reducible apply writeBytes_ok | with_reducible apply ok_ite | with_reducible apply out_ite | apply hs | simp only [MemOk_mk])
theorem execHostMemWrite_ok (hpa : BitVec 52) (data : List Byte) (poisoned : Bool) (s : State) (hs : MemOk s) : OutOk (execHostMemWrite hpa data poisoned s) := by
  unfold execHostMemWrite
  repeat' (first | with_reducible assumption | with_reducible apply turnedAway_ok | with_reducible apply whenever_ok | with_reducible apply hostWrite_ok | with_reducible apply countHostDenied_ok | with_reducible apply ok_ite | with_reducible apply out_ite | apply hs | simp only [MemOk_mk] | (intro _ _ _; try dsimp only) | (intro _ _; try dsimp only) | split | dsimp only)
theorem execHdmDecoderCommit_ok (base : BitVec 52) (s : State) (hs : MemOk s) : OutOk (execHdmDecoderCommit base s) := by
  unfold execHdmDecoderCommit
  repeat' (first | with_reducible assumption | with_reducible apply fput_ok | with_reducible apply setHostSt_ok | with_reducible apply next_ok | apply hs | simp only [MemOk_mk])
theorem execHostLinkReset_ok (s : State) (hs : MemOk s) : OutOk (execHostLinkReset s) := by
  unfold execHostLinkReset
  repeat' (first | with_reducible assumption | with_reducible apply fcount_ok | with_reducible apply fput_ok | with_reducible apply setHostSt_ok | with_reducible apply next_ok | apply hs | simp only [MemOk_mk])
theorem mailbox_ok (s : State) (code : Nat) (bs : List Byte) (hs : MemOk s) : MemOk (mailbox s code bs) := by
  unfold mailbox
  repeat' (first | with_reducible assumption | with_reducible apply setHostSt_ok | apply hs | simp only [MemOk_mk])
theorem served_ok (s t : State) (hs : MemOk s) (ht : MemOk t) : OutOk (served s t) := by
  unfold served
  repeat' (first | with_reducible assumption | with_reducible apply whenever_ok | apply hs | apply ht | simp only [MemOk_mk])
theorem succeed_ok (s : State) (bs : List Byte) (hs : MemOk s) : MemOk (succeed s bs) := by
  unfold succeed
  repeat' (first | with_reducible assumption | with_reducible apply mailbox_ok | apply hs | simp only [MemOk_mk])
theorem execIdentifyMemoryDevice_ok (s : State) (hs : MemOk s) : OutOk (execIdentifyMemoryDevice s) := by
  unfold execIdentifyMemoryDevice
  repeat' (first | with_reducible assumption | with_reducible apply served_ok | with_reducible apply tookFree_ok | with_reducible apply succeed_ok | apply hs | simp only [MemOk_mk])
theorem execGetSupportedLogs_ok (s : State) (hs : MemOk s) : OutOk (execGetSupportedLogs s) := by
  unfold execGetSupportedLogs
  repeat' (first | with_reducible assumption | with_reducible apply served_ok | with_reducible apply succeed_ok | apply hs | simp only [MemOk_mk])
theorem execGetLog_ok (s : State) (hs : MemOk s) : OutOk (execGetLog s) := by
  unfold execGetLog
  repeat' (first | with_reducible assumption | with_reducible apply served_ok | with_reducible apply tookFree_ok | with_reducible apply succeed_ok | apply hs | simp only [MemOk_mk])
theorem execGetHealthInfo_ok (s : State) (hs : MemOk s) : OutOk (execGetHealthInfo s) := by
  unfold execGetHealthInfo
  repeat' (first | with_reducible assumption | with_reducible apply served_ok | with_reducible apply tookFree_ok | with_reducible apply succeed_ok | apply hs | simp only [MemOk_mk])
theorem execGetEventRecords_ok (s : State) (hs : MemOk s) : OutOk (execGetEventRecords s) := by
  unfold execGetEventRecords
  repeat' (first | with_reducible assumption | with_reducible apply served_ok | with_reducible apply tookFree_ok | with_reducible apply succeed_ok | apply hs | simp only [MemOk_mk])
theorem execClearEventRecords_ok (s : State) (hs : MemOk s) : OutOk (execClearEventRecords s) := by
  unfold execClearEventRecords
  repeat' (first | with_reducible assumption | with_reducible apply served_ok | with_reducible apply succeed_ok | apply hs | simp only [MemOk_mk])
theorem execGetTimestamp_ok (s : State) (hs : MemOk s) : OutOk (execGetTimestamp s) := by
  unfold execGetTimestamp
  repeat' (first | with_reducible assumption | with_reducible apply served_ok | with_reducible apply succeed_ok | apply hs | simp only [MemOk_mk])
theorem execSetTimestamp_ok (ts : Word) (s : State) (hs : MemOk s) : OutOk (execSetTimestamp ts s) := by
  unfold execSetTimestamp
  repeat' (first | with_reducible assumption | with_reducible apply served_ok | with_reducible apply succeed_ok | with_reducible apply setHostSt_ok | apply hs | simp only [MemOk_mk])
theorem execUnsupportedMailboxCommand_ok (opcode : BitVec 16) (s : State) (hs : MemOk s) : OutOk (execUnsupportedMailboxCommand opcode s) := by
  unfold execUnsupportedMailboxCommand
  repeat' (first | with_reducible assumption | with_reducible apply turnedAway_ok | with_reducible apply served_ok | with_reducible apply mailbox_ok | with_reducible apply ok_ite | with_reducible apply out_ite | apply hs | simp only [MemOk_mk])
theorem setWhseMap_ok (s : State) (hs : MemOk s) : MemOk (setWhseMap s) := by
  unfold setWhseMap
  dsimp only
  repeat' (first | with_reducible assumption | with_reducible apply fput_ok | with_reducible apply ok_foldl | apply hs | simp only [MemOk_mk] | (intro _ _ _; try dsimp only) | (intro _ _; try dsimp only) | split)
theorem qualify_ok (s : State) (p : Nat) (o : ExpanderObs) (hs : MemOk s) : MemOk (qualify s p o) := by
  unfold qualify
  repeat' (first | with_reducible assumption | with_reducible apply fput_ok | with_reducible apply fputBool_ok | with_reducible apply setWhseMap_ok | with_reducible apply ok_ite | with_reducible apply out_ite | apply hs | simp only [MemOk_mk])
theorem execWarehousePortQualify_ok (p : Fin 4) (o : ExpanderObs) (s : State) (hs : MemOk s) : OutOk (execWarehousePortQualify p o s) := by
  unfold execWarehousePortQualify
  repeat' (first | with_reducible assumption | with_reducible apply whenever_ok | with_reducible apply qualify_ok | apply hs | simp only [MemOk_mk])
theorem execWarehouseLinkFailure_ok (p : Fin 4) (s : State) (hs : MemOk s) : OutOk (execWarehouseLinkFailure p s) := by
  unfold execWarehouseLinkFailure
  repeat' (first | with_reducible assumption | with_reducible apply whenever_ok | with_reducible apply fatal_ok | with_reducible apply fput_ok | apply hs | simp only [MemOk_mk])

end Sys2Proof.Machine
end

