-- ==== Sys2Proof/Laws/WfService.lean ====
section
/-! SUPPORT. The operations and commands of Machine/Service.lean keep the canonical form of memory. -/

namespace Sys2Proof.Machine

theorem setSvc_ok (s : State) (x : Svc) (hs : MemOk s) : MemOk (setSvc s x) := by
  unfold setSvc
  repeat' (first | with_reducible assumption | apply hs | simp only [MemOk_mk])
theorem writeSvc_ok (s : State) (hs : MemOk s) : MemOk (writeSvc s) := by
  unfold writeSvc
  repeat' (first | with_reducible assumption | with_reducible apply writeBytes_ok | apply hs | simp only [MemOk_mk])
theorem finishSvc_ok (s : State) (result detail : Nat) (hs : MemOk s) : MemOk (finishSvc s result detail) := by
  unfold finishSvc
  repeat' (first | with_reducible assumption | with_reducible apply writeSvc_ok | with_reducible apply setSvc_ok | apply hs | simp only [MemOk_mk])
theorem pollLaunch_ok (s : State) (hs : MemOk s) : MemOk (pollLaunch s) := by
  unfold pollLaunch
  repeat' (first | with_reducible assumption | with_reducible apply ack_ok | with_reducible apply ok_ite | with_reducible apply out_ite | apply hs | simp only [MemOk_mk])
theorem pollService_ok (s : State) (hs : MemOk s) : MemOk (pollService s) := by
  unfold pollService
  repeat' (first | with_reducible assumption | with_reducible apply setSvc_ok | with_reducible apply finishSvc_ok | with_reducible apply ok_ite | with_reducible apply out_ite | apply hs | simp only [MemOk_mk])
theorem pollSwitch_ok (s : State) (hs : MemOk s) : MemOk (pollSwitch s) := by
  unfold pollSwitch
  repeat' (first | with_reducible assumption | with_reducible apply setJob_ok | with_reducible apply fput_ok | with_reducible apply ok_ite | with_reducible apply out_ite | apply hs | simp only [MemOk_mk])
theorem execLaunchPagePoll_ok (s : State) (hs : MemOk s) : OutOk (execLaunchPagePoll s) := by
  unfold execLaunchPagePoll
  repeat' (first | with_reducible assumption | with_reducible apply consumeRange_ok | with_reducible apply whenever_ok | with_reducible apply pollSwitch_ok | with_reducible apply pollService_ok | with_reducible apply pollLaunch_ok | apply hs | simp only [MemOk_mk])
theorem execHall_ok (s : State) (hs : MemOk s) : OutOk (execHall s) := by
  unfold execHall
  repeat' (first | with_reducible assumption | with_reducible apply whenever_ok | with_reducible apply finishSvc_ok | with_reducible apply commitHall_ok | with_reducible apply setSec_ok | with_reducible apply ok_ite | dsimp only)
theorem execAttest_ok (s : State) (hs : MemOk s) : OutOk (execAttest s) := by
  unfold execAttest
  repeat' (first | with_reducible assumption | with_reducible apply whenever_ok | with_reducible apply finishSvc_ok | with_reducible apply setSec_ok | with_reducible apply ok_ite | with_reducible apply out_ite | apply hs | simp only [MemOk_mk])
theorem stageDrain_ok (s : State) (arg : Nat) (hs : MemOk s) : MemOk (stageDrain s arg) := by
  unfold stageDrain
  repeat' (first | with_reducible assumption | with_reducible apply stageImage_ok | with_reducible apply checkImage_ok | with_reducible apply ok_ite | with_reducible apply out_ite | apply hs | simp only [MemOk_mk])
theorem execSvcDrain_ok (s : State) (hs : MemOk s) : OutOk (execSvcDrain s) := by
  unfold execSvcDrain
  repeat' (first | with_reducible assumption | with_reducible apply stageDrain_ok | with_reducible apply whenever_ok | with_reducible apply finishSvc_ok | with_reducible apply setSvc_ok | with_reducible apply ok_ite | with_reducible apply out_ite | apply hs | simp only [MemOk_mk])
theorem execDrainArm_ok (s : State) (hs : MemOk s) : OutOk (execDrainArm s) := by
  unfold execDrainArm
  repeat' (first | with_reducible assumption | with_reducible apply armStage_ok | with_reducible apply fput_ok | with_reducible apply whenever_ok | with_reducible apply finishSvc_ok | with_reducible apply setSvc_ok | with_reducible apply ok_ite | with_reducible apply out_ite | apply hs | simp only [MemOk_mk])
theorem execFwupdate_ok (s : State) (hs : MemOk s) : OutOk (execFwupdate s) := by
  unfold execFwupdate
  repeat' (first | with_reducible assumption | with_reducible apply whenever_ok | with_reducible apply finishSvc_ok | with_reducible apply setSec_ok | with_reducible apply ok_ite | with_reducible apply out_ite | apply hs | simp only [MemOk_mk])
theorem verifyReceived_ok (s : State) (hs : MemOk s) : MemOk (verifyReceived s) := by
  unfold verifyReceived
  repeat' (first | with_reducible assumption | with_reducible apply finishSvc_ok | with_reducible apply setSec_ok | with_reducible apply ok_ite | with_reducible apply out_ite | apply hs | simp only [MemOk_mk])
theorem activateBundle_ok (s : State) (b : Bundle) (hs : MemOk s) : MemOk (activateBundle s b) := by
  unfold activateBundle
  repeat' (first | with_reducible assumption | with_reducible apply fput_ok | with_reducible apply extendM_ok | with_reducible apply setSec_ok | apply hs | simp only [MemOk_mk])
theorem finishUpdate_ok (s : State) (hs : MemOk s) : MemOk (finishUpdate s) := by
  unfold finishUpdate
  repeat' (first | with_reducible assumption | with_reducible apply setSec_ok | with_reducible apply finishSvc_ok | with_reducible apply activateBundle_ok | with_reducible apply ok_ite | with_reducible apply out_ite | apply hs | simp only [MemOk_mk])
theorem execFirmwareActivation_ok (s : State) (hs : MemOk s) : OutOk (execFirmwareActivation s) := by
  unfold execFirmwareActivation
  dsimp only
  repeat' (first | with_reducible assumption | with_reducible apply turnedAway_ok | with_reducible apply activateBundle_ok | with_reducible apply whenever_ok | with_reducible apply writeSvc_ok | with_reducible apply setSvc_ok | with_reducible apply ok_ite | with_reducible apply out_ite | apply hs | simp only [MemOk_mk] | (intro _ _ _; try dsimp only) | (intro _ _; try dsimp only) | split)
theorem completeRequest_ok (s : State) (x1 : EngineReq) (hs : MemOk s) : MemOk (completeRequest s x1) := by
  unfold completeRequest
  repeat' (first | with_reducible assumption | with_reducible apply verifyReceived_ok | with_reducible apply finishSvc_ok | with_reducible apply tookFree_ok | with_reducible apply writeBytes_ok | with_reducible apply putFlash_ok | with_reducible apply finishUpdate_ok | apply hs | simp only [MemOk_mk] | (intro _ _ _; try dsimp only) | (intro _ _; try dsimp only) | split | dsimp only)
theorem execSigningEngineRequestComplete_ok (s : State) (hs : MemOk s) : OutOk (execSigningEngineRequestComplete s) := by
  unfold execSigningEngineRequestComplete
  dsimp only
  repeat' (first | with_reducible assumption | with_reducible apply turnedAway_ok | with_reducible apply completeRequest_ok | with_reducible apply setSec_ok | with_reducible apply next_ok | apply hs | simp only [MemOk_mk] | (intro _ _ _; try dsimp only) | (intro _ _; try dsimp only) | split)
theorem powerOffEngine_ok (s : State) (e : Nat) (hs : MemOk s) : MemOk (powerOffEngine s e) := by
  unfold powerOffEngine
  repeat' (first | with_reducible assumption | with_reducible apply setSec_ok | apply hs | simp only [MemOk_mk])
theorem settleEngineOut_ok (s : State) (hs : MemOk s) : MemOk (settleEngineOut s) := by
  unfold settleEngineOut
  dsimp only
  repeat' (first | with_reducible assumption | with_reducible apply finishSvc_ok | with_reducible apply powerOffEngine_ok | with_reducible apply setSvc_ok | with_reducible apply ok_ite | with_reducible apply out_ite | apply hs | simp only [MemOk_mk] | (intro _ _ _; try dsimp only) | (intro _ _; try dsimp only) | split)
theorem execEngineOut_ok (s : State) (hs : MemOk s) : OutOk (execEngineOut s) := by
  unfold execEngineOut
  repeat' (first | with_reducible assumption | with_reducible apply whenever_ok | with_reducible apply finishSvc_ok | with_reducible apply settleEngineOut_ok | with_reducible apply setSvc_ok | with_reducible apply ok_ite | with_reducible apply out_ite | apply hs | simp only [MemOk_mk])
theorem stageEn_ok (s : State) (e : Nat) (hs : MemOk s) : MemOk (stageEn s e) := by
  unfold stageEn
  repeat' (first | with_reducible assumption | with_reducible apply stageReg_ok | with_reducible apply ok_foldl | apply hs | simp only [MemOk_mk] | (intro _ _ _; try dsimp only) | (intro _ _; try dsimp only) | split | dsimp only)
theorem execEngineIn_ok (serial : Word) (calibrated : Bool) (s : State) (hs : MemOk s) : OutOk (execEngineIn serial calibrated s) := by
  unfold execEngineIn
  repeat' (first | with_reducible assumption | with_reducible apply whenever_ok | with_reducible apply finishSvc_ok | with_reducible apply firmwareCommit_ok | with_reducible apply setSec_ok | with_reducible apply setSvc_ok | with_reducible apply stageEn_ok | with_reducible apply fitEngine_ok | with_reducible apply ok_ite | simp only [MemOk_mk] | dsimp only)
theorem execEngineLatchOpen_ok (e : Fin 8) (s : State) (hs : MemOk s) : OutOk (execEngineLatchOpen e s) := by
  unfold execEngineLatchOpen
  repeat' (first | with_reducible assumption | with_reducible apply whenever_ok | with_reducible apply dropEngine_ok | apply hs | simp only [MemOk_mk])
theorem execStanddown_ok (s : State) (hs : MemOk s) : OutOk (execStanddown s) := by
  unfold execStanddown
  repeat' (first | with_reducible assumption | with_reducible apply whenever_ok | with_reducible apply startStanddown_ok | with_reducible apply finishSvc_ok | apply hs | simp only [MemOk_mk])
theorem slewLevel_ok (s : State) (c : Nat) (hs : MemOk s) : MemOk (slewLevel s c) := by
  unfold slewLevel
  repeat' (first | with_reducible assumption | with_reducible apply setCrane_ok | with_reducible apply ok_ite | with_reducible apply out_ite | apply hs | simp only [MemOk_mk])
theorem switchOptics_ok (s : State) (p : Nat) (hs : MemOk s) : MemOk (switchOptics s p) := by
  unfold switchOptics
  repeat' (first | with_reducible assumption | with_reducible apply setPort_ok | apply hs | simp only [MemOk_mk])
theorem showLevels_ok (s : State) (hs : MemOk s) : MemOk (showLevels s) := by
  unfold showLevels
  repeat' (first | with_reducible assumption | with_reducible apply fput_ok | with_reducible apply ok_ite | with_reducible apply out_ite | with_reducible apply ok_foldl | apply hs | simp only [MemOk_mk])
theorem slew_ok (s : State) (hs : MemOk s) : MemOk (slew s) := by
  unfold slew
  repeat' (first | with_reducible assumption | with_reducible apply slewLevel_ok | with_reducible apply showLevels_ok | with_reducible apply switchOptics_ok | with_reducible apply ok_foldl | apply hs | simp only [MemOk_mk])
theorem execBallastSlewBoundary_ok (s : State) (hs : MemOk s) : OutOk (execBallastSlewBoundary s) := by
  unfold execBallastSlewBoundary
  repeat' (first | with_reducible assumption | with_reducible apply setSec_ok | with_reducible apply whenever_ok | with_reducible apply settleEngineOut_ok | with_reducible apply endRampDown_ok | with_reducible apply settlePass_ok | with_reducible apply slew_ok | apply hs | simp only [MemOk_mk])

end Sys2Proof.Machine
end

