-- ==== Sys2Proof/Laws/WfTugDone.lean ====
section
/-! SUPPORT. The operations and commands of Machine/TugDone.lean keep the canonical form of memory. -/

namespace Sys2Proof.Machine

theorem freeTheSlot_ok (s : State) (tug k : Nat) (hs : MemOk s) : MemOk (freeTheSlot s tug k) := by
  unfold freeTheSlot
  repeat' (first | with_reducible assumption | with_reducible apply setCore_ok | apply hs | simp only [MemOk_mk])
theorem fillLine_ok (s : State) (tug l : Nat) (hs : MemOk s) : MemOk (fillLine s tug l) := by
  unfold fillLine
  repeat' (first | with_reducible assumption | with_reducible apply setCore_ok | with_reducible apply ok_ite | with_reducible apply out_ite | apply hs | simp only [MemOk_mk])
theorem prefetch_ok (s : State) (t l from_ : Nat) (home : Bool) (hs : MemOk s) : MemOk (prefetch s t l from_ home) := by
  unfold prefetch
  repeat' (first | with_reducible assumption | with_reducible apply countEvent_ok | with_reducible apply setCore_ok | with_reducible apply ok_ite | with_reducible apply out_ite | apply hs | simp only [MemOk_mk])
theorem prefetches_ok (s : State) (t l n : Nat) (hs : MemOk s) : MemOk (prefetches s t l n) := by
  induction n with
  | zero => exact hs
  | succ n ih => exact prefetch_ok _ _ _ _ _ ih
theorem strideAhead_ok (s : State) (t a : Nat) (hs : MemOk s) : MemOk (strideAhead s t a) := by
  unfold strideAhead
  dsimp only
  repeat' (first | with_reducible assumption | with_reducible apply prefetch_ok | with_reducible apply tookFree_ok | with_reducible apply ok_ite | with_reducible apply out_ite | with_reducible apply ok_foldl | apply hs | simp only [MemOk_mk] | (intro _ _ _; try dsimp only) | (intro _ _; try dsimp only) | split)
theorem homeAccess_ok (s : State) (t a : Nat) (write : Bool) (hs : MemOk s) : MemOk (homeAccess s t a write) := by
  unfold homeAccess
  repeat' (first | with_reducible assumption | with_reducible apply strideAhead_ok | with_reducible apply hcAccess_ok | with_reducible apply ok_ite | with_reducible apply out_ite | apply hs | simp only [MemOk_mk])
theorem missOn_ok (s : State) (t l : Nat) (hs : MemOk s) : MemOk (missOn s t l) := by
  unfold missOn
  repeat' (first | with_reducible assumption | with_reducible apply fillLine_ok | with_reducible apply countEvent_ok | with_reducible apply setThread_ok | with_reducible apply tookFree_ok | with_reducible apply prefetches_ok | with_reducible apply ok_ite | with_reducible apply out_ite | apply hs | simp only [MemOk_mk])
theorem wakeReader_ok (s : State) (a : Access) (hs : MemOk s) : MemOk (wakeReader s a) := by
  unfold wakeReader
  repeat' (first | with_reducible assumption | with_reducible apply simd_ok | with_reducible apply makeReady_ok | with_reducible apply ok_ite | with_reducible apply out_ite | apply hs | simp only [MemOk_mk] | (intro _ _ _; try dsimp only) | (intro _ _; try dsimp only) | split | dsimp only)
theorem tugConsume_ok (s : State) (a : Access) (hs : MemOk s) : MemOk (tugConsume s a) := by
  unfold tugConsume
  repeat' (first | with_reducible assumption | with_reducible apply tookFree_ok | with_reducible apply consumeRange_ok | with_reducible apply spendFree_ok | with_reducible apply ok_ite | with_reducible apply out_ite | apply hs | simp only [MemOk_mk])
theorem amoWrite_ok (s : State) (a : Access) (old : Nat) (hs : MemOk s) : MemOk (amoWrite s a old) := by
  unfold amoWrite
  dsimp only
  repeat' (first | with_reducible assumption | with_reducible apply writeNat_ok | with_reducible apply ok_ite | with_reducible apply out_ite | apply hs | simp only [MemOk_mk] | (intro _ _ _; try dsimp only) | (intro _ _; try dsimp only) | split)
theorem countAtomic_ok (s : State) (a : Access) (hs : MemOk s) : MemOk (countAtomic s a) := by
  unfold countAtomic
  repeat' (first | with_reducible assumption | with_reducible apply countEvent_ok | with_reducible apply ok_ite | with_reducible apply out_ite | apply hs | simp only [MemOk_mk])
theorem countLoad_ok (s : State) (a : Access) (tier : Nat) (hs : MemOk s) : MemOk (countLoad s a tier) := by
  unfold countLoad
  repeat' (first | with_reducible assumption | with_reducible apply countLatency_ok | with_reducible apply ok_ite | with_reducible apply out_ite | apply hs | simp only [MemOk_mk])
theorem fillFor_ok (s : State) (a : Access) (hs : MemOk s) : MemOk (fillFor s a) := by
  unfold fillFor
  repeat' (first | with_reducible assumption | with_reducible apply missOn_ok | with_reducible apply ok_ite | with_reducible apply out_ite | apply hs | simp only [MemOk_mk])
theorem acquireAmo_ok (s : State) (a : Access) (hs : MemOk s) : MemOk (acquireAmo s a) := by
  unfold acquireAmo
  repeat' (first | with_reducible assumption | with_reducible apply acquire_ok | with_reducible apply setThread_ok | with_reducible apply ok_ite | with_reducible apply out_ite | apply hs | simp only [MemOk_mk] | (intro _ _ _; try dsimp only) | (intro _ _; try dsimp only) | split | dsimp only)
theorem returnData_ok (s : State) (tug k : Nat) (a : Access) (hs : MemOk s) : MemOk (returnData s tug k a) := by
  unfold returnData
  repeat' (first | with_reducible assumption | with_reducible apply amoWrite_ok | with_reducible apply countAtomic_ok | with_reducible apply homeAccess_ok | with_reducible apply freeTheSlot_ok | with_reducible apply wakeReader_ok | with_reducible apply writeDest_ok | with_reducible apply acquireAmo_ok | with_reducible apply fillFor_ok | with_reducible apply tugConsume_ok | with_reducible apply countLoad_ok | apply hs | simp only [MemOk_mk])
theorem returnPrefetch_ok (s : State) (tug k : Nat) (home : Bool) (a : Access) (hs : MemOk s) : MemOk (returnPrefetch s tug k home a) := by
  unfold returnPrefetch
  repeat' (first | with_reducible assumption | with_reducible apply hcAccess_ok | with_reducible apply freeTheSlot_ok | with_reducible apply fillLine_ok | with_reducible apply ok_ite | with_reducible apply out_ite | apply hs | simp only [MemOk_mk])
theorem execLoadDataReturn_ok (tug : Fin 128) (slot : Nat) (errs : List MemErr) (s : State) (hs : MemOk s) : OutOk (execLoadDataReturn tug slot errs s) := by
  unfold execLoadDataReturn
  repeat' (first | with_reducible assumption | with_reducible apply prefetch_ok | with_reducible apply returnPrefetch_ok | with_reducible apply meetErrors_ok | with_reducible apply whenever_ok | with_reducible apply returnData_ok | with_reducible apply turnedAway_ok | with_reducible apply next_ok | apply hs | simp only [MemOk_mk] | (intro _ _ _; try dsimp only) | (intro _ _; try dsimp only) | split | dsimp only)
theorem performStore_ok (s : State) (a : Access) (hs : MemOk s) : MemOk (performStore s a) := by
  unfold performStore
  repeat' (first | with_reducible assumption | with_reducible apply ctlWrite_ok | with_reducible apply writeNat_ok | with_reducible apply ok_ite | with_reducible apply out_ite | with_reducible apply ok_foldl | apply hs | simp only [MemOk_mk] | (intro _ _ _; try dsimp only) | (intro _ _; try dsimp only) | split | dsimp only)
theorem execStorePerformed_ok (tug : Fin 128) (slot : Nat) (s : State) (hs : MemOk s) : OutOk (execStorePerformed tug slot s) := by
  unfold execStorePerformed
  repeat' (first | with_reducible assumption | with_reducible apply whenever_ok | with_reducible apply performStore_ok | with_reducible apply homeAccess_ok | with_reducible apply freeTheSlot_ok | with_reducible apply turnedAway_ok | apply hs | simp only [MemOk_mk] | (intro _ _ _; try dsimp only) | (intro _ _; try dsimp only) | split | dsimp only)

end Sys2Proof.Machine
end

