-- ==== Sys2Proof/WellFormed.lean ====
section
/-! DEFINITION. What the surroundings can present with a command: the checks a command's operands pass. -/

namespace Sys2Proof

/-- Picoseconds within a Tide ns. -/
def wfPs (ps : BitVec 16) : Bool := decide (ps.toNat < 1000)

/-- The longest cell is 552 bytes (R309). -/
def wfWire (w : List Byte) : Bool := decide (w.length ≤ 552)

/-- The operands of a command are ones its surroundings can present. -/
def wellFormed : Instr → Bool
  | .registerWrite _ off bytes _ _ _ =>
    (bytes == 1 || bytes == 2 || bytes == 4 || bytes == 8) && decide (off.toNat % bytes = 0)
  | .acquireEntry _ _ hops => decide (hops < 64)
  | .timeCellReceive _ w _ rxPs => wfWire w && wfPs rxPs
  | .holdCellReceive _ w _ => wfWire w
  | .shadowWrite off _ => decide (off.toNat % 8 = 0)
  | .loadDataReturn _ k _ => decide (k < 48)
  | .storePerformed _ k => decide (k < 48)
  | .patrolScrub _ c u => (c ++ u).all (fun a => decide (a < 2 ^ 48))
  | .hostMemRead _ n _ => decide (1 ≤ n ∧ n ≤ 64)
  | .hostMemWrite _ d _ => decide (1 ≤ d.length ∧ d.length ≤ 64)
  | .warehousePortQualify _ o => decide (o.width ≤ 16 ∧ o.speed ≤ 3)
  | .portSignalDetect _ n => decide (n ≤ 9)
  | .dataCellReceive _ w _ _ => wfWire w
  | .identReceive _ w _ => wfWire w
  | .linkCellReceive _ w _ => wfWire w
  | .counterOverflow _ n => decide (n ≤ 1020)
  | .tugSampleSelect _ _ _ _ n => decide (n ≤ 7)
  | .bootStage o => decide (o.gddr0 ≤ 18 ∧ o.gddr1 ≤ 18)
  | .dieOvertemp _ c => decide (c ≤ 255)
  | .dieCriticalTemp _ c => decide (c ≤ 255)
  | .coolantInletHigh c => decide (c ≤ 255)
  | .thermalWarning c => decide (c ≤ 255)
  | _ => true

end Sys2Proof
end

