-- ==== Sys2Proof/Tests/Slice0.lean ====
section
/-! SUPPORT. Tests of the model: the checks of WellFormed refuse an ill-formed term each; single commands give the values that
the manual states; and for every statement with hypotheses a state and operands that meet them (`wit_…`). -/

namespace Sys2Proof.Tests
open Sys2Proof Sys2Proof.Machine

set_option Elab.async false

/-! ### Small states -/

/-- A module whose Tide counter runs and shows n. -/
def at_ns (n : Nat) (s : State) : State := setTide s { s.tide with running := true, now := n }
/-- The Tide runs and shows 65,536. -/
def tided : State := at_ns 65536 State.reset
/-- Thread 4 (the first job thread of die 0) owns its core. -/
def running (th : Thread) : State := setThread State.reset 4 { th with st := .run }
/-- The same at firmware privilege, with no region needed. -/
def fwThread (th : Thread) : State := setThread State.reset 4 { th with st := .run, fw := true }

theorem clean_of (s : State) (h : s.poison = []) (h1 : ∀ p, p < 4 → whseFailed s p = false) : clean s := by
  intro a
  have b : whsePortOf s a < 4 := by
    unfold whsePortOf
    dsimp only
    split <;> omega
  simp [poisoned, h, h1 _ b]
/-- Fields set one after another. -/
def put (s : State) (l : List (Field × Nat)) : State := l.foldl (fun s p => fput s p.1 p.2) s

/-! ### Well-formedness refuses an ill-formed term for each check -/

def exp0 : ExpanderObs := ⟨true, 16, 3, false, true, true, 512⟩

theorem test_wf_refuses_register : wellFormed (.registerWrite .fw 8 3 0 0 0) = false ∧
    wellFormed (.registerWrite .fw 4 8 0 0 0) = false ∧ wellFormed (.shadowWrite 4 0) = false := by decide
theorem test_wf_refuses_tide : wellFormed (.acquireEntry 0 0 64) = false ∧ wellFormed (.timeCellReceive 0 [] false 1000) = false := by
  decide
theorem test_wf_refuses_slots : wellFormed (.loadDataReturn 0 48 []) = false ∧ wellFormed (.storePerformed 0 48) = false := by decide
theorem test_wf_refuses_memory : wellFormed (.patrolScrub 0 [2 ^ 48] []) = false ∧ wellFormed (.patrolScrub 0 [] [2 ^ 48]) = false ∧
    wellFormed (.hostMemRead 0 0 []) = false ∧ wellFormed (.hostMemRead 0 65 []) = false ∧
    wellFormed (.hostMemWrite 0 [] false) = false ∧ wellFormed (.hostMemWrite 0 (List.replicate 65 0) false) = false := by decide
theorem test_wf_refuses_links : wellFormed (.warehousePortQualify 0 { exp0 with width := 17 }) = false ∧
    wellFormed (.warehousePortQualify 0 { exp0 with speed := 4 }) = false ∧ wellFormed (.portSignalDetect 0 10) = false := by decide
theorem test_wf_refuses_long_cells (w : List Byte) (h : w.length = 553) : wellFormed (.dataCellReceive 0 w false true) = false ∧
    wellFormed (.holdCellReceive 0 w false) = false ∧ wellFormed (.identReceive 0 w false) = false ∧
    wellFormed (.linkCellReceive 0 w false) = false ∧ wellFormed (.timeCellReceive 0 w false 0) = false := by
  simp [wellFormed, wfWire, h]
theorem test_wf_refuses_counts : wellFormed (.counterOverflow 0 1021) = false ∧ wellFormed (.tugSampleSelect 0 0 0 0 8) = false ∧
    wellFormed (.bootStage ⟨19, 0, [], []⟩) = false ∧ wellFormed (.bootStage ⟨0, 19, [], []⟩) = false := by decide
theorem test_wf_refuses_temperatures : wellFormed (.dieOvertemp 0 256) = false ∧ wellFormed (.dieCriticalTemp 0 256) = false ∧
    wellFormed (.coolantInletHigh 256) = false ∧ wellFormed (.thermalWarning 256) = false := by decide
theorem test_wf_admits : wellFormed (.registerWrite .fw 8 8 0 0 0) = true ∧ wellFormed (.timeCellReceive 0 [] false 999) = true ∧
    wellFormed (.counterOverflow 0 1020) = true ∧ wellFormed (.hostMemRead 0 64 []) = true := by decide

/-! ### The whole machine -/

theorem test_step_takes_the_front : step { State.reset with pending := [.pwrStanddown, .ptpMessageReceive true 7] } =
    exec .pwrStanddown { State.reset with pending := [.ptpMessageReceive true 7] } := rfl
theorem wit_empty_queue : State.reset.pending = [] ∧ State.reset.tide.running = false ∧ tided.pending = [] ∧
    tided.tide.running = true ∧ tided.perf.run = false := by decide
theorem wit_every_command : (∀ v b, Instr.inputOvervoltage 7200 false = .inputOvervoltage v b → v ≤ 7200) ∧
    (∀ v, Instr.reversePolarity 6000 = .reversePolarity v → v ≤ 6000) ∧ 7200 < 7201 ∧ 6000 < 6001 := by
  refine ⟨fun v b h => ?_, fun v h => ?_, by decide, by decide⟩
  · cases h; decide
  · cases h; decide
theorem wit_memory_canonical : memWf State.reset ∧ step State.reset = .next State.reset := ⟨by decide, rfl⟩
theorem wit_register_write : accessOk .fw 0x100008 8 = true ∧ plainRegister 0x100008 = true ∧
    jobMayWrite State.reset 0x100008 4 = true ∧ accessOk (.job 4) 0x100008 4 = true ∧ plainRegister 0x10 = true ∧
    accessOk (.job 4) 0x10 8 = true ∧ jobMayWrite State.reset 0x10 8 = false := by decide

/-! ### Tug instructions -/

/-- The state a command answers, or State.reset where it answers none. -/
def after (i : Instr) (s : State) : State := match exec i s with
  | .next u => u
  | _ => State.reset

/-- Words of the formats of Table 03-5: register, immediate and SIMD. -/
def wR (op rd ra rb func : Nat) : Nat := op + rd * 2 ^ 6 + ra * 2 ^ 11 + rb * 2 ^ 16 + func * 2 ^ 21
def wI (op rd ra imm : Nat) : Nat := op + rd * 2 ^ 6 + ra * 2 ^ 11 + imm * 2 ^ 16
def wV (vd va vb et vfunc : Nat) : Nat := wR 0x38 vd va vb (et + vfunc * 8)
def wS (rd ra imm12 sfunc : Nat) : Nat := wI 0x3C rd ra (imm12 + sfunc * 2 ^ 12)
/-- The instruction word at the pc of thread 4, at byte 0 of Berth 0, is w; the thread may execute there. -/
def code (w : Nat) (s : State) : State :=
  put (setCore s 1 { Machine.core s 1 with icache := [(0, BitVec.ofNat 1024 w)] }) [(F.tugRegionBaseEn 0 0, 1), (F.tugRegionBaseEx 0 0, 1)]
/-- What the fetched word of thread 4 does. -/
def runs1 (w : Nat) (s : State) : State := match fetched (code w s) 4 with
  | some i => after i (code w s)
  | none => State.reset

/-- Thread 4 with g1 and g2 set. -/
def regs (a b : Word) : State := running { g := [(1, a), (2, b)] }
/-- Thread 4 with v1 and v2 set. -/
def vregs (a b : VWord) : State := running { v := [(1, a), (2, b)] }
def vop (et : BitVec 3) : VOp := ⟨4, 3, 1, 2, false, et⟩

/-! Instruction words: the first four are those of the worked examples of chapter 3, the others are put together from Tables 03-5 to
03-12; the one with its bits in full is addi g5, g6, -3. -/

theorem test_decode_words : decodeFlx 4 0x00073141 = .add 4 5 6 7 ∧ decodeFlx 4 0x00273141 = .sub 4 5 6 7 ∧
    decodeFlx 4 0x00185250 = .ld 4 9 10 24 ∧ decodeFlx 4 0xFFFD00E1 = .bne 4 3 0 0xFFFD ∧
    decodeFlx 4 0b1111111111111101_00110_00101_000010 = .addi 4 5 6 0xFFFD ∧ decodeFlx 4 0 = .ill 4 .zeroWord := by decide +kernel
theorem test_decode_alu : [(0x00, Instr.add 4 3 1 2), (0x01, .sub 4 3 1 2), (0x02, .and 4 3 1 2), (0x03, .or 4 3 1 2), (0x04, .xor 4 3 1 2),
    (0x05, .sll 4 3 1 2), (0x06, .srl 4 3 1 2), (0x07, .sra 4 3 1 2), (0x08, .slt 4 3 1 2), (0x09, .sltu 4 3 1 2),
    (0x0A, .min 4 3 1 2), (0x0B, .max 4 3 1 2), (0x0C, .minu 4 3 1 2), (0x0D, .maxu 4 3 1 2), (0x10, .mul 4 3 1 2),
    (0x11, .mulh 4 3 1 2), (0x12, .mulhu 4 3 1 2), (0x14, .div 4 3 1 2), (0x15, .divu 4 3 1 2), (0x16, .rem 4 3 1 2),
    (0x17, .remu 4 3 1 2), (0x20, .addw 4 3 1 2), (0x21, .subw 4 3 1 2), (0x30, .clz 4 3 1), (0x31, .ctz 4 3 1),
    (0x32, .popc 4 3 1)].all (fun p => decide (decodeFlx 4 (BitVec.ofNat 32 (wR 1 3 1 2 p.1)) = p.2)) = true := by decide +kernel
theorem test_decode_immediates : [(0x02, Instr.addi 4 3 1 9), (0x03, .andi 4 3 1 9), (0x04, .ori 4 3 1 9), (0x05, .xori 4 3 1 9),
    (0x06, .slti 4 3 1 9), (0x07, .shi 4 3 1 9), (0x08, .lui 4 3 9), (0x09, .lsh16 4 3 1 9), (0x10, .ld 4 3 1 9), (0x11, .lw 4 3 1 9),
    (0x12, .lwu 4 3 1 9), (0x13, .lh 4 3 1 9), (0x14, .lhu 4 3 1 9), (0x15, .lb 4 3 1 9), (0x16, .lbu 4 3 1 9), (0x18, .sd 4 3 1 9),
    (0x19, .sw 4 3 1 9), (0x1A, .sh 4 3 1 9), (0x1B, .sb 4 3 1 9), (0x20, .beq 4 3 1 9), (0x21, .bne 4 3 1 9), (0x22, .blt 4 3 1 9),
    (0x23, .bge 4 3 1 9), (0x24, .bltu 4 3 1 9), (0x25, .bgeu 4 3 1 9), (0x2A, .jalr 4 3 1 9), (0x39, .vld 4 3 1 9),
    (0x3A, .vst 4 3 1 9)].all (fun p => decide (decodeFlx 4 (BitVec.ofNat 32 (wI p.1 3 1 9)) = p.2)) = true := by decide +kernel
theorem test_decode_atomics : [(0, Instr.amoswap 4 3 1 2 .d true false), (1, .amoadd 4 3 1 2 .d true false),
    (2, .amoand 4 3 1 2 .d true false), (3, .amoor 4 3 1 2 .d true false), (4, .amomax 4 3 1 2 .d true false),
    (5, .amomin 4 3 1 2 .d true false), (6, .amomaxu 4 3 1 2 .d true false), (7, .amominu 4 3 1 2 .d true false),
    (8, .amocas 4 3 1 2 .d true false)].all (fun p => decide (decodeFlx 4 (BitVec.ofNat 32 (wR 0x1C 3 1 2 (p.1 + 3 * 16 + 64))) = p.2)) =
    true := by decide +kernel
theorem test_decode_scalar_fp : [(0x00, Instr.fadd 4 .d 3 1 2), (0x01, .fsub 4 .d 3 1 2), (0x12, .fmul 4 .s 3 1 2), (0x03, .fdiv 4 .d 3 1 2),
    (0x14, .fsqrt 4 .s 3 1), (0x05, .fmin 4 .d 3 1 2), (0x16, .fmax 4 .s 3 1 2), (0x07, .fmadd 4 .d 3 1 2), (0x20, .fcvtSD 4 3 1),
    (0x21, .fcvtDS 4 3 1), (0x22, .fcvtLD 4 3 1), (0x23, .fcvtDL 4 3 1), (0x24, .fcvtBfS 4 3 1), (0x28, .feqD 4 3 1 2),
    (0x29, .fltD 4 3 1 2), (0x2A, .fleD 4 3 1 2)].all (fun p => decide (decodeFlx 4 (BitVec.ofNat 32 (wR 0x30 3 1 2 p.1)) = p.2)) =
    true := by decide +kernel
theorem test_decode_simd : [(0x00, Instr.vadd (vop 6)), (0x01, .vsub (vop 6)), (0x02, .vmul (vop 6)), (0x03, .vfma (vop 6)),
    (0x04, .vmin (vop 6)), (0x05, .vmax (vop 6)), (0x06, .vdiv (vop 6)), (0x07, .vsqrt (vop 6)), (0x08, .vand (vop 6)), (0x09, .vor (vop 6)),
    (0x0A, .vxor (vop 6)), (0x0B, .vshl (vop 6)), (0x0C, .vshr (vop 6)), (0x0D, .vsra (vop 6)), (0x10, .vceq (vop 6)), (0x11, .vclt (vop 6)),
    (0x12, .vcle (vop 6)), (0x13, .vsel (vop 6)), (0x18, .vredadd (vop 6)), (0x19, .vredmax (vop 6)), (0x20, .vcvt (vop 6)),
    (0x21, .vpack8e (vop 6)), (0x22, .vpack8g (vop 6)), (0x23, .vpack8gs (vop 6)), (0x24, .vunpack8e (vop 6)), (0x25, .vunpack8g (vop 6)),
    (0x28, .vperm (vop 6)), (0x30, .vbcast (vop 6)), (0x31, .vext (vop 6)), (0x80, .vadd { vop 6 with sc := true })].all (fun p =>
    decide (decodeFlx 4 (BitVec.ofNat 32 (wV 3 1 2 6 p.1)) = p.2)) = true := by decide +kernel
theorem test_decode_system : decodeFlx 4 (BitVec.ofNat 32 (wS 3 0 0x12 0)) = .rdsr 4 3 0x12 ∧
    decodeFlx 4 (BitVec.ofNat 32 (wS 0 1 2 1)) = .wrsr 4 1 2 ∧ decodeFlx 4 (BitVec.ofNat 32 (wS 0 0 31 2)) = .fence 4 31 ∧
    decodeFlx 4 (BitVec.ofNat 32 (wS 0 1 0 3)) = .tidewait 4 1 ∧ decodeFlx 4 (BitVec.ofNat 32 (wS 0 1 0 4)) = .slotwait 4 1 ∧
    decodeFlx 4 (BitVec.ofNat 32 (wS 0 0 0 5)) = .yield 4 ∧ decodeFlx 4 (BitVec.ofNat 32 (wS 0 0 0 6)) = .halt 4 ∧
    decodeFlx 4 (BitVec.ofNat 32 (wS 0 1 2 8)) = .tstart 4 1 2 ∧ decodeFlx 4 (BitVec.ofNat 32 (wS 0 1 0 9)) = .tstop 4 1 ∧
    decodeFlx 4 (BitVec.ofNat 32 (wR 0x3E 3 1 2 0)) = .cissue 4 3 1 2 ∧ decodeFlx 4 (BitVec.ofNat 32 (wR 0x3E 0 1 2 1)) = .cwait 4 1 2 ∧
    decodeFlx 4 (BitVec.ofNat 32 (wR 0x3E 3 1 0 2)) = .cqdepth 4 3 1 ∧ decodeFlx 4 (BitVec.ofNat 32 (0x29 + 5 * 2 ^ 6)) = .jal 4 5 ∧
    decodeFlx 4 (BitVec.ofNat 32 (0x28 + 5 * 2 ^ 6)) = .j 4 5 := by decide +kernel

/-! Results. -/

theorem test_add_wraps : g (runs1 (wR 1 3 1 2 0) (regs (BitVec.allOnes 64) 2)) 4 3 = 1 := by decide +kernel
theorem test_g0_discards : g (runs1 (wR 1 0 1 2 0) (regs 1 2)) 4 0 = 0 ∧ (thread (runs1 (wR 1 0 1 2 0) (regs 1 2)) 4).pc = 4 := by
  decide +kernel
theorem test_div_by_zero : g (runs1 (wR 1 3 1 2 0x14) (regs 5 0)) 4 3 = BitVec.allOnes 64 ∧
    g (runs1 (wR 1 3 1 2 0x16) (regs 5 0)) 4 3 = 5 := by decide +kernel
theorem test_div_truncates : g (runs1 (wR 1 3 1 2 0x14) (regs (BitVec.ofInt 64 (-7)) 2)) 4 3 = BitVec.ofInt 64 (-3) ∧
    g (runs1 (wR 1 3 1 2 0x16) (regs (BitVec.ofInt 64 (-7)) 2)) 4 3 = BitVec.ofInt 64 (-1) := by decide +kernel
theorem test_mulh_signs : g (runs1 (wR 1 3 1 2 0x11) (regs (BitVec.allOnes 64) 1)) 4 3 = BitVec.allOnes 64 ∧
    g (runs1 (wR 1 3 1 2 0x12) (regs (BitVec.allOnes 64) 2)) 4 3 = 1 := by decide +kernel
theorem test_shift_takes_six_bits : g (runs1 (wR 1 3 1 2 5) (regs 1 65)) 4 3 = 2 ∧
    g (runs1 (wR 1 3 1 2 7) (regs (BitVec.ofNat 64 (2 ^ 63)) 63)) 4 3 = BitVec.allOnes 64 := by decide +kernel
theorem test_addw_signs : g (runs1 (wR 1 3 1 2 0x20) (regs 0x7FFFFFFF 1)) 4 3 = 0xFFFFFFFF80000000 := by decide +kernel
theorem test_immediates : g (runs1 (wI 2 3 1 0xFFFF) (regs 1 0)) 4 3 = 0 ∧ g (runs1 (wI 4 3 1 0xFFFF) (regs 0 0)) 4 3 = 0xFFFF ∧
    g (runs1 (wI 9 3 1 0xABCD) (regs 0x1234 0)) 4 3 = 0x1234ABCD ∧
    g (runs1 (wI 8 3 0 0x8000) (regs 0 0)) 4 3 = 0xFFFFFFFF80000000 := by decide +kernel
theorem test_counts : g (runs1 (wR 1 3 1 0 0x30) (regs 0 0)) 4 3 = 64 ∧ g (runs1 (wR 1 3 1 0 0x31) (regs 8 0)) 4 3 = 3 ∧
    g (runs1 (wR 1 3 1 0 0x32) (regs 0xF0F 0)) 4 3 = 8 := by decide +kernel
theorem test_branch_targets : (thread (runs1 (wI 0x20 1 2 0xFFFF) (regs 1 1)) 4).pc = BitVec.ofInt 64 (-4) ∧
    (thread (runs1 (wI 0x22 1 2 3) (regs (BitVec.allOnes 64) 0)) 4).pc = 12 ∧
    (thread (runs1 (wI 0x24 1 2 3) (regs (BitVec.allOnes 64) 0)) 4).pc = 4 := by decide +kernel
theorem test_jalr_reads_before_it_links : (thread (runs1 (wI 0x2A 1 1 3) (regs 0x100 0)) 4).pc = 0x100 ∧
    g (runs1 (wI 0x2A 1 1 3) (regs 0x100 0)) 4 1 = 4 := by decide +kernel

theorem wit_integer : issues (.add 4 3 1 2) 4 [1, 2] [] (code (wR 1 3 1 2 0) (regs 1 2)) ∧
    issues (.addi 4 3 1 9) 4 [1] [] (code (wI 2 3 1 9) (regs 1 2)) ∧ issues (.lui 4 3 9) 4 [] [] (code (wI 8 3 0 9) (regs 1 2)) ∧
    issues (.shi 4 3 1 191) 4 [1] [] (code (wI 7 3 1 191) (regs 1 2)) ∧ (191#16).toNat < 192 ∧
    issues (.clz 4 3 1) 4 [1] [] (code (wR 1 3 1 0 0x30) (regs 1 2)) ∧ issues (.ctz 4 3 1) 4 [1] [] (code (wR 1 3 1 0 0x31) (regs 1 2)) ∧
    issues (.popc 4 3 1) 4 [1] [] (code (wR 1 3 1 0 0x32) (regs 1 2)) := by decide +kernel
theorem wit_branches : issues (.beq 4 1 2 3) 4 [1, 2] [] (code (wI 0x20 1 2 3) (regs 1 2)) ∧
    issues (.j 4 5) 4 [] [] (code (0x28 + 5 * 2 ^ 6) (regs 1 2)) ∧ issues (.jal 4 5) 4 [] [] (code (0x29 + 5 * 2 ^ 6) (regs 1 2)) ∧
    issues (.jalr 4 3 1 8) 4 [1] [] (code (wI 0x2A 3 1 8) (regs 1 2)) := by decide +kernel

/-- 1.0 and 3.0 in binary64; 1/3 rounded to nearest even. -/
theorem test_fadd_fdiv : g (runs1 (wR 0x30 3 1 2 0) (regs 0x3FF0000000000000 0x4008000000000000)) 4 3 = 0x4010000000000000 ∧
    g (runs1 (wR 0x30 3 1 2 3) (regs 0x3FF0000000000000 0x4008000000000000)) 4 3 = 0x3FD5555555555555 := by decide +kernel
theorem test_fdiv_by_zero : g (runs1 (wR 0x30 3 1 2 0x13) (regs 0xBF800000 0)) 4 3 = 0xFF800000 ∧
    (thread (runs1 (wR 0x30 3 1 2 0x13) (regs 0xBF800000 0)) 4).fstat = flagSaturated := by decide +kernel
theorem test_fsqrt_negative : (thread (runs1 (wR 0x30 3 1 0 4) (regs 0xBFF0000000000000 0)) 4).fstat = flagInvalid := by
  decide +kernel
theorem test_fcvt_ld : g (runs1 (wR 0x30 3 1 0 0x22) (regs 0xC3E0000000000000 0)) 4 3 = 0x8000000000000000 ∧
    (thread (runs1 (wR 0x30 3 1 0 0x22) (regs 0xC3E0000000000000 0)) 4).fstat = 0 ∧
    g (runs1 (wR 0x30 3 1 0 0x22) (regs 0x43E0000000000000 0)) 4 3 = 0x7FFFFFFFFFFFFFFF ∧
    g (runs1 (wR 0x30 3 1 0 0x22) (regs 0x4004000000000000 0)) 4 3 = 2 := by decide +kernel

theorem wit_scalar_fp : issues (.fadd 4 .d 3 1 2) 4 [1, 2] [] (code (wR 0x30 3 1 2 0) (regs 1 2)) ∧
    issues (.fdiv 4 .s 3 1 2) 4 [1, 2] [] (code (wR 0x30 3 1 2 0x13) (regs 1 2)) ∧
    issues (.fmadd 4 .d 3 1 2) 4 [3, 1, 2] [] (code (wR 0x30 3 1 2 7) (regs 1 2)) ∧
    issues (.fsqrt 4 .d 3 1) 4 [1] [] (code (wR 0x30 3 1 0 4) (regs 1 2)) ∧
    isFinite (fpRead .s (g (regs 0xBF800000 0) 4 1)) = true ∧ isZero (fpRead .s (g (regs 0xBF800000 0) 4 1)) = false ∧
    isZero (fpRead .s (g (regs 0xBF800000 0) 4 2)) = true := by decide +kernel
theorem wit_scalar_comparisons : issues (.fmin 4 .d 3 1 2) 4 [1, 2] [] (code (wR 0x30 3 1 2 5) (regs 1 2)) ∧
    issues (.fmax 4 .s 3 1 2) 4 [1, 2] [] (code (wR 0x30 3 1 2 0x16) (regs 1 2)) ∧
    issues (.feqD 4 3 1 2) 4 [1, 2] [] (code (wR 0x30 3 1 2 0x28) (regs 1 2)) ∧
    issues (.fltD 4 3 1 2) 4 [1, 2] [] (code (wR 0x30 3 1 2 0x29) (regs 1 2)) ∧
    issues (.fleD 4 3 1 2) 4 [1, 2] [] (code (wR 0x30 3 1 2 0x2A) (regs 1 2)) ∧
    issues (.fcvtSD 4 3 1) 4 [1] [] (code (wR 0x30 3 1 0 0x20) (regs 1 2)) ∧ issues (.fcvtDS 4 3 1) 4 [1] [] (code (wR 0x30 3 1 0 0x21) (regs 1 2)) ∧
    issues (.fcvtLD 4 3 1) 4 [1] [] (code (wR 0x30 3 1 0 0x22) (regs 1 2)) ∧ issues (.fcvtDL 4 3 1) 4 [1] [] (code (wR 0x30 3 1 0 0x23) (regs 1 2)) ∧
    issues (.fcvtBfS 4 3 1) 4 [1] [] (code (wR 0x30 3 1 0 0x24) (regs 1 2)) := by decide +kernel

theorem test_vadd_wraps_each_element : elem 8 (v (runs1 (wV 3 1 2 0 0) (vregs 0x01FF 0x0101)) 4 3) 0 = 0 ∧
    elem 8 (v (runs1 (wV 3 1 2 0 0) (vregs 0x01FF 0x0101)) 4 3) 1 = 2 := by decide +kernel
theorem test_vceq_sets_all_ones : elem 16 (v (runs1 (wV 3 1 2 1 0x10) (vregs 5 5)) 4 3) 0 = 0xFFFF := by decide +kernel
theorem test_vredadd : elem 32 (v (runs1 (wV 3 1 2 2 0x18) (vregs 0x00000003000000020000000100000004 0)) 4 3) 0 = 10 := by decide +kernel

theorem wit_simd : (vop 6).et.toNat ≠ 7 ∧ 4 ≤ (vop 6).et.toNat ∧ (vop 3).et.toNat < 4 ∧
    issues (.vadd (vop 6)) 4 (secondG (vop 6)) (secondV (vop 6)) (code (wV 3 1 2 6 0) (vregs 1 2)) ∧
    issues (.vand (vop 3)) 4 (secondG (vop 3)) (secondV (vop 3)) (code (wV 3 1 2 3 8) (vregs 1 2)) ∧
    issues (.vclt (vop 6)) 4 (secondG (vop 6)) (secondV (vop 6)) (code (wV 3 1 2 6 0x11) (vregs 1 2)) ∧
    issues (.vdiv (vop 6)) 4 (secondG (vop 6)) (secondV (vop 6)) (code (wV 3 1 2 6 6) (vregs 1 2)) ∧
    issues (.vsqrt (vop 6)) 4 [] [1] (code (wV 3 1 2 6 7) (vregs 1 2)) ∧
    issues (.vfma (vop 6)) 4 (secondG (vop 6)) (3 :: secondV (vop 6)) (code (wV 3 1 2 6 3) (vregs 1 2)) ∧
    issues (.vsel (vop 6)) 4 (secondG (vop 6)) (3 :: secondV (vop 6)) (code (wV 3 1 2 6 0x13) (vregs 1 2)) := by decide +kernel
theorem wit_simd_moves : issues (.vperm (vop 6)) 4 (secondG (vop 6)) (secondV (vop 6)) (code (wV 3 1 2 6 0x28) (vregs 1 2)) ∧
    issues (.vbcast (vop 6)) 4 [1] [] (code (wV 3 1 2 6 0x30) (vregs 1 2)) ∧ issues (.vext (vop 6)) 4 [2] [1] (code (wV 3 1 2 6 0x31) (vregs 1 2)) ∧
    issues (.vredadd (vop 3)) 4 [] [1] (code (wV 3 1 2 3 0x18) (vregs 1 2)) ∧ issues (.vredmax (vop 3)) 4 [] [1] (code (wV 3 1 2 3 0x19) (vregs 1 2)) ∧
    issues (.vredadd (vop 6)) 4 [] [1] (code (wV 3 1 2 6 0x18) (vregs 1 2)) ∧ issues (.vredmax (vop 6)) 4 [] [1] (code (wV 3 1 2 6 0x19) (vregs 1 2)) ∧
    issues (.vcvt (vop 6)) 4 [] [1] (code (wV 3 1 2 6 0x20) (vregs 1 2)) ∧ (vop 6).vb.val % 8 ≠ 7 := by decide +kernel
theorem wit_pack : (g (regs 0 0) 4 2).toNat % 256 = 0 ∧ (g (regs 0 0xFF) 4 2).toNat % 256 = 255 ∧
    (g (regs 0 1) 4 2).toNat % 256 ≠ 0 ∧ (g (regs 0 254) 4 2).toNat % 256 ≠ 255 ∧
    issues (.vpack8e (vop 6)) 4 [2] [1] (code (wV 3 1 2 6 0x21) (regs 0 1)) ∧ issues (.vpack8g (vop 6)) 4 [2] [1] (code (wV 3 1 2 6 0x22) (regs 0 1)) ∧
    issues (.vpack8gs (vop 6)) 4 [2] [1] (code (wV 3 1 2 6 0x23) (regs 0 1)) ∧
    issues (.vunpack8e (vop 6)) 4 [2] [1] (code (wV 3 1 2 6 0x24) (regs 0 1)) ∧
    issues (.vunpack8g (vop 6)) 4 [2] [1] (code (wV 3 1 2 6 0x25) (regs 0 1)) := by decide +kernel
theorem wit_illegal : (vop 7).et.toNat = 7 ∧ atInstr (.vadd (vop 7)) 4 (code (wV 3 1 2 7 0) (regs 0 0)) = true ∧
    (vop 3).et.toNat < 4 ∧ atInstr (.vdiv (vop 3)) 4 (code (wV 3 1 2 3 6) (regs 0 0)) = true ∧
    192 ≤ (192#16).toNat ∧ atInstr (.shi 4 3 1 192) 4 (code (wI 7 3 1 192) (regs 0 0)) = true ∧
    32 ≤ (32#12).toNat ∧ atInstr (.fence 4 32) 4 (code (wS 0 0 32 2) (regs 0 0)) = true ∧
    atInstr (.ill 4 .reserved) 4 (code 0x3F (regs 0 0)) = true ∧ atInstr (.ill 4 .zeroWord) 4 (code 0 (regs 0 0)) = true ∧
    atInstr (.ill 4 .fetchDenied) 4 (regs 0 0) = true ∧ (thread (regs 0 0) 4).fw = false ∧ (thread (fwThread {}) 4).fw = true ∧
    flag (regs 0 0) (F.tugFaultValid (dieOfThread 4)) = false ∧
    flag (fput (regs 0 0) (F.tugFaultValid 0) 1) (F.tugFaultValid (dieOfThread 4)) = true := by decide +kernel

/-! ### Memory accesses, state registers, fences, waits and threads -/

/-- A firmware thread with g1 = a and g2 = b. -/
def fregs (a b : Word) : State := fwThread { g := [(1, a), (2, b)] }
/-- The same with bytes in Berth 0. -/
def withBytes (s : State) : State := { s with mem := [(0x1000, 0xFE), (0x1001, 0xFF)] }

theorem test_load_returns : g (after (.loadDataReturn 1 0 []) (runs1 (wI 0x13 3 1 0) (withBytes (fregs 0x1000 0)))) 4 3 =
    BitVec.ofInt 64 (-2) ∧ g (after (.loadDataReturn 1 0 []) (runs1 (wI 0x14 3 1 0) (withBytes (fregs 0x1000 0)))) 4 3 = 0xFFFE := by
  decide +kernel
theorem test_store_keeps_its_neighbours :
    readNat (after (.storePerformed 1 0) (runs1 (wI 0x1B 2 1 0) (withBytes (fregs 0x1000 0x1234)))) 0x1000 2 = 0xFF34 := by decide +kernel
/-- amoadd.w. -/
def amoAdded : State := after (.loadDataReturn 1 0 []) (runs1 (wR 0x1C 3 1 2 (1 + 2 * 16)) (withBytes (fregs 0x1000 2)))
theorem test_amoadd : g amoAdded 4 3 = 0xFFFE ∧ readNat amoAdded 0x1000 4 = 0x10000 := by decide +kernel
theorem test_misaligned_load_reads_zero : g (runs1 (wI 0x11 3 1 1) (withBytes (fregs 0x1000 0))) 4 3 = 0 := by decide +kernel

def acc0 : Access := ⟨4, .load 8 true, 0x1000, 3, 0, 0⟩
/-- The core holds one access. -/
def holds (a : Access) (s : State) : State := setCore s 1 { slots := [(0, a)] }
/-- The data cache holds the line of 0x1000. -/
def cachedAt : State := setCore (fregs 0x1000 2) 1 { dcache := [(0x20, 7)] }
theorem wit_loads : issues (.ld 4 3 1 0) 4 [1] [] (code (wI 0x10 3 1 0) (fregs 0x1000 2)) ∧
    issues (.vld 4 3 1 0) 4 [1] [] (code (wI 0x39 3 1 0) (fregs 0x1000 2)) ∧ acquirePending (code 1 (fregs 0x1000 2)) 4 = false ∧
    verdict (code 1 (fregs 0x1000 2)) 4 (.load 8 true) 0x1000 = .perform ∧ verdict (code 1 (fregs 0x1000 2)) 4 .vload 0x1000 = .perform ∧
    (Machine.core (code 1 (fregs 0x1000 2)) 1).dcache = [] ∧ admits (code 1 (fregs 0x1000 2)) 4 0x1000 = true ∧
    issues (.ld 4 3 1 0) 4 [1] [] (code (wI 0x10 3 1 0) cachedAt) ∧
    (Machine.core (code 1 cachedAt) 1).dcache.find? (fun q => decide (q.1 = 0x1000 / 128)) = some (0x1000 / 128, 7) ∧
    verdict (code 1 cachedAt) 4 (.load 8 true) 0x1000 = .perform := by decide +kernel
theorem wit_load_returns : slotAccess (holds acc0 (regs 0 0)) 1 0 = some acc0 ∧ isLoadLike acc0.kind = true ∧ isAtomic acc0.kind = false ∧
    acc0.t / 4 = 1 ∧ acc0.addr % accBytes acc0.kind = 0 ∧
    inTurn 0 (Machine.core (holds acc0 (regs 0 0)) 1).slots acc0 = true ∧ meetErrors (holds acc0 (regs 0 0)) [] = holds acc0 (regs 0 0) ∧
    windowOf acc0.addr ≠ .control ∧ poisonedRange (holds acc0 (regs 0 0)) acc0.addr 8 = false ∧
    windowOf 0x40100000 = .control ∧ isCxlBlock (0x40100000 - ctlBase) = false := by decide +kernel
theorem wit_stores : issues (.sd 4 2 1 0) 4 [2, 1] [] (code (wI 0x18 2 1 0) (fregs 0x1000 2)) ∧
    issues (.vst 4 3 1 0) 4 [1] [3] (code (wI 0x3A 3 1 0) (fregs 0x1000 2)) ∧
    verdict (code 1 (fregs 0x1000 2)) 4 (.store 8) 0x1000 = .perform ∧ verdict (code 1 (fregs 0x1000 2)) 4 .vstore 0x1000 = .perform ∧
    slotAccess (holds { acc0 with kind := .store 8 } (regs 0 0)) 1 0 = some { acc0 with kind := .store 8 } ∧
    inTurn 0 (Machine.core (holds { acc0 with kind := .store 8 } (regs 0 0)) 1).slots { acc0 with kind := .store 8 } = true ∧
    storeHeld (holds acc0 (regs 0 0)) { acc0 with kind := .store 8, addr := 0x40100008 } = false := by decide +kernel
theorem wit_atomics : issues (.amoadd 4 3 1 2 .d true true) 4 [1, 2] [] (code (wR 0x1C 3 1 2 (1 + 48 + 64 + 128)) (fregs 0x1000 2)) ∧
    issues (.amocas 4 3 1 2 .d true false) 4 [3, 1, 2] [] (code (wR 0x1C 3 1 2 (8 + 48 + 64)) (fregs 0x1000 2)) ∧
    storesDone (code 1 (fregs 0x1000 2)) 4 = true ∧ wordsArrived (code 1 (fregs 0x1000 2)) 4 = true ∧
    (storesDone (holds { acc0 with kind := .store 8 } (fregs 0x1000 2)) 4 && wordsArrived (fregs 0x1000 2) 4) = false ∧
    slotAccess (holds { acc0 with kind := .amo .add .d true } (fregs 0 0)) 1 0 = some { acc0 with kind := .amo .add .d true } ∧
    inTurn 0 (Machine.core (holds { acc0 with kind := .amo .add .d true } (fregs 0 0)) 1).slots { acc0 with kind := .amo .add .d true } =
      true ∧
    verdict (code 1 (fregs 0x1000 2)) 4 (.amo .add .d true) 0x1000 = .perform ∧
    acquirePending (running { acq := true }) 4 = true ∧
    issues (.ld 4 3 1 0) 4 [1] [] (code (wI 0x10 3 1 0) (running { acq := true, g := [(1, 0x1000)] })) := by decide +kernel
theorem wit_denied : 0x1001 % accBytes (.load 2 true) ≠ 0 ∧ 0x1000 % accBytes (.load 8 true) = 0 ∧ windowOf 0x1000 ≠ .control ∧
    (thread (regs 0x1000 0) 4).fw = false ∧
    (populatedRange (regs 0x1000 0) 0x1000 8 && regionOk (regs 0x1000 0) 0 (needOf (.load 8 true)) 0x1000 8) = false ∧
    windowOf 0x40000000 = .control ∧ isAtomic (.amo .add .d false) = true ∧ (thread (fregs 0 0) 4).fw = true ∧
    ctlTouches (regs 0 0) (.store 8) 0x40000000 = false ∧
    populatedRange (fregs 0 0) 0x80000000 8 = false ∧ windowOf 0x80000000 ≠ .control := by decide +kernel
theorem wit_denied_accesses : issues (.ld 4 3 1 0) 4 [1] [] (code (wI 0x10 3 1 0) (regs 0x1001 0)) ∧
    issues (.sd 4 2 1 0) 4 [2, 1] [] (code (wI 0x18 2 1 0) (regs 0x1001 0)) ∧
    issues (.vld 4 3 1 0) 4 [1] [] (code (wI 0x39 3 1 0) (regs 0x1001 0)) ∧ issues (.vst 4 3 1 0) 4 [1] [3] (code (wI 0x3A 3 1 0) (regs 0x1001 0)) ∧
    issues (.amoadd 4 3 1 2 .d false false) 4 [1, 2] [] (code (wR 0x1C 3 1 2 (1 + 48)) (regs 0x1001 2)) ∧
    verdict (code 1 (regs 0x1001 0)) 4 (.load 8 true) 0x1001 = .violation 7 ∧ verdict (code 1 (regs 0x1001 0)) 4 (.store 8) 0x1001 ≠ .perform ∧
    verdict (code 1 (regs 0x1001 0)) 4 .vload 0x1001 ≠ .perform ∧ verdict (code 1 (regs 0x1001 0)) 4 (.amo .add .d false) 0x1001 ≠ .perform ∧
    verdict (code 1 (fregs 0x80000000 0)) 4 (.load 8 true) 0x80000000 = .noWindow ∧
    flag (regs 0x1000 0) (F.tugViolCountDiag (4 / 256)) = false ∧
    flag (fput (regs 0x1000 0) (F.tugViolCountDiag 0) 1) (F.tugViolCountDiag (4 / 256)) = true := by decide +kernel

/-- Every slot of Tug 1 is taken. -/
def fullSlots : State := setCore (fregs 0x1000 0) 1 { slots := (List.range 48).map (fun k => (k, acc0)) }
def heldBack : State := fwThread { held := some acc0 }
theorem wit_slots : admits fullSlots acc0.t acc0.addr = false ∧ (thread heldBack 4).held = some acc0 ∧ acc0.t = 4 ∧
    admits heldBack 4 acc0.addr = true := by decide +kernel
theorem wit_fetch : mayIssue (fregs 0 0) 4 = true ∧ fetchWord (fregs 0 0) 4 = .miss ∧ poisonedRange (fregs 0 0) 0 128 = false ∧
    ((Machine.core (fregs 0 0) 1).icache.map (·.1)).Nodup ∧ windowOf (thread (running { pc := 0x40000000 }) 4).pc.toNat = .control ∧
    windowOf (thread (regs 0 0) 4).pc.toNat ≠ .control ∧ (thread (regs 0 0) 4).fw = false ∧ regionOk (regs 0 0) (4 / 256) .exec 0 4 = false := by
  decide +kernel

theorem test_rdsr_thread_and_tide : g (runs1 (wS 3 0 0 0) (regs 0 0)) 4 3 = 4 ∧ g (runs1 (wS 3 0 0x10 0) (at_ns 77 (regs 0 0))) 4 3 = 77 ∧
    g (runs1 (wS 3 0 0x100 0) (regs 0 0)) 4 3 = 0 := by decide +kernel
theorem wit_state_registers : issues (.rdsr 4 3 0x20) 4 [] [] (code (wS 3 0 0x20 0) (regs 1 0)) ∧
    issues (.rdsr 4 3 0x10F) 4 [] [] (code (wS 3 0 0x10F 0) (fregs 1 0)) ∧ issues (.rdsr 4 3 0x110) 4 [] [] (code (wS 3 0 0x110 0) (fregs 1 0)) ∧
    (thread (fregs 1 0) 4).fw = true ∧ 0x100 ≤ (0x100#12).toNat ∧ (0x10F#12).toNat < 0x110 ∧ (thread (regs 1 0) 4).fw = false ∧
    issues (.rdsr 4 3 0x100) 4 [] [] (code (wS 3 0 0x100 0) (regs 1 0)) ∧ (0x100#12).toNat ∉ [0, 1, 2, 3, 0x10, 0x11, 0x12, 0x20] ∧
    issues (.wrsr 4 1 4) 4 [1] [] (code (wS 0 1 4 1) (regs 1 0)) ∧ (4#12).toNat ∉ [2, 3] ∧
    issues (.wrsr 4 1 2) 4 [1] [] (code (wS 0 1 2 1) (regs 1 0)) ∧ issues (.wrsr 4 1 3) 4 [1] [] (code (wS 0 1 3 1) (regs 1 0)) ∧
    issues (.wrsr 4 1 0x100) 4 [1] [] (code (wS 0 1 0x100 1) (fregs 1 0)) := by decide +kernel
def storing : State := holds { acc0 with kind := .store 8 } (regs 0 0)
def loading : State := holds acc0 (regs 0 0)
theorem wit_fence : (31#12).toNat < 32 ∧ atInstr (.fence 4 31) 4 (code (wS 0 0 31 2) (regs 0 0)) = true ∧ loadsDone (code 1 (regs 0 0)) 4 = true ∧
    storesDone (code 1 (regs 0 0)) 4 = true ∧ wordsArrived (code 1 (regs 0 0)) 4 = true ∧ outstanding (code 1 (regs 0 0)) 4 = [] ∧
    atInstr (.fence 4 1) 4 (code (wS 0 0 1 2) loading) = true ∧ loadsDone (code 1 loading) 4 = false ∧
    atInstr (.fence 4 4) 4 (code (wS 0 0 4 2) storing) = true ∧ storesDone (code 1 storing) 4 = false ∧ outstanding (code 1 storing) 4 ≠ [] := by
  decide +kernel

/-- Thread 5 is READY beside thread 4. -/
def twoThreads : State := setThread (regs 0 0) 5 { st := .ready }
theorem test_yield_hands_the_core_on : (thread (runs1 (wS 0 0 0 5) twoThreads) 4).st = .ready ∧
    (thread (runs1 (wS 0 0 0 5) twoThreads) 5).st = .run := by decide +kernel
/-- g1 waits for Warehouse data, or for data of a Berth. -/
def waitsFor (a : Nat) : State := setCore (running { pendG := [1] }) 1 { slots := [(0, { acc0 with addr := a, rd := 1 })] }
theorem wit_core : TState.wait ≠ .ready ∧ issues (.yield 4) 4 [] [] (code (wS 0 0 0 5) twoThreads) ∧ othersReady twoThreads 4 = true ∧
    othersReady (regs 0 0) 4 = false ∧ issues (.halt 4) 4 [] [] (code (wS 0 0 0 6) twoThreads) ∧ (thread twoThreads 4).st = .run ∧
    atInstr (.add 4 3 1 2) 4 (code (wR 1 3 1 2 0) (waitsFor whseBase)) = true ∧
    (thread (waitsFor whseBase) 4).pendG.contains 1 = true ∧ onWarehouse (code 1 (waitsFor whseBase)) 4 false 1 = true ∧
    atInstr (.addi 4 3 1 2) 4 (code (wI 2 3 1 2) (waitsFor 0x1000)) = true ∧
    onWarehouse (code 1 (waitsFor 0x1000)) 4 false 1 = false := by decide +kernel
/-- Thread 4 waits on an instant, or on a slot. -/
def waiting (w : WaitOn) : State := at_ns 64 (setThread State.reset 4 { st := .wait, waitOn := some w })
def onBoundary (w : WaitOn) : State := setTide (waiting w) { (waiting w).tide with lastBoundary := some 64 }
theorem wit_waits : (g (at_ns 64 (regs 64 0)) 4 1).toNat ≤ (at_ns 64 (regs 64 0)).tide.now ∧
    (at_ns 64 (regs 65 0)).tide.now < (g (at_ns 64 (regs 65 0)) 4 1).toNat ∧
    issues (.tidewait 4 1) 4 [1] [] (code (wS 0 1 0 3) (at_ns 64 (regs 64 0))) ∧
    issues (.slotwait 4 1) 4 [1] [] (code (wS 0 1 0 4) (at_ns 64 (regs 64 0))) ∧
    (thread (waiting (.tide 63)) 4).waitOn = some (.tide 63) ∧ (63#64).toNat + 1 ≤ (waiting (.tide 63)).tide.now ∧
    (waiting (.tide 64)).tide.now ≤ (64#64).toNat ∧
    (thread (onBoundary (.slot 0 none)) 4).waitOn = some (.slot 0 none) ∧
    fget (onBoundary (.slot 0 none)) F.tideSchedSlot = (0#32).toNat ∧
    (onBoundary (.slot 0 none)).tide.lastBoundary.isSome = true ∧ (onBoundary (.slot 0 none)).tide.lastBoundary ≠ none := by
  decide +kernel

theorem test_tstart_clears_low_bits : (thread (runs1 (wS 0 1 2 8) (fregs 9 0x103)) 9).pc = 0x100 ∧
    (thread (runs1 (wS 0 1 2 8) (fregs 9 0x103)) 9).fw = false := by decide +kernel
theorem wit_threads : issues (.tstart 4 1 2) 4 [1, 2] [] (code (wS 0 1 2 8) (fregs 9 0)) ∧
    issues (.tstop 4 1) 4 [1] [] (code (wS 0 1 0 9) (fregs 9 0)) ∧ (thread (fregs 9 0) 4).fw = true ∧
    (9 : Tid).val = (g (fregs 9 0) 4 1).toNat % 512 ∧ (9 : Tid) ≠ 4 ∧ (thread (regs 9 0) 4).fw = false ∧
    issues (.tstart 4 1 2) 4 [1, 2] [] (code (wS 0 1 2 8) (regs 9 0)) ∧ issues (.tstop 4 1) 4 [1] [] (code (wS 0 1 0 9) (regs 9 0)) := by
  decide +kernel

/-- Thread 4 is bound to Crane 0. -/
def bound (a b : Word) : State := fput (fput (regs a b) (F.tugCqBindEn 0 0) 1) (F.tugCqBindThread 0 0) 4
def fullQueue : State := setCrane (bound 0 0) 0 { fgq := (List.range 64).map (fun i => (BitVec.ofNat 32 i, 0)) }
theorem test_cissue_numbers_words : g (runs1 (wR 0x3E 3 1 2 0) (setCrane (bound 0 7) 0 { fgSeq := 5 })) 4 3 = 5 ∧
    (crane (runs1 (wR 0x3E 3 1 2 0) (setCrane (bound 0 7) 0 { fgSeq := 5 })) 0).flight = [(5, 7)] := by decide +kernel
theorem wit_cissue : issues (.cissue 4 3 1 2) 4 [1, 2] [] (code (wR 0x3E 3 1 2 0) (bound 0 7)) ∧ acquirePending (bound 0 7) 4 = false ∧
    0 = (g (bound 0 7) 4 1).toNat % 16 ∧ boundTo (bound 0 7) 4 0 = true ∧ 0 < fgFree (bound 0 7) 0 ∧
    boundTo fullQueue 4 0 = true ∧ fgFree fullQueue 0 = 0 ∧ issues (.cissue 4 3 1 2) 4 [1, 2] [] (code (wR 0x3E 3 1 2 0) fullQueue) ∧
    boundTo (regs 0 7) 4 0 = false ∧ issues (.cissue 4 3 1 2) 4 [1, 2] [] (code (wR 0x3E 3 1 2 0) (regs 0 7)) ∧
    issues (.cqdepth 4 3 1) 4 [1] [] (code (wR 0x3E 3 1 0 2) (regs 0 7)) ∧
    (thread (waiting (.queue 0 7 3)) 4).waitOn = some (.queue 0 7 3) ∧ 0 < fgFree (waiting (.queue 0 7 3)) 0 := by decide +kernel
theorem wit_cwait : issues (.cwait 4 1 2) 4 [1, 2] [] (code (wR 0x3E 0 1 2 1) (regs 0 0xFFFFFFFF)) ∧
    (g (regs 0 0xFFFFFFFF) 4 2).setWidth 32 = (0xFFFFFFFF : BitVec 32) ∧
    (BitVec.ofNat 32 (fget (regs 0 0) (F.craneStatusFgRetired 0)) - 0xFFFFFFFF#32).toNat < 2 ^ 31 ∧
    2 ^ 31 ≤ (BitVec.ofNat 32 (fget (regs 0 0) (F.craneStatusFgRetired 0)) - 0#32).toNat ∧
    (thread (waiting (.crane 0 0xFFFFFFFF)) 4).waitOn = some (.crane 0 0xFFFFFFFF) := by decide +kernel

/-! ### The Tide, schedule time, holds and staged settings -/

/-- The Lighthouse with a valid reference, in a lock state; a follower whose candidates are ports 2 and 3. -/
def lighthouse (lock : Nat) : State :=
  put tided [(F.tideStateRole, 1), (F.tideStateRef10mhzOk, 1), (F.tideStateRefPpsOk, 1), (F.tideStateLockState, lock)]
def follower (lock parent : Nat) : State :=
  setPort (setPort (put tided [(F.quayParentCand0, 2), (F.quayParentCand1, 3), (F.quayParentCand2, 63), (F.quayParentCand3, 63),
    (F.quayPortStateState 2, 3), (F.quayPortStateState 3, 3), (F.tideStateLockState, lock), (F.tideStateParentPort, parent)])
    2 { farHops := 1 }) 3 { farHops := 31 }
def steering (ok : Nat) (s : State) : State := setTide s { s.tide with okRun := ok }

theorem test_acquire_loads : (after (.acquireEntry 2 500 4) (follower 0 63)).tide.now = 500 ∧
    fget (after (.acquireEntry 2 500 4) (follower 0 63)) F.tideStateHops = 5 ∧
    (after (.acquireEntry 2 500 33) (follower 0 63)).tide.now = 65536 := by decide
theorem test_steering_locks : lockState (after (.steerUpdate (-100)) (steering 63 (follower 1 2))) = 2 ∧
    lockState (after (.steerUpdate 101) (steering 63 (follower 1 2))) = 1 ∧
    lockState (after (.steerUpdate 251) (follower 2 2)) = 3 := by decide +kernel
theorem test_parent_moves : parentPort (after (.parentLinkFail 2) (follower 2 2)) = 3 ∧
    fget (after (.parentLinkFail 2) (follower 2 2)) F.tideStateHops = 32 := by decide

theorem wit_acquire : (lighthouse 0).tide.running = true ∧ lockState (lighthouse 0) = 0 ∧ (lighthouse 0).tide.everLocked = false ∧
    role (lighthouse 0) = 1 ∧ flag (lighthouse 0) F.tideStateRef10mhzOk = true ∧ flag (lighthouse 0) F.tideStateRefPpsOk = true ∧
    lockState (follower 0 63) = 0 ∧ role (follower 0 63) ≠ 1 ∧
    (candidates (follower 0 63)).find? (inService (follower 0 63)) = some 2 ∧ 31 + 1 ≤ 32 := by decide
theorem wit_steer : (follower 1 2).tide.running = true ∧ (follower 1 2).tide.now % 65536 = 0 ∧ (follower 1 2).tide.lastSteer ≠ some (follower 1 2).tide.now ∧
    lockState (follower 1 2) = 1 ∧ lockState (follower 2 2) = 2 ∧ lockState (follower 3 2) = 3 ∧ role (follower 3 2) ≠ 1 ∧
    parentPort (follower 3 2) < 32 ∧ (100 : Int).natAbs ≤ 250 ∧ 250 < (-251 : Int).natAbs ∧
    (if (100 : Int).natAbs ≤ 100 then (steering 63 (follower 1 2)).tide.okRun + 1 else 0) = 64 ∧
    (if (100 : Int).natAbs ≤ 100 then (steering 7 (follower 3 2)).tide.okRun + 1 else 0) = 8 ∧
    (if (101 : Int).natAbs ≤ 100 then (steering 7 (follower 3 2)).tide.okRun + 1 else 0) ≠ 8 := by decide
/-- A follower whose only usable candidate is its parent, port 3. -/
def lastParent (lock : Nat) : State := fput (follower lock 3) (F.quayPortStateState 2) 4
theorem wit_parent : (follower 2 2).tide.running = true ∧ role (follower 1 2) ≠ 1 ∧ parentPort (follower 2 2) = 2 ∧ parentPort (follower 1 2) = 2 ∧ nextParent (follower 2 2) 2 = some 3 ∧ nextParent (follower 1 2) 2 = some 3 ∧
    parentPort (lastParent 1) = 3 ∧ nextParent (lastParent 1) 3 = none ∧ lockState (lastParent 1) = 1 ∧
    nextParent (lastParent 2) 3 = none ∧ lockState (lastParent 2) = 2 ∧ role (lastParent 2) ≠ 1 := by decide
def standby : State := fput (lighthouse 2) F.tideStateRole 2
def handing (s : State) : State := setTide s { s.tide with handoverAt := some 65536 }
def lossOf (s : State) : State := setTide s { s.tide with holdoverAt := 0, now := 2000000 }
theorem wit_lighthouse : role (lighthouse 2) = 1 ∧ lockState (lighthouse 2) = 2 ∧ role (lighthouse 1) = 1 ∧ lockState (lighthouse 1) = 1 ∧
    (lighthouse 1).tide.handoverAt = none ∧ standby.tide.running = true ∧ (lossOf (follower 3 2)).tide.running = true ∧
    lockState (handing (lighthouse 2)) ≠ 0 ∧ nextParent (handing (lighthouse 2)) 0x3F = none ∧ lockState (handing (lighthouse 0)) = 0 ∧
    nextParent (handing (fput (follower 2 2) F.tideStateRole 1)) 0x3F = some 2 ∧ (lighthouse 2).tide.handoverAt = none ∧
    role standby = 2 ∧ referenceOk standby = true ∧ standby.tide.handoverAt = none ∧
    standby.tide.lastLhCell + 65536 ≤ standby.tide.now ∧ (handing standby).tide.handoverAt = some (handing standby).tide.now ∧
    role (handing standby) = 2 ∧ referenceOk (handing standby) = true ∧ role (handing (lighthouse 2)) = 1 ∧
    (handing (lighthouse 2)).tide.running = true ∧ role (lighthouse 3) = 1 ∧ lockState (lighthouse 3) = 3 ∧
    role (lossOf (follower 3 2)) ≠ 1 ∧ lockState (lossOf (follower 3 2)) = 3 ∧ (lossOf (follower 3 2)).tide.lossReported = false ∧
    (lossOf (follower 3 2)).tide.holdoverAt + 2000000 ≤ (lossOf (follower 3 2)).tide.now := by decide
theorem test_handover_boundary : (after (.referenceLoss .onePps true) (lighthouse 2)).tide.handoverAt = some 98304 := by decide
/-- The standby loses no reference of its own; a Lighthouse in ACQUIRE hands over and falls back to FREE. -/
theorem test_acquire_hands_over : (after (.referenceLoss .onePps true) (lighthouse 1)).tide.handoverAt = some 98304 ∧
    lockState (after (.referenceLoss .onePps true) (lighthouse 1)) = 0 := by decide
/-- A TIME cell on the wire. -/
def timeWire (c : TimeCell) : List Byte := wireOf (mkCell 2 (timePayload c))
def time1 : TimeCell := ⟨2000, 0, 0, 2, 0, 5, 1000, 0, 4, 1400, 0⟩
theorem wit_time_cells : (follower 2 2).tide.now % 4096 = 0 ∧ inService (follower 2 2) 2 = true ∧ (follower 2 2).tide.running = true ∧
    (port (follower 2 2) 2).retraining = false ∧ (port (follower 2 2) 2).timeAt ≠ some (follower 2 2).tide.now ∧
    (follower 2 2).tide.now < 2 ^ 64 ∧ (cellIn (timeWire time1) false).typ = 2 ∧ cellInError (cellIn (timeWire time1) false) = false ∧
    readTime (cellIn (timeWire time1) false).payload = time1 ∧ cellInError (cellIn (timeWire time1) true) = true ∧
    (cellIn (timeWire time1) true).typ = 2 ∧ time1.echoTseq ≠ 0xFFFF ∧ parentPort (follower 2 2) = 2 := by decide +kernel
/-- t1 = 1,000 ns, t2 = 1,400 ns, t3 = 2,000 ns, t4 = 2,100 ns: delay 250 ns, offset 150 ns. -/
def timeTaken : State := after (.timeCellReceive 2 (timeWire time1) false 0) (setTide (follower 2 2) { (follower 2 2).tide with now := 2100 })
theorem test_time_cell : (port timeTaken 2).delayPs = 250000 ∧ (port timeTaken 2).offsetPs = 150000 := by decide +kernel

def entry (kind res start len stream : Nat) : Entry := ⟨start, len, kind, res, stream, 0, false, false, false, false⟩
def epoch0 : Epoch := ⟨4, 1, 0, [entry 6 0 1 1 0x0100, entry 1 2 1 1 0x40]⟩
def scheduled : State := setTide tided { tided.tide with epoch := some epoch0 }
def dueAt (e : Entry) (late : Bool) : State := setTide scheduled { scheduled.tide with due := [⟨e, late⟩] }
theorem test_slot_advances : fget (after .slotBoundary scheduled) F.tideSchedSlot = 1 ∧
    (after .slotBoundary scheduled).tide.due.map (·.entry) = epoch0.entries ∧
    fget (after .slotBoundary (fput scheduled F.tideSchedSlot 3)) F.tideSchedSlot = 0 := by decide
theorem wit_slot : scheduled.tide.epoch = some epoch0 ∧ scheduled.tide.running = true ∧ scheduled.tide.now % 64 = 0 ∧ inHold scheduled = false ∧
    holdBeginsNow scheduled = false ∧ scheduled.tide.lastBoundary ≠ some scheduled.tide.now ∧ epoch0.slots ≤ 2 ^ 32 := by decide
theorem wit_entries : scheduled.job.stopped = false ∧ entriesRun scheduled = true ∧ inHold scheduled = false ∧ holdBeginsNow scheduled = false ∧
    dueFor (dueAt (entry 1 2 0 1 0x40) false) 1 2 = some ⟨entry 1 2 0 1 0x40, false⟩ ∧ (port scheduled 2).tx = none ∧
    dueFor (dueAt (entry 2 2 0 1 0x40) false) 2 2 = some ⟨entry 2 2 0 1 0x40, false⟩ ∧ (port scheduled 2).rx.all (·.closed) = true ∧
    dueFor (dueAt (entry 3 2 0 1 0x40) false) 3 2 = some ⟨entry 3 2 0 1 0x40, false⟩ ∧ (bargeSt scheduled 2).cur = none ∧
    (bargeSt scheduled 2).queue = [] ∧ dueFor (dueAt (entry 4 2 0 1 0x40) false) 4 2 = some ⟨entry 4 2 0 1 0x40, false⟩ ∧
    (crane scheduled 2).bgLast = none ∧ (crane scheduled 2).bgPast = false ∧
    dueFor (dueAt (entry 5 2 0 1 3) false) 5 2 = some ⟨entry 5 2 0 1 3, false⟩ ∧ fget scheduled F.tideSchedSlot < 0 + 1 ∧
    dueFor (dueAt (entry 6 0 0 1 0x0100) false) 6 0 = some ⟨entry 6 0 0 1 0x0100, false⟩ ∧
    (port (setPort (dueAt (entry 1 2 0 1 0x40) false) 2 { tx := some ⟨0x41, 0, 0, [], false⟩ }) 2).tx ≠ none ∧
    dueFor (dueAt (entry 1 2 0 1 0x40) true) (entryCode .quayTx) 2 = some ⟨entry 1 2 0 1 0x40, true⟩ ∧
    resourceFree (dueAt (entry 1 2 0 1 0x40) true) (entryCode .quayTx) 2 = true ∧
    (port (setPort (dueAt (entry 2 2 0 1 0x40) false) 2 { rx := [⟨0x41, 0, false, [], 0, 0, 0, 0, 0, false, [], false⟩] }) 2).rx.all (·.closed) =
      false ∧
    (bargeSt (setBarge (dueAt (entry 3 2 0 1 0x40) false) 2 { queue := [{ stream := 1, job := true }] }) 2).queue ≠ [] ∧
    resourceFree (setCrane (dueAt (entry 4 2 0 1 0x40) false) 2 { bgLast := some 0 }) 4 2 = false ∧
    inHold (fput scheduled F.tideSchedInHold 1) = true := by decide

/-- A job is live, in step 5, of 1,024 micro-batches. -/
def live : State := { scheduled with job := { State.reset.job with st := 5, curStep := 5, m := 1024, dropGate := 0x1000, dropLog := 0x10000 } }
def cutOff : State := { live with job := { live.job with cutoff := true } }
theorem wit_drops : jobLive live = true ∧ (entry 6 0 0 1 0x0100).stream = 0x0100 ∧ (entry 6 0 0 1 0x0100).stepEnd = false ∧
    live.job.m ≤ 1024 ∧ (entry 6 0 0 1 0x0101).stream ≠ 0x0100 ∧ ({ entry 6 0 0 1 0x0101 with stepEnd := true } : Entry).stepEnd = true ∧
    jobLive scheduled = false ∧ ({ entry 6 0 0 1 0x0100 with stepEnd := true } : Entry).stream = 0x0100 ∧ jobLive cutOff = true ∧ cutOff.job.cutoff = true ∧ cutOff.job.gateWritten = false := by decide
theorem test_drop_gate : readNat (after .dropRecordFinal cutOff) 0x1000 8 = 6 := by decide +kernel

def req0 : HoldReq := ⟨0, 3, 5, 65536⟩
def reqAt (b : Word) (s : State) : State := setTide s { s.tide with reqs := [{ req0 with b := b }, { req0 with b := b, q := 2 }] }
def latchedNow : State := setTide tided { tided.tide with latched := [(65536, 3)] }
def holding (e : Nat) : State := setTide (fput tided F.tideSchedInHold 1) { tided.tide with holdEnd := e }
/-- A Barge runs stream 0x40 under a dl entry whose deadline is 66,000. -/
def underDl : State := setBarge (setTide scheduled { scheduled.tide with dls := [⟨{ entry 3 2 1 1 0x40 with dl := true }, 66000⟩] }) 2
  { queue := [{ stream := 0x40, job := true }] }
def raised (n : Word) : Instr := .holdRequestRaise .barge 2 0x40 n
theorem test_hold_quanta : (after (raised 67025) underDl).tide.reqs.map (·.q) = [2] ∧
    (after (raised 1066000) underDl).tide.reqs.map (·.q) = [15] ∧ (after (raised 66001) underDl).tide.reqs.map (·.b) = [81920] ∧
    (after (raised 66000) underDl).tide.reqs = [] := by decide +kernel
theorem test_hold_moves_the_deadline : (after .holdStart (setTide underDl { underDl.tide with latched := [(65536, 3)] })).tide.dls.map
    (·.deadline) = [69072] := by decide
theorem test_latch_takes_the_largest : (after .holdLatch (reqAt 65536 tided)).tide.latched = [(81920, 3)] := by decide
/-- A HOLD cell on the wire. -/
def holdWire (l : BitVec 32) : List Byte := wireOf { mkCell 3 (holdPayload { req0 with b := 81920 }) with lseq := l }
def onPort2 : State := setPort (follower 2 2) 2 { rxSeq := 7 }
theorem wit_holds : dlRunning underDl (entryCode .barge) 2 (0x40#16).toNat = some ⟨{ entry 3 2 1 1 0x40 with dl := true }, 66000⟩ ∧
    0 < (66001#64).toNat - deadlineLatched underDl 66000 ∧ underDl.tide.running = true ∧
    underDl.tide.raisedIn ≠ some (underDl.tide.now / 16384) ∧
    (setTide tided { tided.tide with raisedIn := some 4 }).tide.raisedIn =
      some ((setTide tided { tided.tide with raisedIn := some 4 }).tide.now / 16384) ∧
    inService onPort2 2 = true ∧ (port onPort2 2).retraining = false ∧ (cellIn (holdWire 7) false).typ = 3 ∧
    cellInError (cellIn (holdWire 7) true) = true ∧ cellInError (cellIn (holdWire 7) false) = false ∧
    (cellIn (holdWire 7) false).lseq = (port onPort2 2).rxSeq ∧ seqBefore 7 (port onPort2 2).rxSeq = false ∧
    seqBefore (cellIn (holdWire 6) false).lseq (port onPort2 2).rxSeq = true ∧
    seqBefore (cellIn (holdWire 8) false).lseq (port onPort2 2).rxSeq = false ∧ (cellIn (holdWire 8) false).lseq ≠ (port onPort2 2).rxSeq ∧
    (port onPort2 2).reorder = [] := by decide +kernel
theorem wit_holds_latched : (setTide tided { tided.tide with seen := [(0, 5)] }).tide.seen.contains (req0.origin, req0.tr) = true ∧
    tided.tide.seen.contains (req0.origin, req0.tr) = false ∧ req0.b.toNat ≤ tided.tide.now ∧
    tided.tide.now < ({ req0 with b := 65537 } : HoldReq).b.toNat ∧ tided.tide.now % 16384 = 0 ∧
    (∃ r ∈ (reqAt 65536 tided).tide.reqs, r.b.toNat = (reqAt 65536 tided).tide.now ∧ r.q.toNat = 3) ∧
    holdNow latchedNow = some (latchedNow.tide.now, 3) ∧ inHold latchedNow = false ∧ inHold (holding 65536) = true ∧
    (holding 65536).tide.holdEnd ≤ (holding 65536).tide.now := by decide

/-- The staging machinery in a state, with groups of the pass. -/
def staging (st : Nat) (gr : BitVec 5) : State := { fput tided F.tideStageStatusStageState st with stage := { groups := gr, armedAt := 65536 } }
theorem wit_shadow : groupOf 0x100010 = 3 ∧ stageState (staging 1 8#5) = 1 ∧ (8#5).getLsbD (groupOf 0x100010) = true ∧
    stageState (staging 4 8#5) = 4 ∧ stageState (staging 2 8#5) ≠ 1 ∧ stageState (staging 2 8#5) ≠ 4 ∧
    (4#5).getLsbD (groupOf 0x100010) = false ∧ groupOf F.tideTableBaseBase.off = 1 ∧ groupOf F.pwrRampFloor.off = 2 := by decide
theorem wit_check : (16#5 &&& 15#5) = 0 ∧ (8#5 &&& 15#5) ≠ 0 ∧ stageState (staging 1 8#5) = 1 ∧ stageState tided ≠ 1 ∧ Agent.job 4 ≠ .fw ∧
    stageState tided ≠ 4 ∧ Agent.host ≠ .fw := by decide
/-- commit_ns in the pass or armed state. -/
def committing (st n : Nat) (gr : BitVec 5) : State := fput (staging st gr) F.tideCommitAtCommitNs n
def armedLater : State := { committing 4 0 4#5 with stage := { groups := 4#5, armedAt := 81920 } }
theorem wit_arm : stageState (committing 3 0 4#5) ≠ 2 ∧ stageState (committing 2 81919 4#5) = 2 ∧
    fget (committing 2 81919 4#5) F.tideStageStatusOwner = (if Agent.fw = .fw then 0 else 1) ∧
    fget (committing 2 81919 4#5) F.tideCommitAtCommitNs < (committing 2 81919 4#5).tide.now + 16384 ∧
    (committing 2 81920 4#5).tide.now + 16384 ≤ fget (committing 2 81920 4#5) F.tideCommitAtCommitNs ∧
    (2#5).getLsbD 1 = true ∧ fget (committing 2 81921 2#5) F.tideCommitAtCommitNs % 16384 ≠ 0 ∧ (4#5).getLsbD 1 = false ∧
    stageState (committing 4 81920 4#5) = 4 ∧
    (committing 4 0 4#5).stage.armedAt < (committing 4 0 4#5).tide.now + 16384 ∧
    fget (committing 4 0 4#5) F.tideStageStatusOwner = 0 ∧
    armedLater.tide.now + 16384 ≤ armedLater.stage.armedAt ∧ stageState armedLater = 4 := by decide
theorem test_early_arm_is_late : fget (after (.stageArm .fw) (committing 2 81919 4#5)) F.tideStageStatusFailCode = 8 ∧
    stageState (after (.stageArm .fw) (committing 2 81919 4#5)) = 2 ∧ stageState (after (.stageArm .fw) (committing 2 81920 4#5)) = 4 := by
  decide
/-- The commit goes by the instant that the arm took, not by what commit_ns holds since (R60). -/
theorem test_armed_instant_stays : stageState (after .stageCommit (fput (committing 4 65536 4#5) F.tideCommitAtCommitNs 1)) = 5 := by decide +kernel
theorem wit_check_result : stageState (staging 1 4#5) = 1 ∧ (4#5).getLsbD 2 = true ∧ (8#5).getLsbD 3 = true ∧
    groupFailure (put (staging 1 4#5) [(F.pwrRampFloor, 12)]) 2 = 4 ∧ groupFailure (staging 1 4#5) 2 = 0 ∧
    groupFailure (put (staging 1 8#5) [(F.tideCfgSteerLimitPpb, 99)]) 3 = 5 ∧
    (∀ gr, gr < 5 → groupFailure (staging 1 4#5) gr = 0) ∧ stageState (staging 1 8#5) = 1 := by decide +kernel
def armed (gr : BitVec 5) : State := committing 4 65536 gr
def armedEpoch : State := { armed 2#5 with stage := { groups := 2#5, epoch := some epoch0, armedAt := 65536 } }
theorem wit_commit : stageState (armed 4#5) = 4 ∧ (armed 4#5).tide.now = (armed 4#5).stage.armedAt ∧ (armed 4#5).tide.running = true ∧
    (armed 4#5).stage.groups = 4#5 ∧ (armed 8#5).stage.groups = 8#5 ∧
    shadowGet (armed 8#5) F.tideCfgRoleSel = fget (armed 8#5) F.tideCfgRoleSel ∧ armedEpoch.stage.groups = 2#5 ∧
    armedEpoch.stage.epoch = some epoch0 ∧ stageState armedEpoch = 4 ∧ (armed 16#5).stage.groups = 16#5 ∧
    fget (armed 16#5) (F.craneActGenDirty 15) < 16 := by decide

/-! ### The Cranes -/

/-- A command of an opcode that has passed its checks, alone in a queue of Crane 0. -/
def cmd (op : Nat) (desc : List Byte) : CraneCmd :=
  { uid := 1, seq := 9, word := BitVec.ofNat 64 op, desc := desc, phase := .checked }
def withCmd (q : Queue) (k : CraneCmd) : State := { setCrane State.reset 0 (putCmds {} q [k]) with uid := 2 }
/-- A word of an opcode at the head of Crane 0's queue. -/
def withWord (q : Queue) (w : Word) : State :=
  setCrane State.reset 0 (match q with
    | .fg => { fgq := [(9, w)] }
    | .bg => { bgq := [(9, w)], bgLast := some 3 })
def opWord (op : Nat) : Word := BitVec.ofNat 64 op
theorem ordered_of (s : State) (k : CraneCmd) (h : s.writer = []) : ∀ a, unorderedByte s k a = false := by
  intro a
  simp [unorderedByte, h]

theorem test_word_with_reserved_bit_is_rejected :
    fget (after (.craneCommandIssue 0 .fg) (withWord .fg (opWord 4 + BitVec.ofNat 64 (2 ^ 55)))) (F.craneRejectCause 0) = 1 ∧
    flag (after (.craneCommandIssue 0 .fg) (withWord .fg (opWord 4 + BitVec.ofNat 64 (2 ^ 55)))) (F.craneStateFgStopped 0) = true := by
  decide +kernel
theorem test_retire_shows_its_number : fget (after (.craneRetire 0 .fg) (withCmd .fg { cmd 4 [] with phase := .done })) (F.craneStatusFgRetired 0) = 9 := by
  decide +kernel
/-- 2.0 at offset 0x1000 of Berth 0; the result 0.5 at 0x2000 and the flags at 0x3000. -/
def pivotDesc : List Byte := [0, 0x10, 0, 0, 0, 0, 0, 0, 0, 0x20, 0, 0, 0, 0x30, 0, 0]
theorem test_pivot_of_two : readNat (after (.pivot 0 .fg) { withCmd .fg (cmd 0x12 pivotDesc) with mem := [(0x1003, 0x40)] }) 0x2000 4 =
    0x3F000000 := by decide +kernel

/-- n bytes, zero but for the values listed with their offset and width. -/
def laid (n : Nat) (l : List (Nat × Nat × Nat)) : List Byte :=
  l.foldl (fun d v => d.take v.1 ++ bytesOfNat v.2.1 v.2.2 ++ d.drop (v.1 + v.2.1)) (List.replicate n 0)
/-- The cells of a list of bytes that stand at an address. -/
def cellsAt (a : Nat) (bs : List Byte) : List (Nat × Byte) := (bs.zipIdx.map (fun p => (a + p.2, p.1))).filter (fun p => decide (p.2 ≠ 0))

theorem test_word_causes : wordCause false (opWord 7) = 1 ∧ wordCause false (opWord 0x101 + 0x40000000000000) = 0 ∧
    wordCause false (opWord 0x101 + 0x80000000000000) = 1 ∧ wordCause false (opWord 1) = 1 ∧ wordCause false (opWord 0x103) = 1 ∧
    wordCause false (opWord 0x110) = 2 ∧ wordCause true (opWord 0x110) = 0 ∧ wordCause false (opWord 0xC01) = 6 ∧
    wordCause false (opWord 0x401) = 0 ∧ wordCause false (opWord 0x1003F) = 3 ∧ wordCause false (opWord 0x102) = 3 ∧
    wordCause false (opWord 0x800102) = 0 ∧ wordCause false (opWord 0x810102) = 3 := by decide
theorem wit_issue : (crane (setCrane State.reset 0 { flight := [(9, 7)] }) 0).flight = (9, 7) :: [] ∧
    (crane (withWord .fg (opWord 4)) 0).fgq = (9, opWord 4) :: [] ∧ flag (withWord .fg (opWord 4)) (F.craneStateFgStopped 0) = false ∧
    flag (fput (withWord .fg (opWord 4)) (F.craneStateFgStopped 0) 1) (F.craneStateFgStopped 0) = true ∧
    mayIssueWord (crane (withWord .fg (opWord 4)) 0) .fg (opWord 4) = true ∧ wordCause false (opWord 4) = 0 ∧
    wordCause false (opWord 63 + BitVec.ofNat 64 (2 ^ 55)) ≠ 0 ∧
    mayIssueWord (crane (withWord .fg (opWord 63)) 0) .fg (opWord 63 + BitVec.ofNat 64 (2 ^ 55)) = true ∧
    (∀ y ∈ (crane (withWord .fg (opWord 4)) 0).fgCmds, y.uid < (withWord .fg (opWord 4)).uid) ∧
    flag (withWord .fg (opWord 4)) (F.craneRejectValid 0) = false ∧
    (crane (withWord .bg (opWord 8)) 0).bgq = (9, opWord 8) :: [] ∧ ([] : List (BitVec 32 × Word)).length ≤ 64 ∧
    mayIssueWord (crane (setCrane State.reset 0 { bgq := [(9, 8)] }) 0) .bg 8 = false ∧ wordCause true (opWord 7) ≠ 0 ∧
    mayIssueWord (crane (withWord .bg (opWord 7)) 0) .bg (opWord 7) = true ∧ mayIssueWord (crane (withWord .bg (opWord 8)) 0) .bg (opWord 8) = true ∧
    wordCause true (opWord 8) = 0 ∧ opKnown (cwOp (opWord 7)) = false ∧ opKnown (cwOp (opWord 0x10)) = true ∧
    (opWord 0x10).getLsbD 55 = false ∧ cwPmode (opWord 0x10 + 0x400) = 4 := by decide +kernel
def waitingDesc (k : CraneCmd) : State := withCmd .bg { k with phase := .issued, word := k.word + 0x100000000 }
theorem wit_descriptor : awaiting (crane (waitingDesc (cmd 0x12 [])) 0) .bg = some { cmd 0x12 [] with phase := .issued, word := opWord 0x12 + 0x100000000 } ∧
    poisonedRange (waitingDesc (cmd 0x12 [])) (berthAddr 0 (cwDesc (opWord 0x12 + 0x100000000))) 64 = false ∧
    descCause (waitingDesc (cmd 0x12 [])) 0 .bg (cmd 0x12 []) (List.replicate 64 0) = 0 ∧
    descCause (waitingDesc (cmd 0x12 [])) 0 .bg (cmd 0x12 []) (1 :: List.replicate 63 0) ≠ 0 := by decide +kernel
def listed (left : Nat) : State := setCrane State.reset 0 { lists := [(0, left)] }
theorem wit_background : (crane (listed 64) 0).lists = [(0, 64)] ∧ (crane (listed 64) 0).bgq.length + 64 ≤ 64 ∧
    (crane (listed 64) 0).bgq.length < 64 ∧ (crane (setCrane State.reset 0 { bgPast := true }) 0).bgPast = true ∧
    (crane (setCrane State.reset 0 { bgPast := true }) 0).bgLast = none ∧ (crane (setCrane State.reset 0 { bgPast := true }) 0).bgCmds = [] := by
  decide +kernel
def bgFull : State :=
  setCrane { fput scheduled (F.craneBgqBaseCount 0) 1 with mem := [(4, 1)] } 0 { bgq := List.replicate 64 (0, 0) }
theorem wit_background_start : (entry 4 0 0 1 0).stream < fget bgFull (F.craneBgqBaseCount 0) ∧ (crane bgFull 0).lists = [] ∧
    (crane bgFull 0).bgq.length = 64 ∧ (bgJob bgFull 0 0).2 ≠ 0 := by decide +kernel
theorem wit_array : readyCmd (withCmd .fg (cmd 1 [])) 0 .fg 1 = some (cmd 1 []) ∧ readyCmd (withCmd .bg (cmd 2 [])) 0 .bg 2 = some (cmd 2 []) ∧
    cwOp (cmd 1 []).word = 1 ∧ cwOp (cmd 2 []).word = 2 ∧ cwComplex (cmd 1 []).word = false ∧ cwBank (cmd 1 []).word = 0 ∧
    readsPoison (withCmd .fg (cmd 1 [])) (operandFoot (withCmd .fg (cmd 1 [])) (cmd 1 []) 0) = false ∧
    readsPoison (withCmd .bg (cmd 2 [])) (operandFoot (withCmd .bg (cmd 2 [])) (cmd 2 []) 0) = false := by decide +kernel
theorem wit_terms : isFinite nzero = true ∧ isFinite (.inf false) = false := by decide
def spillDesc : List Byte := [0, 0, 0, 0, 0, 0, 0x10, 0]
def spilling : CraneCmd := { cmd 1 [] with phase := .segment 256 true, steps := 256 }
theorem wit_spill : readyMover (withCmd .fg (cmd 3 spillDesc)) 0 .fg 3 = some (cmd 3 spillDesc) ∧ cwOp (cmd 3 spillDesc).word = 3 ∧
    readsPoison (withCmd .fg (cmd 3 spillDesc)) (spillFoot 0 spillDesc) = false ∧
    (bankOf (crane (withCmd .fg (cmd 3 spillDesc)) 0) 0).poison = false ∧ partialOk 0 (at_ spillDesc 0 4) = true ∧
    partialIn (at_ spillDesc 0 4) 16384 = true ∧
    (∀ b, b < 8 → berthAddr (dieOfCrane 0) (at_ spillDesc 4 4) + 32 ≤ berthAddr (dieOfCrane 0) (at_ spillDesc 0 4 + b * 0x800000) ∨
      berthAddr (dieOfCrane 0) (at_ spillDesc 0 4 + b * 0x800000) + 16384 ≤ berthAddr (dieOfCrane 0) (at_ spillDesc 4 4)) ∧
    spillingCmd (withCmd .fg spilling) 0 .fg = some spilling ∧ cwComplex spilling.word = false ∧
    readsPoison (withCmd .fg spilling) (partialFoot 0 (mSpill spilling.desc) false) = false ∧
    partialOk 0 (mSpill spilling.desc) = true ∧ partialIn (mSpill spilling.desc) 16384 = true := by decide +kernel
theorem wit_unordered : ∀ a, unorderedByte (withCmd .fg (cmd 3 spillDesc)) (cmd 3 spillDesc) a = false := ordered_of _ _ rfl
def inflight (op : Nat) : State := setCrane State.reset 0 { fgCmds := [cmd op []], bank0 := { inflight := 3 } }
theorem wit_finish : readyMover (withCmd .fg (cmd 4 [])) 0 .fg 4 = some (cmd 4 []) ∧ readyMover (withCmd .fg (cmd 5 [])) 0 .fg 5 = some (cmd 5 []) ∧
    cmds (crane (withCmd .fg (cmd 0x3F [])) 0) .fg = cmd 0x3F [] :: [] ∧ cwOp (cmd 0x3F []).word = 0x3F ∧ (cmd 0x3F []).phase = .checked ∧
    moverWaits (crane (inflight 4) 0) 0 = true ∧ (bankOf (crane (inflight 4) 0) 0).inflight ≠ 0 ∧
    ({ cmd 4 [] with phase := .done } : CraneCmd).phase = .done ∧ (cmd 4 []).phase ≠ .done ∧ (cmd 4 []).phase ≠ .error := by
  decide +kernel
/-- One element in binary32, its record right after it, the record's region apart. -/
def drainDesc : List Byte := laid 128 [(0, 4, 0x1000), (0x14, 4, 0x2000), (0x28, 4, 0x3F800000), (0x56, 2, 3)]
theorem test_drain_of_one : readNat (after (.drain 0 .fg) (setCrane State.reset 0
    { fgCmds := [cmd 8 drainDesc], bank0 := { vals := [(0, 0x40490FDB)] } })) 0x1000 4 = 0x40490FDB := by decide +kernel
theorem wit_drain_rows : readyMover (withCmd .fg (cmd 8 drainDesc)) 0 .fg 8 = some (cmd 8 drainDesc) ∧
    (drainRanges (cmd 8 drainDesc).word drainDesc).filter (fun r => r.2.2) = [(0x1000, 4, true), (0x2000, 32, true)] ∧
    readsPoison (withCmd .fg (cmd 8 drainDesc)) (drainFoot 0 (cmd 8 drainDesc).word drainDesc) = false ∧
    at_ drainDesc 0x56 2 % 8 = 3 ∧ 0x1000 + 4 ≤ 0x2000 ∧ (at_ (laid 128 [(0x56, 2, 0x2002)]) 0x56 2).testBit 13 = true ∧
    at_ (laid 128 [(0x56, 2, 0x2002)]) 0x56 2 % 8 = 2 := by decide +kernel
def topkWord : CraneCmd := { cmd 9 (laid 128 [(0, 4, 0x1000), (0x14, 4, 0x2000), (0x20, 4, 0x3000), (0x56, 2, 3)]) with word := 0x10009 }
theorem wit_topk : readyMover (withCmd .fg topkWord) 0 .fg 9 = some topkWord ∧
    (drainRanges topkWord.word topkWord.desc).filter (fun r => r.2.2) = [(0x1000, 4, true), (0x3000, 4, true), (0x2000, 32, true)] ∧
    readsPoison (withCmd .fg topkWord) (drainFoot 0 topkWord.word topkWord.desc) = false ∧ topkWord.word.toNat / 65536 % 65536 = 1 ∧
    at_ topkWord.desc 0x56 2 % 8 = 3 := by decide +kernel
theorem wit_operands : 0 ≤ at_ (cmd 1 []).desc 0x2E 1 ∧ Mode.bf ≠ .block8 ∧ (cmd 2 []).word.toNat % 256 = 2 ∧ at_ (cmd 1 []).desc 0x2F 1 < 1 := by
  decide
theorem wit_drain : readyMover (withCmd .fg (cmd 8 [])) 0 .fg 8 = some (cmd 8 []) ∧ dFmt (cmd 8 []).desc = 0 ∧ cwOp (cmd 8 []).word = 8 ∧
    readsPoison (withCmd .fg (cmd 8 [])) (drainFoot 0 (cmd 8 []).word (cmd 8 []).desc) = false ∧
    (bankOf (crane (withCmd .fg (cmd 8 [])) 0) 0).poison = false ∧ readyMover (withCmd .fg (cmd 9 [])) 0 .fg 9 = some (cmd 9 []) ∧
    readsPoison (withCmd .fg (cmd 9 [])) (drainFoot 0 (cmd 9 []).word (cmd 9 []).desc) = false ∧
    dBiasMode (cmd 8 []).desc = 0 ∧ dBit (cmd 8 []).desc 7 = false ∧ dBit (cmd 8 []).desc 8 = false ∧ dBit (cmd 8 []).desc 12 = false ∧
    readyCmd (withCmd .fg (cmd 0x12 pivotDesc)) 0 .fg 0x12 = some (cmd 0x12 pivotDesc) ∧
    readsPoison (withCmd .fg (cmd 0x12 pivotDesc)) (pivotFoot 0 pivotDesc) = false ∧
    at_ pivotDesc 8 4 + 4 * pvLanes pivotDesc ≤ 0x20000000 ∧ at_ pivotDesc 0xC 4 + 32 ≤ 0x20000000 ∧
    at_ pivotDesc 8 4 + 4 * pvLanes pivotDesc ≤ at_ pivotDesc 0xC 4 ∧ isNan nzero = false ∧ isZero nzero = true ∧ isZero none1 = false := by
  decide +kernel
/-- Entries of batches of one facet at address 0: state 1, and size 1. -/
def ended1 : State := { withCmd .bg (cmd 0x10 []) with mem := [(2, 1)] }
def sizeOne : State := { withCmd .bg (cmd 0x11 []) with mem := [(0, 1), (0xA, 1)] }
/-- A facet of size 128 with its areas apart in the Berths of Crane 0; its entry stands in Berth 2. -/
def facetDesc : List Byte := laid 64 [(0, 4, 0x1000000), (5, 1, 8)]
def facetEntry : List Byte := laid 64 [(0, 2, 128), (8, 4, 0), (0xC, 4, 0x8000), (0x10, 4, 0x10000), (0x14, 4, 0x18000), (0x18, 4, 0x20000)]
def facetCmd : CraneCmd := { cmd 0x10 facetDesc with word := 0x40110 }
def facet : State := { withCmd .bg facetCmd with mem := cellsAt 0x1000000 facetEntry }
theorem wit_facet : readyCmd facet 0 .bg 0x10 = some facetCmd ∧ anyActive facet facetCmd 0 = true ∧ anyActive ended1 (cmd 0x10 []) 0 = false ∧
    readBytes facet (svEntry 0 facetDesc 0) 64 = facetEntry ∧ at_ facetDesc 4 1 = 0 ∧ at_ facetEntry 2 1 = 0 ∧
    readsPoison facet (entryReads 0 facetCmd.word facetEntry) = false ∧ (svAreas facetEntry).all (svAreaOk 0 facetEntry) = true ∧
    areasApart ((svAreas facetEntry).map (fun o => (o, areaBytes facetEntry))) = true ∧ areaBytes facetEntry = 0x8000 ∧
    at_ facetEntry 0 2 = 128 ∧
    (svAreas facetEntry).all (fun o => (List.range 2).all (fun b => decide (berthAddr 0 (o + b * 0x800000) + 0x8000 ≤ 0x1000000))) =
      true := by decide +kernel
theorem wit_solver : readyCmd (withCmd .bg (cmd 0x10 [])) 0 .bg 0x10 = some (cmd 0x10 []) ∧ svCount (cmd 0x10 []).desc = 1 ∧
    readyCmd ended1 0 .bg 0x10 = some (cmd 0x10 []) ∧ at_ (readBytes ended1 (svEntry 0 [] 0) 64) 2 1 ≠ 0 ∧
    at_ (readBytes (withCmd .bg (cmd 0x10 [])) (svEntry 0 [] 0) 64) 2 1 = 0 ∧ cwImm (cmd 0x10 []).word / 4 = 0 ∧
    readsPoison (withCmd .bg (cmd 0x10 [])) (entryReads 0 (cmd 0x10 []).word (readBytes (withCmd .bg (cmd 0x10 [])) (svEntry 0 [] 0) 64)) = false ∧
    readyCmd sizeOne 0 .bg 0x11 = some (cmd 0x11 []) ∧ at_ (readBytes sizeOne (svEntry 0 [] 0) 64) 2 1 = 0 ∧
    readsPoison sizeOne (cholReads 0 0 (readBytes sizeOne (svEntry 0 [] 0) 64)) = false ∧
    cwImm (cmd 0x11 []).word % 16 < (at_ (readBytes sizeOne (svEntry 0 [] 0) 64) 0 2 + 127) / 128 ∧ cwImm (cmd 0x11 []).word / 16 = 0 ∧
    (match cholFactor sizeOne (cmd 0x11 []) 0 0 (readBytes sizeOne (svEntry 0 [] 0) 64) with
     | .inl _ => true
     | .inr _ => false) = true ∧
    readyCmd (withCmd .bg (cmd 0x11 [])) 0 .bg 0x11 = some (cmd 0x11 []) ∧
    (at_ (readBytes (withCmd .bg (cmd 0x11 [])) (svEntry 0 [] 0) 64) 0 2 + 127) / 128 ≤ 0 := by decide +kernel
def busySlot : State := setCrane State.reset 0 { heldAct := [⟨3, 0, 7, BitVec.allOnes 64⟩] }
theorem test_act_write_goes_to_the_flood_bank :
    actWord (crane (after (.actTableWrite .fw 0 1 0 5) State.reset) 0) 1 (floodBank (crane State.reset 0) 1) 0 = 5 ∧
    actWord (crane (after (.actTableWrite .fw 0 1 0 5) State.reset) 0) 1 (ebbBank (crane State.reset 0) 1) 0 = actIdentity 0 := by
  decide +kernel
theorem wit_tables : floodInUse (crane State.reset 0) 1 = false ∧ (crane State.reset 0).heldAct = [] ∧ shadowLocked (staging 1 16#5) 4 = true ∧
    shadowLocked State.reset 4 = false ∧
    (crane busySlot 0).heldAct = ⟨3, 0, 7, BitVec.allOnes 64⟩ :: [] ∧ (⟨3, 0, 7, BitVec.allOnes 64⟩ : HeldAct).slot = 3 ∧
    floodInUse (crane busySlot 0) 3 = false := by decide +kernel

/-! ### Statistics, roots, updates and the Ledger -/

theorem hold_populated (s : State) (a n : Nat) (h1 : holdBase ≤ a) (h2 : a + n ≤ holdBase + holdSize) : populatedRange s a n = true := by
  have w : ∀ b, holdBase ≤ b → b < holdBase + holdSize → windowOf b = .hold := by
    intro b h3 h4
    unfold windowOf
    unfold holdBase holdSize at *
    have : ctlBase = 0x40000000 := rfl
    split
    · omega
    · split
      · omega
      · split
        · rfl
        · omega
  unfold populatedRange
  by_cases h : n = 0
  · simp [h]
  · have hs : holdSize = 0x2400000000 := rfl
    simp only [populated, w a h1 (by omega), w (a + n - 1) (by omega) (by omega)]
    simp
    omega

/-- A layer of one panel: both factors collected in every step that kc divides, with momentum 0.5 and a gather image. -/
def layerWith (dout dc flags kc : Nat) : Layer :=
  ⟨7, 0x010030000000, 0x010001000000, 0x010002000000, 0x010010000000, 0x010020000000, dout, dc,
    laid 64 [(2, 1, flags), (3, 1, 1), (4, 4, 0x3F000000), (8, 2, kc)], laid 64 [(4, 4, 0x3F800000), (0x20, 2, 4), (0x22, 2, 1), (0x24, 2, 2)],
    laid 64 [(2, 1, 8), (4, 4, 0x3F000000), (0xC, 4, 0x3F800000), (0x14, 4, 0x3F800000), (0x1C, 4, 1)]⟩
def tiny : Layer := layerWith 1 1 3 1
/-- A live job of one module with that layer, its Ledger in the Hold, and an operation outstanding on die 0. -/
def jobWith (l : Layer) (cy : List Cycle) (mem : List (Nat × Byte)) : State :=
  { put State.reset [(F.ledgerBaseBase, 0x401000000)] with
    mem := mem
    job := { State.reset.job with st := 5, p := 1, s := 1, m := 1, layers := [l], curStep := 1, homeDone := 0, cycles := cy }
    ledger := { upd0 := [⟨0x1000, false⟩] } }
/-- The auxiliary record of a collection counts four rows. -/
def fourRows (l : Layer) : State := jobWith l [] [(0x010000030010, 4)]
def mergeOp : MergeOp := ⟨7, true, 0, 0x010000040000, 0x010000050000, 0x010000030000⟩
def gFactor : Factor := ⟨true, 0, 0, 1, 0⟩
def aFactor : Factor := ⟨false, 0, 0, 1, 0⟩
/-- The shadow record of the G side's factor, which comes first. -/
def shadowG : Nat := 0x010010000000 + slotBytes ⟨tiny, 0, 0, 0⟩ + partFactors
theorem wit_merge : (ownedFactors (fourRows tiny) tiny).find? (fun x => decide (x.g = mergeOp.g ∧ x.facet = mergeOp.facet.toNat)) = some gFactor ∧
    layerOf (fourRows tiny) 7 = some tiny ∧ (ownedFactor (fourRows tiny) tiny gFactor).map (·.index) = some 0 ∧
    (ownedFactor (fourRows tiny) tiny gFactor).map (shadowRecord (fourRows tiny)) = some shadowG ∧ jobLive (fourRows tiny) = true ∧
    lyCollect tiny true = true ∧ (nextStep (fourRows tiny) 0).toNat = 1 ∧ 1 % lyKc tiny = 0 ∧ 1 % lyKc (layerWith 1 1 3 2) ≠ 0 ∧
    mayShadow (fourRows tiny) 1 = true ∧ (recHead (fourRows tiny) 0x010010908000).form ≤ 2 ∧
    readNat (fourRows tiny) (mergeOp.aux.toNat + 0x10) 8 ≠ 0 ∧ readNat (fourRows tiny) (mergeOp.aux.toNat + 0x18) 8 % 2 ≠ 1 ∧
    readNat (jobWith tiny [] []) (mergeOp.aux.toNat + 0x10) 8 = 0 := by decide +kernel
theorem wit_merge_clean : clean (fourRows tiny) ∧ ∀ m, m ≤ 128 → populatedRange (fourRows tiny) shadowG m = true := by
  refine ⟨clean_of _ rfl (by decide), fun m h => hold_populated _ _ _ (by decide) ?_⟩
  have : shadowG = shadowG := rfl
  have h3 : shadowG ≤ 0x010012000000 := by decide +kernel
  have : holdBase + holdSize = 0x012400000000 := rfl
  omega
theorem test_merge_counts : readNat (after (.factorMerge mergeOp) (fourRows tiny)) (shadowG + 0x10) 4 = 1 ∧
    readNat (after (.factorMerge mergeOp) (jobWith tiny [] [])) (shadowG + 0x14) 4 = 1 ∧
    after (.factorMerge mergeOp) (fourRows (layerWith 1 1 3 2)) = fourRows (layerWith 1 1 3 2) := by decide +kernel
/-- A row of 127 and −1.5 has the scale 1 and the codes 127 and −1, which is odd; 127.5 needs the scale 2. -/
theorem test_yi8 : yiRow [.fin false 127 0, .fin true 3 (-1)] = (0x3F800000, [127, 0xFF]) ∧
    (yiRow [.fin false 255 (-1)]).1 = 0x40000000 ∧ rowExp [.fin false 127 0] = some 0 ∧ yiRow [nzero, nzero] = (0, [0, 0]) ∧
    (yiRow [.inf true, .nan]).2.length = 2 := by decide +kernel

/-- Everything stands: no cycle yet, and the step before is committed. -/
def ready0 : State := jobWith tiny [] []
def inCycle (fin : List Nat) (placed : List Placed) (mem : List (Nat × Byte)) : State := jobWith tiny [⟨7, fin, placed⟩] mem
theorem wit_refresh : layerOf ready0 7 = some tiny ∧ cycleOf ready0 7 = none ∧ 1 % lyKr tiny = lyPhase tiny ∧ ready0.job.curStep = 1 ∧
    readNat ready0 (floodOf ready0 tiny + 8) 4 ≠ 1 ∧ committedAt ready0 tiny 0 = true ∧ secureRead ready0 0 = true ∧ jobLive ready0 = true ∧
    lyFrozen tiny = false ∧ floodOf ready0 tiny = 0x010002000000 ∧ inputOff ready0 tiny 2 ≤ 0x100000 ∧ ebbOf ready0 tiny = 0x010001000000 ∧
    (ownedPanels ready0).length = 1 ∧ ledgerRecord ready0 0 = 0x010040000000 ∧
    (ownedFactors ready0 tiny).all (fun x => match ownedFactor ready0 tiny x with
      | some w => decide (0x010003000000 ≤ liveRecord ready0 w)
      | none => false) = true ∧ ownedFactors ready0 tiny = [aFactor, gFactor] ∧ lyCollect tiny false = true ∧
    lyCollect (layerWith 1 1 0 1) true = false ∧ readNat ready0 0x010010908010 4 = 0 ∧ readNat ready0 (floodOf ready0 tiny + 8) 4 ≠ 2 := by
  decide +kernel
theorem wit_refresh_clean : clean ready0 ∧ ∀ i m, i + m ≤ inputOff ready0 tiny 2 → populatedRange ready0 (0x010002000000 + i) m = true := by
  refine ⟨clean_of _ rfl (by decide), fun i m h => hold_populated _ _ _ ?_ ?_⟩
  · have : holdBase = 0x010000000000 := rfl
    omega
  · have : inputOff ready0 tiny 2 ≤ 0x100000 := by decide +kernel
    have : holdBase + holdSize = 0x012400000000 := rfl
    omega
theorem wit_swap : cycleOf (inCycle [1, 0] [] []) 7 = some ⟨7, [1, 0], []⟩ ∧ (ownedFactors (inCycle [1, 0] [] []) tiny).length = 2 ∧
    readNat (inCycle [1, 0] [] []) (floodOf (inCycle [1, 0] [] []) tiny + 0xC) 4 ≤ (inCycle [1, 0] [] []).job.curStep ∧
    populatedRange (inCycle [1, 0] [] []) (0x010002000000 + 4) 4 = true ∧ 1 ∉ [0] ∧
    (inCycle [1, 0] [] [(0x01000200000C, 2)]).job.curStep < readNat (inCycle [1, 0] [] [(0x01000200000C, 2)]) 0x01000200000C 4 := by decide +kernel
theorem test_swap_takes_the_next_generation :
    readNat (after (.rootBankSwap 7) (inCycle [1, 0] [] [(0x010001000004, 7), (0x010002000004, 6)])) 0x010002000004 4 = 8 ∧
    (after (.rootBankSwap 7) (inCycle [1, 0] [] [])).job.cycles = [] := by decide +kernel

/-- Where the input copy of the A side's factor keeps its trace, here 1.0; a state of the facet's entry at 0x1000. -/
def traced (st : Nat) (tag : Nat) : List (Nat × Byte) :=
  cellsAt 0x1002 (bytesOfNat 1 st) ++ cellsAt (0x010001000000 + rootOff ready0 tiny 0) (bytesOfNat 8 tag) ++
  cellsAt (0x010002000000 + inputOff ready0 tiny 0 + 0x1C) (bytesOfNat 4 0x3F800000)
def place0 : FacetPlace := ⟨0, 0x1000, 0x10000, 0x18000, 0x20000, 0x28000, 0x30000, 0x38000⟩
def placing : State := inCycle [] [] (traced 0 0)
theorem wit_place : cycleOf placing 7 = some ⟨7, [], []⟩ ∧ readNat placing (floodOf placing tiny + 8) 4 = (0#32).toNat ∧
    (ownedFactors placing tiny)[place0.slot]? = some aFactor ∧ place0.entry.toNat + 64 ≤ 0x40000000 ∧
    traceOk (inputTrace placing tiny 0) = true ∧ 0x40000000 ≤ floodOf placing tiny ∧ populatedRange placing (floodOf placing tiny + 0x1A) 2 = true ∧
    lyChol tiny false = false ∧ readNat placing (ebbOf placing tiny + rootOff placing tiny 0) 8 ≠ structureTag tiny aFactor (lyLambda tiny) 1 ∧
    (let s := inCycle [] [] (traced 0 (structureTag tiny aFactor (lyLambda tiny) 1))
     readNat s (ebbOf s tiny + rootOff s tiny 0) 8 = structureTag tiny aFactor (lyLambda tiny) 1) ∧
    (recHead (jobWith tiny [] [(0x2000, 1)]) 0x2000).dim = 1 := by decide +kernel
theorem test_structure_tag : structureTag tiny aFactor (lyLambda tiny) 1 = 1 + 1 * 2 ^ 27 + 127 * 2 ^ 33 + 2 ^ 41 := by decide +kernel
/-- The facet placed, with its entry in a state. -/
def placedAt (st : Nat) (retried : Bool) : State := inCycle [] [⟨0, 0x1000, retried⟩] (traced st 0)
theorem wit_retry : cycleOf (placedAt 3 false) 7 = some ⟨7, [], [⟨0, 0x1000, false⟩]⟩ ∧ (ownedFactors (placedAt 3 false) tiny)[(0#16).toNat]? = some aFactor ∧
    traceOk (inputTrace (placedAt 3 false) tiny 0) = true ∧ traceOk (inputTrace (inCycle [] [] []) tiny 0) = false ∧
    readNat (placedAt 3 false) 0x1002 1 = 3 ∧ readNat (placedAt 5 true) 0x1002 1 = 5 ∧ readNat (placedAt 2 true) 0x1002 1 < 3 ∧
    5 < readNat (placedAt 6 true) 0x1002 1 ∧ floodOf (placedAt 3 false) tiny = 0x010002000000 ∧
    rootOff (placedAt 3 false) tiny 0 + factorRootBytes aFactor ≤ 0x100000 := by decide +kernel
theorem wit_retry_clean : clean (placedAt 3 false) ∧ clean (placedAt 5 true) ∧ clean (inCycle [] [] []) :=
  ⟨clean_of _ rfl (by decide), clean_of _ rfl (by decide), clean_of _ rfl (by decide)⟩
/-- The command on whose entry the facet ended, about to retire. -/
def solved (st : Nat) : State := setCrane (placedAt st false) 0 { bgCmds := [{ cmd 0x10 (laid 64 [(0, 4, 0x1000)]) with phase := .done }] }
theorem wit_solved : cmds (crane (solved 1) 0) .bg = { cmd 0x10 (laid 64 [(0, 4, 0x1000)]) with phase := .done } :: [] ∧
    (solved 1).job.cycles = [⟨7, [], [⟨0, 0x1000, false⟩]⟩] ∧ 0x1000 = svEntry 0 (laid 64 [(0, 4, 0x1000)]) 0 ∧ layerOf (solved 1) 7 = some tiny ∧
    at_ (readBytes (solved 1) 0x1000 64) 2 1 = 1 ∧ at_ (readBytes (solved 2) 0x1000 64) 2 1 = 2 ∧ at_ (readBytes (solved 4) 0x1000 64) 2 1 = 4 := by
  decide +kernel
theorem wit_solved_clean : clean (solved 1) ∧ clean (solved 2) := ⟨clean_of _ rfl (by decide), clean_of _ rfl (by decide)⟩

/-- The A side gathered: one diagonal-only factor; and one wide enough for a sketch. -/
def diagLayer : Layer := layerWith 1 1 0xB 1
def sketchLayer : Layer := layerWith 1 65537 3 1
def diagJob (tr : Nat) : State := jobWith diagLayer [⟨7, [], []⟩]
  (cellsAt (0x010002000000 + inputOff (jobWith diagLayer [] []) diagLayer 0 + 0x1C) (bytesOfNat 4 tr))
theorem wit_fw_roots : openFactor (diagJob 0x3F800000) 7 false 2 = some (diagLayer, 0, ⟨false, 2, 0, 1, 0⟩) ∧ jobLive (diagJob 0) = true ∧
    traceOk (inputTrace (diagJob 0x3F800000) diagLayer 0) = true ∧ traceOk (inputTrace (diagJob 0) diagLayer 0) = false ∧
    0x010001000000 + (rootOff (diagJob 0) diagLayer 0 + factorRootBytes ⟨false, 2, 0, 1, 0⟩) ≤ floodOf (diagJob 0) diagLayer ∧
    openFactor (jobWith sketchLayer [⟨7, [], []⟩] []) 7 false 1 = some (sketchLayer, 0, ⟨false, 1, 0, 65537, 32⟩) := by decide +kernel
theorem wit_fw_roots_clean : clean (diagJob 0) ∧ clean (diagJob 0x3F800000) := ⟨clean_of _ rfl (by decide), clean_of _ rfl (by decide)⟩
/-- D = 0, tr = 1.0, λ = 1.0: the root is 1 / (0 + 1) = 1.0. -/
theorem test_diagonal_root : readNat (after (.diagonalRoot 7 false) (diagJob 0x3F800000))
    (0x010002000000 + rootOff (diagJob 0) diagLayer 0 + 0x40) 4 = 0x3F800000 := by decide +kernel

def gpackOp : GpackOp := ⟨0, 0x010000800000, 0x010000200000, 0x010000400000, 0x010000500000, 1, 7, 0, 0⟩
def updateOp : UpdateOp := ⟨0, 0, 0x010000200000, 0x010000400000, 0x010000600000⟩
/-- Set 0 has the generation of the step; the module's own divisor is d. -/
def updating (d : Byte) : State := jobWith tiny [] [(0x010000600000, d), (0x010001000004, 1)]
def tinyPanel : Panel := ⟨tiny, 0, 0, 0⟩
theorem wit_panels : gpackPanel ready0 gpackOp = some tinyPanel ∧ 0 < undone ready0 0 ∧ lyEfEn tiny = false ∧ jobLive ready0 = true ∧
    populatedRange ready0 0x010000200000 1048576 = true ∧ populatedRange ready0 0x010000400000 65536 = true ∧
    populatedRange ready0 0x010000500000 32 = true ∧ gpackPanel ready0 { gpackOp with f := 1 } = none ∧
    gpackPanel ready0 { gpackOp with layer := 8 } = none ∧ (tiny.dout + 1023) / 1024 ≤ (1#16).toNat ∧
    recordPanel ready0 0 = some tinyPanel ∧ lyEmit tiny = true ∧ imageSlot ready0 tinyPanel 1 + 1200000 ≤ 0x010021000000 := by decide +kernel
/-- The panel's UPDATE and merges are done. -/
def written : State := { ready0 with ledger := { upd0 := [⟨0x1000, false⟩], shadows := [{ index := 0, step := 1, updated := true, merged := [true, false] }] } }
theorem wit_emit : (shadowOf written 0).updated = true ∧ recordPanel written 0 = some tinyPanel ∧ (shadowOf ready0 0).updated = false ∧
    populatedRange written (imageSlot written tinyPanel (shadowSlot written 0)) (64 + 1048576 + 65536) = true := by decide +kernel
theorem wit_update : recordPanel (updating 1) 0 = some tinyPanel ∧ jobLive (updating 1) = true ∧ mayShadow (updating 1) 1 = true ∧
    (gradOf (updating 1) updateOp tinyPanel).map (·.divisor) = some 1 ∧ (gradOf (updating 0) updateOp tinyPanel).map (·.divisor) = some 0 ∧
    (sideRoot (updating 1) tinyPanel true 1).isSome = true ∧ (sideRoot (updating 1) tinyPanel false 1).isSome = true ∧
    sideRoot ready0 tinyPanel true 1 = none ∧ stateSlot (updating 1) tinyPanel 1 + slotBytes tinyPanel ≤ 0x010012000000 ∧
    0x010010000000 ≤ stateSlot (updating 1) tinyPanel 1 ∧ validIdx tinyPanel = [0] ∧
    (match gradOf (updating 1) updateOp tinyPanel with
     | none => false
     | some gr =>
       let u : Upd := ⟨tinyPanel, stateSlot (updating 1) tinyPanel 0, gr, fun _ => nzero, 1⟩
       isFinite (norm64 ((validIdx tinyPanel).map (updA (updating 1) u))) && isFinite (gr.red 0)) = true := by decide +kernel
theorem wit_updates_clean : clean ready0 ∧ clean written ∧ clean (updating 1) :=
  ⟨clean_of _ rfl (by decide), clean_of _ rfl (by decide), clean_of _ rfl (by decide)⟩
theorem wit_roots_apply : sideFactor tinyPanel true = gFactor ∧ lyCollect tiny true = true ∧
    srcNat (jobWith tiny [] [(0x200C, 1)]) (0x2000 + 0xC) 1 ≠ 0 ∧ (sideFactor ⟨diagLayer, 0, 0, 0⟩ false).form = 2 := by decide +kernel
def heldOp : State := { State.reset with ledger := { held0 := [0x2000], upd1 := [⟨0x1000, true⟩] } }
def fullOps : State := { State.reset with ledger := { held0 := [0x2000], upd0 := List.replicate 16 ⟨0x1000, false⟩ } }
theorem wit_update_ops : updHeld heldOp 0 = 0x2000 :: [] ∧ (updOps heldOp 0).length < 16 ∧ updOps heldOp 1 = ⟨0x1000, true⟩ :: [] ∧
    updOps ready0 0 = ⟨0x1000, false⟩ :: [] ∧ updHeld fullOps 0 = 0x2000 :: [] ∧ 16 ≤ (updOps fullOps 0).length := by decide
theorem test_retired_operation_is_counted : fget (after (.updateOpRetire 1) heldOp) F.ledgerDoneDone1 = 1 ∧
    fget (after (.updateOpRetire 1) heldOp) F.ledgerDoneDone0 = 0 := by decide
/-- The flip of record 0 waits, its shadow set written or not. -/
def flipping (done : Bool) : State :=
  { fput ready0 F.ledgerStatusPending 1 with
    ledger := { flips := [0], shadows := [{ index := 0, step := 1, updated := done, emitted := true, merged := [true, false] }] } }
theorem wit_flips : fget ready0 F.ledgerStatusPending < 16 ∧ 16 ≤ fget (fput ready0 F.ledgerStatusPending 16) F.ledgerStatusPending ∧
    ready0.job.stopped = false ∧ (recordPanel ready0 0).isSome = true ∧ (recordPanel ready0 1).isSome = false ∧
    (shadowOf (flipping true) 0).updated = true ∧ (shadowOf (flipping false) 0).updated = false ∧
    (attached tinyPanel).all (fun x => (shadowOf (flipping true) 0).merged.contains x.g) = true ∧
    populatedRange (flipping true) (ledgerRecord (flipping true) 0) 64 = true ∧ fget (flipping true) F.ledgerStatusPending = 1 ∧
    flipMayComplete (setJob (flipping true) { (flipping true).job with ledgerCopiedStep := 0 }) 1 = true ∧
    flipMayComplete (flipping true) 1 = false := by decide +kernel
theorem wit_flips_clean : clean (flipping true) := clean_of _ rfl (by decide)

/-! ### Barges, storage and the Hold -/

/-- n bytes, zero but for those listed. -/
def bytesAt (n : Nat) (l : List (Nat × Byte)) : List Byte := (List.range n).map (fun i => Tab.get 0 l i)
/-- Two rows of one byte from 0x10000 to 0x20000, a run count at 0x30000; stream 31744 is firmware's. -/
def copyDesc : List (Nat × Byte) := [(0x02, 1), (0x0A, 2), (0x28, 2), (0x2C, 1), (0x30, 64), (0x34, 64), (0x5A, 3)]
def gatedDesc (base : Byte) : List (Nat × Byte) := copyDesc ++ [(0x53, 2), (0x62, 4), (0x68, base)]
def fwStart : BargeStart := { stream := 31744, job := false }
def withStream (l : List (Nat × Byte)) : State :=
  setBarge { State.reset with mem := (0x10000, 0xAB) :: l.map (fun p => (31744 * 128 + p.1, p.2)) } 0 { queue := [fwStart] }
def descOf (s : State) : List Byte := readBytes s (bargeDescAddr s 31744) 128
theorem test_copy_moves_a_row : memByte (after (.bargeStreamComplete 0) (after (.bargeStreamStart 0 []) (withStream copyDesc))) 0x20000 = 0xAB ∧
    readNat (after (.bargeStreamComplete 0) (after (.bargeStreamStart 0 []) (withStream copyDesc))) 0x30000 8 = 1 := by decide +kernel
def eight : State := setBarge State.reset 0 { queue := List.replicate 8 fwStart, held := [fwStart] }
theorem wit_starts : (bargeSt State.reset 0).queue.length < 8 ∧ (bargeSt State.reset 0).held = [] ∧ 8 ≤ (bargeSt eight 0).queue.length ∧
    fwStream 31743 = false ∧ fwStream 31744 = true ∧ fwStream 64512 = true ∧ bargeScheduled State.reset 0 = false ∧ Agent.host ≠ .fw ∧
    startDenied State.reset (.job 4) 31744 0 = true ∧ startDenied State.reset (.job 4) 5 0 = false ∧
    (bargeSt eight 0).held = fwStart :: [] ∧
    (bargeSt (setBarge State.reset 0 { held := [fwStart] }) 0).held = fwStart :: [] := by decide
theorem wit_streams : (bargeSt (withStream copyDesc) 0).queue = fwStart :: [] ∧ (bargeSt (withStream copyDesc) 0).cur = none ∧
    streamCause (withStream copyDesc) 0 fwStart (descOf (withStream copyDesc)) = 0 ∧
    streamCause (withStream []) 0 fwStart (descOf (withStream [])) ≠ 0 ∧ flag (withStream []) (F.bargeFaultValid 0) = false ∧
    streamGateOpen (withStream copyDesc) (descOf (withStream copyDesc)) = true ∧
    streamCause (withStream (gatedDesc 1)) 0 fwStart (descOf (withStream (gatedDesc 1))) = 0 ∧
    streamGateOpen (withStream (gatedDesc 1)) (descOf (withStream (gatedDesc 1))) = false := by decide +kernel
/-- Record 3 of the ward log of a job of one micro-batch has come from a port. -/
def warded : State := { tided with job := { st := 5, m := 1, wardLog := 0x40000 } }
def logDesc : List Byte := bytesOfNat 8 0 ++ bytesOfNat 8 0x400C0 ++ List.replicate 64 0 ++ [1] ++ List.replicate 47 0
theorem wit_ward_log : bdSrcKind logDesc = 1 ∧ bdDstKind logDesc = 0 ∧ jobLive warded = true ∧
    bdDst logDesc = dropRecordAddr warded warded.job.wardLog 3 ∧ bdSrcKind (descOf (withStream copyDesc)) ≠ 1 := by decide +kernel
theorem test_ward_log : memByte (sealWard warded logDesc) 0x400CC = 2 := by decide +kernel
theorem wit_gate_of_an_image : imageReady (withStream copyDesc) (descOf (withStream copyDesc)) = true ∧ meetErrors (withStream copyDesc) [] = withStream copyDesc := by
  decide +kernel
theorem wit_streams_clean : clean (withStream copyDesc) := clean_of _ rfl (by decide)
/-- A stream at its gate, whose value is its base or one more. -/
def atGate (base : Byte) : State :=
  setBarge State.reset 0 { cur := some { start := fwStart, desc := bytesAt 128 (gatedDesc base), phase := .gate } }
theorem wit_gate : (bargeSt (atGate 0) 0).cur = some { start := fwStart, desc := bytesAt 128 (gatedDesc 0), phase := .gate } ∧
    at_ (bytesAt 128 (gatedDesc 0)) 0x53 1 / 2 % 2 = 1 ∧
    (at_ (bytesAt 128 (gatedDesc 0)) 0x68 8 + at_ (bytesAt 128 (gatedDesc 0)) 0x54 4 * at_ (bytesAt 128 (gatedDesc 0)) 0x70 8) % 2 ^ 64 ≤
      readNat (atGate 0) (at_ (bytesAt 128 (gatedDesc 0)) 0x60 8) 8 ∧
    readNat (atGate 1) (at_ (bytesAt 128 (gatedDesc 1)) 0x60 8) 8 <
      (at_ (bytesAt 128 (gatedDesc 1)) 0x68 8 + at_ (bytesAt 128 (gatedDesc 1)) 0x54 4 * at_ (bytesAt 128 (gatedDesc 1)) 0x70 8) % 2 ^ 64 := by
  decide +kernel
theorem wit_copy : bdOp (descOf (withStream copyDesc)) = 0 ∧ bdGated (descOf (withStream copyDesc)) = false ∧
    bdDone (descOf (withStream copyDesc)) = 0x30000 ∧ fwStart.desc = none ∧
    0x30000 + 8 ≤ bargeDescAddr (withStream copyDesc) 31744 + 0x54 ∧
    (∀ i, i < 2 → ∀ j, j < 2 → bdSrc (descOf (withStream copyDesc)) + i * bdSrcPitch (descOf (withStream copyDesc)) + 1 ≤
      bdDst (descOf (withStream copyDesc)) + j * bdDstPitch (descOf (withStream copyDesc))) ∧
    (∀ j, j < 2 → bdDst (descOf (withStream copyDesc)) + j * bdDstPitch (descOf (withStream copyDesc)) + 1 ≤ 0x30000) := by decide +kernel
/-- One binary32 value of 0x10000 becomes bfloat16 at 0x20000. -/
def convDesc : List (Nat × Byte) := [(0x02, 1), (0x0A, 2), (0x28, 1), (0x2C, 1), (0x30, 64), (0x34, 64), (0x50, 0x20), (0x51, 0x23)]
def withFloat : State := { withStream convDesc with mem := (0x10000, 0x01) :: (0x10002, 0x80) :: (0x10003, 0x3F) :: convDesc.map (fun p => (31744 * 128 + p.1, p.2)) }
theorem wit_convert : (bargeSt withFloat 0).queue = fwStart :: [] ∧ (bargeSt withFloat 0).cur = none ∧
    streamCause withFloat 0 fwStart (descOf withFloat) = 0 ∧ bdOp (descOf withFloat) = 0x20 ∧ bdGated (descOf withFloat) = false ∧
    bdDstFmt (descOf withFloat) = 2 ∧ bdRows (descOf withFloat) = 1 ∧ bdSrc (descOf withFloat) + 4 ≤ bdDst (descOf withFloat) ∧
    bdDst (descOf withFloat) + 2 ≤ bargeDescAddr withFloat 31744 + 0x54 ∧ bdDone (descOf withFloat) + 8 ≤ bdDst (descOf withFloat) ∧
    bdNsr (descOf withFloat) + 32 ≤ bdDst (descOf withFloat) := by decide +kernel
theorem wit_convert_clean : clean withFloat := clean_of _ rfl (by decide)
/-- 1.0 + 2^−23 rounds to odd: the last bit of the result is set. -/
theorem test_convert_rounds_to_odd : readNat (after (.bargeStreamComplete 0) (after (.bargeStreamStart 0 []) withFloat)) 0x20000 2 = 0x3F81 := by
  decide +kernel
/-- A stream that is ready, from a Quay port or from storage. -/
def readyRun (kind : Byte) (phase : BargePhase) : BargeRun :=
  { start := fwStart, desc := bytesAt 128 [(0x02, 1), (0x0A, 2), (0x28, 4), (0x2C, 1), (0x50, kind)], phase := phase }
def runningStream (r : BargeRun) : State := setBarge State.reset 0 { cur := some r }
def arrived : State :=
  setPort (runningStream { readyRun 1 .ready with desc := bytesAt 128 [(0x00, 7), (0x0A, 2), (0x28, 4), (0x2C, 1), (0x50, 1)] }) 3
    { rx := [{ stream := 7, run := 0, closed := true, data := [1, 2, 3, 4] }] }
theorem wit_complete : (bargeSt (runningStream (readyRun 1 .ready)) 0).cur = some (readyRun 1 .ready) ∧ (readyRun 1 .ready).phase = .ready ∧
    bdSrcKind (readyRun 1 .ready).desc = 1 ∧ quayBytes (runningStream (readyRun 1 .ready)) (readyRun 1 .ready).desc = none ∧
    quayBytes arrived (bytesAt 128 [(0x00, 7), (0x0A, 2), (0x28, 4), (0x2C, 1), (0x50, 1)]) = some (3, [1, 2, 3, 4]) ∧
    bdSrcKind (readyRun 2 .ready).desc = 2 ∧ (readyRun 2 .gate).phase ≠ .ready ∧
    bdSrcKind (readyRun 0 .ready).desc = 0 ∧ (readyRun 0 .ready).writes = [] ∧
    (form (runningStream { readyRun 0 .ready with desc := bytesAt 128 [] }) (bytesAt 128 []) none).writes = [] := by decide +kernel
def reading (x : StorRead) (second : Bool) : BargeRun := readyRun 2 (.storage [x] second)
/-- The extent record asks for its digest. -/
def verified (second : Bool) : State := { runningStream (reading { port := 0 } second) with mem := [(0x10001, 1)] }
theorem wit_storage : (bargeSt (runningStream (reading { port := 0 } false)) 0).cur = some (reading { port := 0 } false) ∧
    (reading { port := 0, failed := 3 } false).phase = .storage [{ port := 0, failed := 3 }] false ∧
    [(1 : Byte), 2, 3, 4].length = min 0x100000 (bdRows (reading { port := 0 } false).desc * bdCols (reading { port := 0 } false).desc *
      srcEs (reading { port := 0 } false).desc - 0 * 0x100000) ∧ [(1 : Byte)].length ≠ 4 ∧
    ({ port := 0, data := some [1, 2, 3, 4] } : StorRead).data.isSome = true ∧
    at_ (readBytes (runningStream (reading { port := 0 } false)) (bdSrc (reading { port := 0 } false).desc) 64) 1 1 % 2 = 0 ∧
    at_ (readBytes (verified true) (bdSrc (reading { port := 0 } true).desc) 64) 1 1 % 2 = 1 ∧
    digest [1, 2, 3, 4] ≠ (readBytes (verified true) (bdSrc (reading { port := 0 } true).desc) 64).drop 32 ∧
    digest [1, 2, 3, 4] ≠ (readBytes (verified false) (bdSrc (reading { port := 0 } false).desc) 64).drop 32 ∧ 3 < 4 ∧ 4 ≤ 4 ∧
    flag State.reset F.storFaultValid = false ∧ jobLive State.reset = false ∧ flag State.reset F.errFirstValid = false ∧
    fwStream 5 = false := by decide +kernel
theorem test_fifth_failure_ends_the_stream :
    (bargeSt (after (.storageReadTimeout 0 0) (runningStream (reading { port := 0, failed := 4 } false))) 0).cur = none ∧
    fget (after (.storageReadTimeout 0 0) (runningStream (reading { port := 0, failed := 4 } false))) F.storFaultCause = 4 ∧
    fget (after (.storageReadTimeout 0 0) (runningStream (reading { port := 0, failed := 3 } false))) F.storRetryRetries = 1 := by decide +kernel
/-- Target 0 is reachable from port 1 alone. -/
theorem test_connections_follow_the_table :
    fget (after (.storageLinkChange 1 true 3 0) { State.reset with mem := [(0x12, 2)] }) (F.storPortConns 1) = 1 ∧
    fget (after (.storageLinkChange 0 true 3 0) { State.reset with mem := [(0x12, 2)] }) (F.storPortConns 0) = 0 := by decide +kernel

/-- The module's firmware runs, and no job does. -/
def firmware : State := put tided [(F.secBootStage, 7)]
theorem wit_hold : firmwareUp firmware = true ∧ (∀ l ∈ [0x23FFFFFF], l < 0x24000000) ∧ canRemap firmware 0 (firstPage 0 + 5) = true ∧
    canRemap live 0 (firstPage 0 + 5) = false := by decide +kernel
theorem wit_memory_errors : windowOf (0x1000#48).toNat = .berth ∧ windowOf (0x010000001000#48).toNat = .hold ∧ 1 ∉ retiredPages State.reset 0 := by
  decide +kernel
/-- A job runs; a row of Berth 41 has returned a corrected word just now. -/
def worn : State := { tided with job := { st := 5 }, sec := { tided.sec with rowsCorrected := [(0x14801000 / 128, tided.tide.now)] } }
theorem wit_worn_rows : windowOf (0x14801000#48).toNat = .berth ∧ betweenJobs worn = false ∧ 0x14801000 / 128 ∉ worn.sec.rowsWorn ∧
    ⟨3, 0, 41, 32, 0⟩ ∉ worn.sec.repairs ∧ (∃ x ∈ worn.sec.rowsCorrected, x.1 = 0x14801000 / 128 ∧ worn.tide.now ≤ x.2 + 86400000000000) ∧
    (∀ x ∈ worn.sec.rowsCorrected, x.1 ≠ 0x14802000 / 128) ∧ 0x14802000 / 128 ∉ worn.sec.rowsWorn ∧
    windowOf (0x100000001000#48).toNat = .whse := by decide +kernel
/-- Two replays of a Hold transfer; an error that cannot be corrected poisons its line. -/
theorem test_memory_errors : fget (meetError worn ⟨0x010000001000, .replayed 1⟩) (F.errMemHoldCorr 0) = 2 ∧
    fget (meetError worn ⟨0x010000001000, .replayed 1⟩) F.errCorrCorrected = 2 ∧
    poisoned (meetError worn ⟨0x1000, .uncorrectable⟩) 0x107F = true ∧
    poisoned (meetError worn ⟨0x1000, .uncorrectable⟩) 0x1080 = false ∧
    queuedPages (meetError worn ⟨0x010000001000, .uncorrectable⟩) 0 = [1] := by decide +kernel
/-- Physical row 32 of Berth 41 is a fault at its second corrected word; granule 1 of a Warehouse over two ports is on port 2. -/
theorem test_worn_row : (meetError worn ⟨0x14801000, .corrected⟩).sec.found = [⟨3, 0, 41, 32, 0⟩] ∧
    (meetError worn ⟨0x14802000, .corrected⟩).sec.found = [] ∧
    fget (meetError worn ⟨0x100000001000, .uncorrectable⟩) F.errWhseUncUnc2 = 1 ∧
    fget (meetError worn ⟨0x100000001000, .corrected⟩) F.errWhseCorr2 = 1 := by decide +kernel

/-! ### The Quays -/

/-- Port 2 in a state of Table 11-2. -/
def portIn (st : Nat) (x : Port) : State := setPort (fput tided (F.quayPortStateState 2) st) 2 x
def hall1 (st : Nat) : State := put (portIn st {}) [(F.quayHallHallTag, 7), (F.quayExpectFarIndex 2, 8), (F.quayExpectFarPort 2, 9)]
/-- An IDENT cell from module 8, port n. -/
def identWire (n : Nat) : List Byte :=
  wireOf (mkCell 4 (bytesOfNat 4 7 ++ bytesOfNat 2 8 ++ bytesOfNat 1 n ++ List.replicate 57 0))
theorem test_ident_decides : portState (after (.identReceive 2 (identWire 9) false) (hall1 2)) 2 = 3 ∧
    portState (after (.identReceive 2 (identWire 8) false) (hall1 2)) 2 = 4 := by decide +kernel
/-- CRC-32C of the nine digits, its published check value. -/
theorem test_crc32c : crc32c [0x31, 0x32, 0x33, 0x34, 0x35, 0x36, 0x37, 0x38, 0x39] = 0xE3069283 := by decide +kernel
def usedPort : State := { portIn 3 {} with job := { State.reset.job with st := 5 }, tide := { tided.tide with epoch := some epoch0 } }
theorem wit_ports : portState (portIn 0 {}) 2 = 0 ∧ flag (fput (portIn 0 {}) (F.quayExpectEn 2) 1) (F.quayExpectEn 2) = true ∧
    portState (fput (portIn 0 {}) (F.quayExpectEn 2) 1) 2 = 0 ∧ flag (portIn 0 {}) (F.quayExpectEn 2) = false ∧ 8 ≤ 8 ∧ portState (portIn 1 {}) 2 = 1 ∧ portState (portIn 2 {}) 2 = 2 ∧
    portState (portIn 4 {}) 2 = 4 ∧ jobLive (portIn 3 {}) = false ∧ portState usedPort 2 = 3 ∧ jobLive usedPort = true ∧
    entryOnPort usedPort 2 = some (entry 1 2 1 1 0x40) ∧ (port (hall1 2) 2).retraining = false ∧ (port (hall1 2) 2).reorder = [] ∧
    (cellIn (identWire 9) false).typ = 4 ∧ cellInError (cellIn (identWire 9) false) = false ∧
    (cellIn (identWire 9) false).lseq = (port (hall1 2) 2).rxSeq ∧
    identMatches (hall1 3) 2 (readIdent (cellIn (identWire 9) false).payload) = true ∧ portState (hall1 3) 2 = 3 ∧
    fget (portIn 3 {}) (F.quayPortStateLaneOut 2) ≠ 7 ∧ flag (portIn 3 {}) (F.quayPortStateSpareIn 2) = false ∧
    flag (fput (portIn 4 {}) (F.quayPortStateSpareIn 2) 1) (F.quayPortStateSpareIn 2) = true ∧
    fget (fput (portIn 4 {}) (F.quayPortStateSpareIn 2) 1) (F.quayPortStateLaneOut 2) ≠ 7 := by decide +kernel

/-- A DATA cell of stream 1, and a LINK cell. -/
def data1 : Cell := ⟨1, 1, 0, 0, 1, 0, 0, List.replicate 8 0, 0, false⟩
def linkWire (l : BitVec 32) (code : Nat) : List Byte := wireOf { mkCell 5 (linkPayload l code) with ack := BitVec.allOnes 32 }
theorem wit_wire : data1.payload.length ≤ 512 ∧ ([] : List Byte).length ≤ 512 := by decide
/-- A flipped payload bit fails pcrc, a flipped header bit hcrc. -/
theorem test_checks_find_a_flipped_bit : cellInError (cellIn (wireOf data1) false) = false ∧
    cellInError (cellIn ((wireOf data1).set 33 1) false) = true ∧ cellInError (cellIn ((wireOf data1).set 4 1) false) = true := by
  decide +kernel
def sendingPort : State := portIn 3 { tx := some { stream := 1, run := 4, cells := [data1] } }
def fullReplay : State := portIn 3 { tx := some { stream := 1, run := 4, cells := [data1] }, replay := List.replicate 1024 (data1, 0) }
theorem test_link_before_data : at_ (port (after (.cellTransmit 2) (setPort sendingPort 2
    { port sendingPort 2 with waiting := [mkCell 5 (linkPayload 0 1)] })) 2).lastTx 2 1 = 5 ∧
    at_ (port (after (.cellTransmit 2) sendingPort) 2).lastTx 0xE 2 = 4 := by decide +kernel
theorem wit_transmit : (∃ c ∈ (port (portIn 2 { waiting := [mkCell 5 []] }) 2).waiting, maySend (portIn 2 { waiting := [mkCell 5 []] }) 2 c = true) ∧
    (∀ c ∈ (port sendingPort 2).waiting, maySend sendingPort 2 c = false) ∧ nextData (port (portIn 3 {}) 2) = none ∧
    (port sendingPort 2).tx = some { stream := 1, run := 4, cells := [data1] } ∧ data1.typ = 1 ∧ isReplay data1 = false ∧
    inService sendingPort 2 = true ∧ (port sendingPort 2).retraining = false ∧ (port sendingPort 2).replay.length < 1024 ∧
    inService (portIn 2 { tx := some { stream := 1, run := 4, cells := [data1] } }) 2 = false ∧
    isLast data1 = false ∧ isLast { data1 with flags := 2 } = true ∧ isReplay { data1 with flags := 4 } = true ∧ (mkCell 2 []).typ = 2 ∧
    data1.stream.toNat = 1 ∧ nextData (port (portIn 3 { tx := some { stream := 2, run := 0 }, staging := [data1] }) 2) = none := by decide
theorem wit_transmit_full : 1024 ≤ (port fullReplay 2).replay.length ∧ (port fullReplay 2).waiting = [] := by decide +kernel
def replaying (n : Nat) : State := portIn 3 { replay := [(data1, n)] }
theorem wit_link : 2 ≤ portState (replaying 7) 2 ∧ portState (replaying 7) 2 ≤ 4 ∧ (port (replaying 7) 2).retraining = false ∧
    (cellIn (linkWire 0 1) false).typ = 5 ∧ cellInError (cellIn (linkWire 0 1) true) = true ∧ cellInError (cellIn (linkWire 0 3) false) = true ∧
    at_ (cellIn (linkWire 0 0) false).payload 4 1 = 0 ∧ at_ (cellIn (linkWire 0 2) false).payload 4 1 = 2 ∧
    cellInError (cellIn (linkWire 0 2) false) = false ∧ linkState (portIn 1 {}) 2 = false ∧ data1.typ ≠ 5 ∧
    (port (replaying 7) 2).replay.find? (fun y => decide (y.1.lseq = 0)) = some (data1, 7) ∧
    (port (replaying 8) 2).replay.find? (fun y => decide (y.1.lseq = 0)) = some (data1, 8) ∧
    (port (replaying 7) 2).replay.find? (fun y => decide (y.1.lseq = 1)) = none ∧
    (port (replaying 7) 2).replay.filter (fun x => seqBefore (cellIn (linkWire 0 1) false).ack x.1.lseq) = [(data1, 7)] ∧
    (port (replaying 7) 2).replay ≠ [] ∧ (port (portIn 3 {}) 2).replay = [] ∧
    portState (portIn 2 {}) 2 ≠ 3 ∧ jobLive (replaying 7) = false := by decide +kernel
theorem test_eighth_replay_is_the_last :
    (port (after (.linkCellReceive 2 (linkWire 0 1) false) (replaying 7)) 2).waiting.length = 1 ∧
    flag (after (.linkCellReceive 2 (linkWire 0 1) false) (replaying 8)) (F.quayPortStateRetryFail 2) = true := by decide +kernel
def receiving (x : Port) : State := portIn 3 { x with rx := [{ stream := 1, run := 0 }] }
theorem wit_numbered : inService (receiving {}) 2 = true ∧ (port (receiving {}) 2).retraining = false ∧
    cellInError (cellIn (wireOf data1) true) = true ∧ cellInError (cellIn (wireOf data1) false) = false ∧
    cellInError (cellIn (wireOf { data1 with typ := 6 }) false) = true ∧ (cellIn (wireOf { data1 with typ := 6 }) false).typ = 6 ∧
    (cellIn (wireOf data1) false).typ = 1 ∧
    seqBefore (cellIn (wireOf { data1 with lseq := 0xFFFFFFFF }) false).lseq (port (receiving {}) 2).rxSeq = true ∧
    seqBefore (cellIn (wireOf data1) false).lseq (port (receiving {}) 2).rxSeq = false ∧
    (port (receiving { reorder := [{ data1 with lseq := 3 }] }) 2).reorder.any (fun y => decide (y.lseq = 3)) = true ∧
    (port (receiving {}) 2).reorder = [] ∧ (cellIn (wireOf { data1 with lseq := 2 }) false).lseq = 2 ∧
    (port (receiving {}) 2).reorder.length < 1024 ∧ (cellIn (wireOf data1) false).lseq = (port (receiving {}) 2).rxSeq ∧
    inService (portIn 2 {}) 2 = false ∧ portState (portIn 1 {}) 2 < 2 ∧ seqBefore (port (receiving {}) 2).rxSeq 2 = true ∧
    (port (receiving { reorder := [data1] }) 2).reorder.find? (fun y => decide (y.lseq = (port (receiving { reorder := [data1] }) 2).rxSeq) &&
      takesType (receiving { reorder := [data1] }) 2 y.typ) = some data1 ∧
    (∀ y ∈ (port (receiving { reorder := [{ data1 with lseq := 3 }] }) 2).reorder, y.lseq ≠ (port (receiving {}) 2).rxSeq) ∧
    (port (portIn 3 {}) 2).rx.find? (fun r => decide (r.stream = data1.stream.toNat) && !r.closed) = none ∧
    (port (receiving {}) 2).rx.find? (fun r => decide (r.stream = data1.stream.toNat) && !r.closed) = some { stream := 1, run := 0 } ∧
    (0 : BitVec 16) ≠ ({ data1 with run := 1 } : Cell).run := by decide +kernel
/-- Cell 2 comes before 0 and 1: both are NAKed, and it waits. -/
theorem test_gap_is_naked : (port (after (.dataCellReceive 2 (wireOf { data1 with lseq := 2 }) false true) (receiving {})) 2).waiting =
    [mkCell 5 (linkPayload 0 1), mkCell 5 (linkPayload 1 1)] ∧
    (port (after (.dataCellReceive 2 (wireOf { data1 with lseq := 2 }) false true) (receiving {})) 2).rxSeq = 0 := by decide +kernel
def fullReorder : State := receiving { reorder := List.replicate 1024 data1 }
theorem wit_data_full : 1024 ≤ (port fullReorder 2).reorder.length ∧
    (port fullReorder 2).reorder.any (fun y => decide (y.lseq = 5000)) = false ∧ (5000 : BitVec 32) ≠ (port fullReorder 2).rxSeq := by
  decide +kernel
/-- Stream 1 combines 256 elements in 32-bit mode 4 on the last module, from 0x10000 into 0x20000. -/
def combining : State :=
  { receiving {} with mem := [(128, 4), (129, 1), (137, 1), (128 + 0x12, 1), (128 + 0x22, 2), (128 + 0x44, 1), (128 + 0x47, 4)] }
theorem wit_combine : sdMode (streamDesc combining 1) = 4 ∧ sdFinal (streamDesc combining 1) = true ∧ isFirst data1 = false ∧ isLast data1 = false ∧
    data1.cidx.toNat * 128 + data1.payload.length / 4 ≤ sdElems (streamDesc combining 1) ∧
    populatedRange combining (at_ (streamDesc combining 1) 0x20 8 + 4 * 128) (4 * (data1.payload.length / 4)) = true ∧
    phantom (streamDesc combining 1) 128 = false ∧ (cellIn (wireOf data1) false).cidx = 1 ∧ (cellIn (wireOf data1) false).payload.length = 8 := by decide +kernel
theorem wit_combine_clean : clean combining := clean_of _ rfl (by decide)
def gatedTx (base : Byte) : State :=
  { portIn 3 { tx := some { stream := 1, run := 0, gated := true } } with mem := [(129, 4), (128 + 0x4A, 4), (128 + 0x50, base)] }
def gatedRx (base : Byte) : State :=
  { portIn 3 { rx := [{ stream := 1, run := 0, gated := true }] } with mem := [(129, 4), (128 + 0x4A, 4), (128 + 0x50, base)] }
theorem wit_gates : (port (gatedTx 0) 2).tx = some { stream := 1, run := 0, gated := true } ∧
    gateOpen (gatedTx 0) (streamDesc (gatedTx 0) 1) = true ∧ gateOpen (gatedTx 1) (streamDesc (gatedTx 1) 1) = false ∧
    (port (gatedTx 0) 2).rx.find? (fun r => r.gated && !r.closed) = none ∧
    (port (gatedRx 0) 2).rx.find? (fun r => r.gated && !r.closed) = some { stream := 1, run := 0, gated := true } ∧
    rxWaits (gatedRx 0) (streamDesc (gatedRx 0) 1) = false ∧ rxWaits (gatedRx 1) (streamDesc (gatedRx 1) 1) = true ∧
    (port (gatedRx 0) 2).tx = none := by decide +kernel
theorem wit_gates_clean : clean (gatedTx 0) := clean_of _ rfl (by decide)

/-! ### Launching and ending a job -/

/-- Bytes cellsOf out by (offset, bytes, value), the offsets rising; only the bytes that are not zero are listed. -/
def cellsOf (base : Nat) (l : List (Nat × Nat × Nat)) : List (Nat × Byte) :=
  l.flatMap (fun x => ((List.range x.2.1).map (fun i => (base + x.1 + i, BitVec.ofNat 8 (x.2.2 / 256 ^ i)))).filter (fun y => decide (y.2 ≠ 0)))
def pageOf (l : List (Nat × Nat × Nat)) : List Byte := bytesAt 240 (cellsOf 0 l)
/-- A module that is ready, at a whole microsecond. -/
def ready (s : State) : State := at_ns 66000 (fput s F.secBootStage 7)
/-- A launch page with command 1 and sequence number 1; a service page with command c; a switch request 1. -/
def launchMem : List (Nat × Byte) :=
  cellsOf launchArea [(0, 4, 0x4C584759), (4, 2, 1), (6, 1, 1), (8, 4, 1), (0xF0, 16, 0x176ebcc03c15650a8ef6f78a7e300a3d)]
def launchPage (st : Nat) : State := { ready State.reset with mem := launchMem, job := { st := st } }
def serviceMem (c check : Nat) : List (Nat × Byte) :=
  cellsOf (switchPage + 0x400) [(0, 4, 0x53525859), (4, 1, c), (8, 4, 1), (0xF0, 16, check)]
def serviceMem0 : List (Nat × Byte) := serviceMem 0 0xbdc8c116d4db4d68f129e32267fe066a
def serviceMem4 : List (Nat × Byte) := serviceMem 4 0xf069fdfef758cae19739d10adb7848f
def servicePage (m : List (Nat × Byte)) (st : Nat) : State := { ready State.reset with mem := m, job := { st := st } }
def switching (state0 : Nat) : State :=
  { put (ready State.reset) [(F.manifestSlotState 1, state0)] with mem := [(switchPage + 0x18, 1)], job := { st := 5, curStep := 4, m := 8 } }

theorem wit_poll : (ready State.reset).tide.running = true ∧ (ready State.reset).tide.now % 1000 = 0 ∧ bootStageOf (ready State.reset) = 7 ∧
    pwrState (ready State.reset) < 4 ∧ State.reset.tide.running = false := by decide
theorem wit_poll_clean : clean (ready State.reset) := clean_of _ rfl (by decide)
theorem launch_valid (s : State) (h : s.mem = launchMem) :
    shake256 16 ((readBytes s launchArea 256).take 0xF0) = (readBytes s launchArea 256).drop 0xF0 := by
  simp only [readBytes, memByte, h]
  decide +kernel
theorem service_valid (s : State) (h : s.mem = serviceMem0 ∨ s.mem = serviceMem4) :
    shake256 16 ((readBytes s (switchPage + 0x400) 256).take 0xF0) = (readBytes s (switchPage + 0x400) 256).drop 0xF0 := by
  rcases h with h | h <;> simp only [readBytes, memByte, h] <;> decide +kernel
/-- PREPARE is taken in IDLE and refused while a job runs. -/
theorem wit_launch_page (st : Nat) (h : st = 0 ∨ st = 5) : let s := launchPage st
    s.job.cmd = none ∧ at_ (readBytes s launchArea 256) 0 4 = 0x4C584759 ∧ at_ (readBytes s launchArea 256) 4 2 = 1 ∧
    shake256 16 ((readBytes s launchArea 256).take 0xF0) = (readBytes s launchArea 256).drop 0xF0 ∧
    s.job.acked.toNat ≠ at_ (readBytes s launchArea 256) 8 4 ∧
    launchPermitted s (at_ (readBytes s launchArea 256) 6 1) = decide (st = 0) := by
  rcases h with rfl | rfl <;>
    exact ⟨rfl, by decide +kernel, by decide +kernel, launch_valid _ rfl, by decide +kernel, by decide +kernel⟩
/-- DRAIN is taken while a job runs and refused in IDLE; code 0 names no command. -/
theorem wit_service_page (m : List (Nat × Byte)) (st : Nat) (h : m = serviceMem0 ∧ st = 0 ∨ m = serviceMem4 ∧ (st = 0 ∨ st = 5)) :
    let s := servicePage m st
    s.svc.req = none ∧ at_ (readBytes s (switchPage + 0x400) 256) 0 4 = 0x53525859 ∧
    shake256 16 ((readBytes s (switchPage + 0x400) 256).take 0xF0) = (readBytes s (switchPage + 0x400) 256).drop 0xF0 ∧
    s.svc.acked.toNat ≠ at_ (readBytes s (switchPage + 0x400) 256) 8 4 ∧
    (m = serviceMem0 → at_ (readBytes s (switchPage + 0x400) 256) 4 1 = 0) ∧
    (m = serviceMem4 → at_ (readBytes s (switchPage + 0x400) 256) 4 1 = 4 ∧ svcPermitted s 4 = decide (st = 5)) := by
  have h4 : ¬serviceMem4 = serviceMem0 := by decide +kernel
  rcases h with ⟨rfl, rfl⟩ | ⟨rfl, rfl | rfl⟩
  · exact ⟨rfl, by decide +kernel, service_valid _ (.inl rfl), by decide +kernel, fun _ => by decide +kernel, fun e => absurd e.symm h4⟩
  · exact ⟨rfl, by decide +kernel, service_valid _ (.inr rfl), by decide +kernel, fun e => absurd e h4, fun _ => by decide +kernel⟩
  · exact ⟨rfl, by decide +kernel, service_valid _ (.inr rfl), by decide +kernel, fun e => absurd e h4, fun _ => by decide +kernel⟩
theorem wit_switch_request : fget (switching 0) F.manifestPinAfterSlot < 2 ∧ (switching 0).job.st = 5 ∧ (switching 0).job.switchReq = false ∧
    (switching 0).job.switchSeq.toNat ≠ readNat (switching 0) (switchPage + 0x18) 4 ∧ fget (switching 0) (F.manifestSlotState 1) ≠ 3 ∧
    fget (switching 3) (F.manifestSlotState (1 - fget (switching 3) F.manifestPinAfterSlot)) = 3 ∧ (ready State.reset).job.st ≠ 5 := by decide

/-- A job image at the start of the Hold: two ranks, of which this module is rank 0 and its Partner is reached through port 5;
no stream; a Tide Table of one entry; no thread; one region, read only, over the drop log and the drop gate. -/
def imageLayout : List (Nat × Nat × Nat) :=
  [(0, 4, 0x494A5859), (4, 2, 1), (6, 2, 14), (8, 8, 77), (0x18, 4, 2), (0x1C, 2, 1), (0x1E, 2, 4)] ++
  [(64, 2, 1), (68, 4, 2), (72, 8, 320), (80, 2, 2), (84, 4, 1), (88, 8, 384), (96, 2, 3), (112, 2, 4), (116, 4, 1), (120, 8, 512)] ++
  [(128, 2, 5), (144, 2, 6), (160, 2, 7), (176, 2, 8), (192, 2, 9), (208, 2, 10), (224, 2, 11), (240, 2, 12), (256, 2, 13), (264, 8, 832)] ++
  [(272, 2, 14), (276, 4, 1), (280, 8, 1216), (322, 2, 1), (328, 4, 0x50001)] ++
  [(384, 4, 0x54545859), (388, 2, 1), (396, 4, 1), (400, 4, 255), (408, 8, 77),
    (416, 32, 0x53461753c4e82933e2810ddb8194fda58b907449e6ff4b6c4009b5e8a2eeb72f), (448, 16, 0x0600000100000000)] ++
  [(520, 4, 0x3F3F3F3F), (568, 4, 0x200001), (960, 8, 0x10000100009), (968, 8, 0x100001FF000)] ++
  [(1216, 8, 0x10000500000), (1224, 8, 0x10000600000), (1232, 8, 0x10000700000), (1240, 4, 0xFFFFFFFF), (1248, 8, 328),
    (1256, 8, 0x10000300000), (1264, 8, 0x10000400000), (1272, 8, 4096), (1280, 8, 0x10000100000), (1288, 8, 0x10000180000),
    (1296, 8, 0x10000200000)]
def manifestHead : List Byte :=
  bytesAt 64 (cellsOf 0 [(0, 4, 0x464E4D59), (4, 2, 1), (8, 4, 1), (0x18, 8, 8192), (0x20, 8, 4096)])
def manifestDigest : Nat := 0xfaaecb4a159ba9db0100f0d4ea3fba09b3fa4841859146abe8519618826ce843
/-- A Manifest that names no layer: its header, one directory entry, and nothing in the table that the entry places at 4,160. -/
def obs0 : LoadObs :=
  ⟨manifestHead ++ bytesOfNat 32 manifestDigest ++ List.replicate 4008 0 ++ bytesOfNat 8 4160 ++ List.replicate 4080 0, true⟩
/-- The launch page of PREPARE, whose bytes 0x30 to 0x4F are a given digest. -/
def preparePage (addr : Nat) (dig : List Byte) : List Byte :=
  bytesAt 48 (cellsOf 0 [(6, 1, 1), (8, 4, 1), (0x10, 8, 77), (0x18, 8, 9), (0x20, 8, addr), (0x28, 8, 1344)]) ++
    bytesOfNat 32 (natOfBytes dig) ++ List.replicate 32 0 ++ bytesOfNat 32 manifestDigest
def preparing (fs : List (Field × Nat)) (dig : List Byte) : State :=
  { put tided fs with mem := cellsOf holdBase imageLayout, storConn := [(0, 1)], job := { cmd := some 1, page := preparePage holdBase dig } }
/-- Locked, with a Ballast floor; with no floor and a hall tag that is not the image's; not locked; with a check running. -/
def onFloor (n : Nat) : List (Field × Nat) := [(F.tideStateLockState, 2), (F.pwrRampFloor, n)]
def tagged : List (Field × Nat) := [(F.tideStateLockState, 2), (F.quayHallHallTag, 5)]
def begun (s : State) : State := setJob s { s.job with st := 1, jobId := BitVec.ofNat 64 (at_ s.job.page 0x10 8) }
def imageDigest : List Byte := digest (readBytes (preparing [] []) holdBase 1344)
theorem preparePage_digest (m : List Byte) : ((preparePage holdBase (digest m)).drop 0x30).take 32 = digest m := by
  have h := bytesOfNat_natOfBytes (digest m)
  rw [digest_length] at h
  simp only [preparePage, List.append_assoc]
  rw [List.drop_left' (by simp [bytesAt]), List.take_left' (by simp), h]
theorem preparing_image (fs : List (Field × Nat)) :
    readBytes (begun (preparing fs imageDigest)) holdBase 1344 = readBytes (preparing [] []) holdBase 1344 := by
  unfold readBytes
  with_reducible apply List.map_congr_left
  intro i hi
  simp only [List.mem_range] at hi
  rw [begun, setJob, writeStatus, memByte_writeBytes, if_neg (by simp only [statusPage, holdBase]; omega)]
  simp only [memByte, preparing]
/-- The conditions that fail first: not locked, an image that does not lie in the Hold, and a digest that is not the page's. -/
def misplaced : State := begun { put tided (onFloor 0) with job := { cmd := some 1, page := preparePage 0x1000 [] } }
def unprepared : State := { put tided [(F.tideStageStatusStageState, 4)] with job := { cmd := some 1, page := preparePage holdBase [] } }
theorem wit_prepare_refused : lockState (begun (preparing [] [])) ≠ 2 ∧ lockState misplaced = 2 ∧
    imagePlaced misplaced (at_ misplaced.job.page 0x20 8) (at_ misplaced.job.page 0x28 8) = false ∧
    (preparing [] []).job.ramping = false ∧ stageState unprepared = 4 ∧ unprepared.job.cmd = some 1 := by decide +kernel
def wrongDigest : State := begun { put tided (onFloor 0) with
    job := { cmd := some 1, page := bytesAt 256 (cellsOf 0 [(0x20, 8, holdBase), (0x28, 8, 64)]) } }
theorem wit_prepare_digest : imagePlaced wrongDigest (at_ wrongDigest.job.page 0x20 8) (at_ wrongDigest.job.page 0x28 8) = true ∧
    digest (readBytes wrongDigest (at_ wrongDigest.job.page 0x20 8) (at_ wrongDigest.job.page 0x28 8)) ≠
      (wrongDigest.job.page.drop 0x30).take 32 ∧ lockState wrongDigest = 2 := by decide +kernel

/-- A launch command in a launch state, its at_ns given. -/
def launching (cmd st at_ns stage : Nat) (gr : BitVec 5) : State :=
  { fput tided F.tideStageStatusStageState stage with
    stage := { groups := gr }, job := { cmd := some cmd, st := st, commitNs := 70000, page := bytesAt 256 (cellsOf 0 [(0x50, 8, at_ns)]) } }
theorem test_arm : (after .arm (launching 2 2 98304 2 3#5)).job.st = 4 ∧ (after .arm (launching 2 2 98305 2 3#5)).job.result = 0xA := by
  decide +kernel
theorem wit_arm_cmd : (launching 2 2 98304 2 3#5).job.cmd = some 2 ∧ (launching 2 2 98304 2 3#5).job.ramping = false ∧
    at_ (launching 2 2 98304 2 3#5).job.page 0x50 8 = 98304 ∧ 98304 % 16384 = 0 ∧ (launching 2 2 98304 2 3#5).tide.now + 16384 ≤ 98304 ∧
    stageState (launching 2 2 98304 2 3#5) = 2 ∧ fget (launching 2 2 98304 2 3#5) F.tideStageStatusOwner = 0 ∧
    (launching 2 2 98304 2 3#5).stage.groups = 3#5 ∧ stageState (launching 2 2 98304 4 3#5) = 4 ∧
    at_ (launching 2 2 81919 2 3#5).job.page 0x50 8 < (launching 2 2 81919 2 3#5).tide.now + 16384 ∧
    (launching 2 2 98304 2 4#5).stage.groups ≠ 3#5 := by decide +kernel
theorem wit_abort : (launching 3 4 0 4 3#5).job.cmd = some 3 ∧ (launching 3 4 0 4 3#5).job.st = 4 ∧
    (launching 3 4 0 4 3#5).job.commitNs.toNat < (launching 3 4 0 4 3#5).tide.now + 16384 ∧ (launching 3 2 0 2 3#5).job.st = 2 ∧
    stageState (launching 3 2 0 2 3#5) = 2 ∧ fget (launching 3 2 0 2 3#5) F.tideStageStatusOwner = 0 ∧ (launching 3 3 0 3 3#5).job.st = 3 ∧
    (launching 4 5 0 0 0#5).job.cmd = some 4 ∧ (launching 4 5 0 0 0#5).job.ramping = false ∧ tided.job.cmd = none := by decide
/-- One Tide ns holds the commit of a job whose one thread starts at 0x103. -/
def startingJob (resume : BitVec 32) : State :=
  { fput tided F.tideStageStatusStageState 5 with job := { st := 4, commitNs := 65536, threads := [(4, 0x103)], resumeStep := resume, diag := true } }
theorem wit_launch_commit : (startingJob 7).tide.running = true ∧ (startingJob 7).job.st = 4 ∧
    (startingJob 7).job.commitNs.toNat = (startingJob 7).tide.now ∧ stageState (startingJob 7) = 5 ∧ ((startingJob 7).job.threads.map (·.1)).Nodup ∧
    (startingJob 0xFFFFFFFF).job.resumeStep = 0xFFFFFFFF ∧ (startingJob 7).job.resumeStep ≠ 0xFFFFFFFF ∧ (4, 0x103) ∈ (startingJob 7).job.threads ∧
    tided.job.st ≠ 4 := by decide
theorem test_commit_starts_the_thread : (thread (after .launchCommit (startingJob 7)) 4).pc = 0x100 ∧
    (after .launchCommit (startingJob 7)).job.curStep = 8 := by decide +kernel
def endingAt (t : Nat) : State := { tided with job := { st := 5, endAt := some t } }
/-- Faults of a running job: a Tug fault, a rejected Crane command, a rejected stream of die 1 and a storage digest. -/
def faulted : State :=
  { put tided [(F.tugFaultValid 0, 1), (F.craneRejectValid 3, 1)] with job := { st := 5, rejected := [1], digestFault := true } }
def quietEnd : State := { tided with job := { st := 6 } }
def busyEnd : State := setCrane quietEnd 2 { fgq := [(0, 0)] }
theorem wit_end : (endingAt 65536).job.endAt = some 65536 ∧ (endingAt 65536).job.st = 5 ∧ 65536 ≤ (endingAt 65536).tide.now ∧
    (endingAt 65537).tide.now < 65537 ∧ faulted.job.st = 5 ∧ flag faulted (F.tugFaultValid 0) = true ∧
    flag faulted (F.craneRejectValid 3) = true ∧ (1 : Die).val ∈ faulted.job.rejected ∧ faulted.job.digestFault = true ∧
    faultCaptured faulted (.tug 1) = false ∧ faultCaptured faulted (.barge 0) = false := by decide
theorem wit_quiet : quietEnd.job.st = 6 ∧ quiet quietEnd = true ∧
    quiet busyEnd = false ∧ busyEnd.job.st = 6 := by decide +kernel
def securing : State := { tided with job := { st := 5, s := 2, curStep := 5, genBytes := 4096, homeArea := holdBase, confirmed := 4 } }
/-- The same with one extent, of no byte, whose digest the table does not give. -/
def unmatched : State := { securing with job := { securing.job with extents := 1 } }
theorem wit_secure : jobLive securing = true ∧ (4#32).toNat % securing.job.s = 0 ∧ (4#32).toNat < securing.job.curStep ∧
    securing.job.curStep ≤ (6#32).toNat ∧ (4#32) = securing.job.confirmed ∧ (4#32) ≠ 0xFFFFFFFF ∧ jobLive tided = false ∧
    genExtents securing false 4 = 0 ∧ extentsMatch securing (genBase securing false 4) 0 = true ∧
    genExtents securing true 4 = 0 ∧ extentsMatch securing (genBase securing true 4) 0 = true ∧
    genExtents unmatched false 4 = 1 ∧ extentsMatch unmatched (genBase unmatched false 4) 1 = false := by decide +kernel
theorem test_partner_confirms : fget (after (.secureGenerationComplete false 4) securing) F.errSecureSecuredStep = 4 ∧
    fget (after (.secureGenerationComplete false 2) securing) F.errSecureSecuredStep = fget securing F.errSecureSecuredStep := by
  decide +kernel
/-- An extent that does not match leaves its generation with state 0 (R390). -/
theorem test_mismatch_leaves_state_0 :
    readNat (after (.secureGenerationComplete false 4) (writeNat unmatched (genBase unmatched false 4) 8 0x0100000100000000)) (genBase unmatched false 4) 8 =
      0x0000000143535859 := by decide +kernel
/-- A request for step 6, the Reads of whose Manifest did not complete; with a slot that is ready, firmware's own write. -/
def switchAsked (step mb : Nat) : State :=
  { switching 1 with job := { st := 5, curStep := 4, m := 8, switchReq := true, switchPage := bytesAt 64 (cellsOf 0 [(0x10, 4, step), (0x14, 2, mb)]) } }
theorem wit_switch : fget (switchAsked 6 3) F.manifestPinAfterSlot < 2 ∧ jobLive (switchAsked 6 3) = true ∧
    (switchAsked 6 3).job.switchReq = true ∧ jobLive tided = false ∧ (switching 2).job.switchReq = false := by decide
/-- Codes 2 and 1 of a request whose Manifest was not loaded; a slot made ready by the Harbourmaster is accepted, or has code 5. -/
theorem test_switch_codes :
    fget (after (.manifestSwitch ⟨[], false⟩) (switchAsked 6 3)) F.manifestResultCode = 2 ∧
    fget (after (.manifestSwitch ⟨[], false⟩) (switchAsked 5 3)) F.manifestResultCode = 1 := by decide +kernel
def restoring (step : BitVec 32) : State :=
  { tided with job := { st := 5, s := 1, resumeStep := step, dropGate := 0x1000, homeArea := holdBase, genBytes := 4096 } }
/-- The generation of step 7 in the second half of the home area, with no extent. -/
def genHead : List Byte := bytesOfNat 4 0x43535859 ++ bytesOfNat 2 1 ++ bytesOfNat 1 1 ++ bytesOfNat 1 1 ++ bytesOfNat 4 0 ++ bytesOfNat 4 7 ++
  bytesOfNat 8 0 ++ bytesOfNat 4 0 ++ bytesOfNat 4 0
def genDigest : Nat := 0x52fd1580f1a24feb41fa1b6dd4ac597a1f9a76ac864a30414d092f1d5401d7e2
def restorable : State :=
  { restoring 7 with mem := cellsAt (holdBase + 4096) (genHead ++ bytesOfNat 32 genDigest) }
theorem wit_restore : jobLive (restoring 7) = true ∧ (restoring 7).job.restored = false ∧ (restoring 7).job.resumeStep = 7 ∧ (7 : BitVec 32) ≠ 0xFFFFFFFF ∧
    genVerifies (restoring 7) 7 = false ∧ (restoring 7).job.dropGate + 8 ≤ statusPage ∧ (restoring 7).job.resumeStep ≠ 8 ∧
    jobLive restorable = true ∧ restorable.job.restored = false ∧ restorable.job.resumeStep = 7 ∧ genVerifies restorable 7 = true ∧
    pinnedOk restorable ⟨[], false⟩ (versionDigest restorable [] 0) = false := by decide +kernel
/-- With the launch's Manifest, or with a switch at micro-batch 2 of the step resumed, the pins' Manifests are loaded. -/
def restorable0 : State := { restorable with job := { restorable.job with mf0 := mfHead obs0.manifest } }
def logged : List SwitchRec := [⟨8, 2, 1, bytesOfNat 32 manifestDigest⟩]
theorem wit_restore_loaded : genVerifies restorable0 7 = true ∧ beforePinned [] 8 = false ∧ beforePinned logged 8 = true ∧
    pinnedOk restorable0 obs0 (versionDigest restorable0 [] 0) = true ∧ pinnedOk restorable0 obs0 (versionDigest restorable0 logged 1) = true := by
  decide +kernel

/-! ### Performance monitoring -/

/-- Action a armed for an instant that has come; PERF_SNAP_AT names an instant. -/
def perfArmed (a : Nat) : State := { fput tided F.perfCtlArmed 1 with perf := { armedAction := a, armedAt := 65000, ctr := [(2, 9)] } }
def snapAt (t : Nat) : State := fput tided F.perfSnapAtAtNs t
theorem wit_actions : (snapAt 66560).tide.now + 1024 ≤ fget (snapAt 66560) F.perfSnapAtAtNs ∧
    fget (snapAt 66559) F.perfSnapAtAtNs < (snapAt 66559).tide.now + 1024 ∧ (perfArmed 0).tide.running = true ∧
    flag (perfArmed 0) F.perfCtlArmed = true ∧ (perfArmed 0).perf.armedAction = 0 ∧ (perfArmed 1).perf.armedAction = 1 ∧
    (perfArmed 2).perf.armedAction = 2 ∧ (perfArmed 0).perf.armedAt ≤ (perfArmed 0).tide.now ∧ flag tided F.perfCtlArmed = false ∧
    (2#2).toNat < 3 := by decide
theorem test_snap_takes_the_armed_time : fget (after .snapAction (perfArmed 0)) F.perfSnapTideT = 65000 ∧
    Tab.get 0 (after .snapAction (perfArmed 0)).perf.snapCtr 2 = 9 := by decide
/-- Counter 2 counts class 1 event 1 of unit 0 at its maximum; with chain on the odd half. -/
def counting (chain : Nat) : State :=
  { put tided [(F.perfSelEn 2, 1), (F.perfSelCls 2, 1), (F.perfSelEvent 2, 1), (F.perfSelChain 3, chain), (F.perfCtlFreezeOnOvf, 1)] with
    perf := { run := true, ctr := [(2, 2 ^ 48 - 1)] } }
theorem wit_overflow : (counting 0).perf.run = true ∧ flag (counting 0) (F.perfSelEn 2) = true ∧ selBad (counting 0) 2 = false ∧
    1 ≤ 1020 ∧ 2 ^ 48 - 1 < Tab.get 0 (counting 0).perf.ctr 2 + 1 ∧ Tab.get 0 (counting 0).perf.ctr 2 < 2 ^ 48 ∧
    chained (counting 0) 2 = false ∧ chained (counting 1) 2 = true ∧ selBad (counting 1) 2 = false ∧
    Tab.get 0 (counting 1).perf.ctr (2 + 1) < 2 ^ 48 - 1 := by decide
theorem get_listed (d : Nat) (t : Tab Nat) (k : Nat) : Tab.get d t k = d ∨ ∃ c ∈ t, c.2 = Tab.get d t k := by
  induction t with
  | nil => exact .inl rfl
  | cons c t ih =>
    unfold Tab.get
    split
    · exact .inr ⟨c, by simp, rfl⟩
    · rcases ih with h | ⟨x, hx, h⟩
      · exact .inl h
      · exact .inr ⟨x, List.mem_cons_of_mem _ hx, h⟩
theorem wit_no_class_seven (k : Nat) : fget (counting 0) (F.perfSelCls k) ≠ 7 := by
  rcases get_listed 0 (counting 0).fields (fieldKey (F.perfSelCls k)) with h | ⟨c, hc, h⟩
  · exact fun h7 => absurd (h.symm.trans h7) (by decide)
  · exact fun h7 => absurd (h.trans h7) ((by decide : ∀ c ∈ (counting 0).fields, c.2 ≠ 7) c hc)
theorem test_overflow : Tab.get 0 (after (.counterOverflow 2 1) (counting 0)).perf.ctr 2 = 2 ^ 48 - 1 ∧
    (after (.counterOverflow 2 1) (counting 0)).perf.run = false ∧ Tab.get 0 (after (.counterOverflow 2 2) (counting 1)).perf.ctr 2 = 1 ∧
    Tab.get 0 (after (.counterOverflow 2 2) (counting 1)).perf.ctr 3 = 1 := by decide +kernel
/-- Sampling of both kinds into a ring of one page; the same ring under a writable region. -/
def ringed (wr : Nat) (x : PerfSt) : State :=
  { put tided [(F.perfSampBaseBase, holdBase / 4096), (F.perfSampCtlPeriod, 100), (F.perfSampCtlCranePeriod, 50), (F.perfSampCtlTugEn, 1),
      (F.perfSampCtlCraneEn, 1), (F.perfSampCtlFwIncl, 1), (F.tugRegionBaseEn 0 3, wr), (F.tugRegionBaseWr 0 3, wr),
      (F.tugRegionLimitLast 0 3, 2 ^ 36 - 1)] with perf := x }
theorem wit_ring : ringOk (ringed 0 {}) = true ∧ ringOk (ringed 1 {}) = false ∧ flag tided F.perfSampCtlTugEn = false ∧
    flag tided F.perfSampCtlCraneEn = false := by decide +kernel
def tag0 : Tag := ⟨4, false, 8, 5, 0x1000, 2, false, false, 0, some 65000⟩
def sampled (x : PerfSt) : State := setThread (ringed 0 x) 4 { pc := 8, st := .run }
theorem wit_tug_select : flag (sampled {}) F.perfSampCtlTugEn = true ∧ fget (sampled {}) F.perfSampCtlPeriod ≠ 0 ∧
    (4 : Tid).val / 4 = (1 : Fin 128).val ∧ isJobThread 4 = true ∧ (thread (sampled {}) 4).st = .run ∧
    Tab.get 0 (sampled {}).perf.tugLeft 1 = 0 ∧ Tab.get none (sampled {}).perf.tugTag 1 = none ∧
    Tab.get none (sampled { tugTag := [(1, some tag0)] }).perf.tugTag 1 = some tag0 := by decide
def samplingCrane (x : PerfSt) : State := setCrane (ringed 0 x) 3 { fgq := [(6, 0x2B00000000000000)], bgq := [(1, 0)] }
theorem wit_crane_select : lastAccepted (crane (samplingCrane {}) 3) .fg = some (6, 0x2B00000000000000) ∧
    lastAccepted (crane (samplingCrane {}) 3) .bg = some (1, 0) ∧ flag (samplingCrane {}) F.perfSampCtlFwIncl = true ∧
    flag (samplingCrane {}) F.perfSampCtlCraneEn = true ∧ fget (samplingCrane {}) F.perfSampCtlCranePeriod ≠ 0 ∧
    Tab.get 0 (samplingCrane {}).perf.craneLeft 3 = 0 ∧ Tab.get none (samplingCrane {}).perf.craneTag 3 = none := by decide
def recording (done : Option Nat) : State := ringed 0 { tugTag := [(1, some tag0)], craneTag := [(3, some { tag0 with doneAt := done })] }
theorem wit_record : Tab.get none (recording none).perf.tugTag 1 = some tag0 ∧ ringFull (recording none) = false ∧
    populatedRange (recording none) (fget (recording none) F.perfSampBaseBase * 4096 +
      fget (recording none) F.perfSampHeadHead % (2 ^ fget (recording none) F.perfSampBaseK * 64) * 64) 64 = true ∧
    ringFull (fput (recording none) F.perfSampHeadHead 64) = true ∧
    Tab.get none (recording none).perf.craneTag 3 = some { tag0 with doneAt := none } ∧
    Tab.get none (recording (some 1)).perf.craneTag 3 = some { tag0 with doneAt := some 1 } ∧
    ringFull (recording (some 1)) = false ∧ Tab.get none tided.perf.craneTag 3 = none ∧ Tab.get none tided.perf.tugTag 1 = none := by
  decide +kernel
theorem test_record : memByte (after (.sampleRecordWrite false 1 7 2 0) (recording none)) holdBase = 1 ∧
    readNat (after (.sampleRecordWrite false 1 7 2 0) (recording none)) (holdBase + 0x1C) 4 = 7 ∧
    readNat (after (.sampleRecordWrite false 1 7 2 0) (recording none)) (holdBase + 0x2C) 4 = 2 := by decide +kernel

/-! ### Power, start-up, trust and service -/

def atSec (x : SecSt) (s : State) : State := { s with sec := x }
def atPwr (n : Nat) (s : State) : State := fput s F.pwrStateState n
def poweredAt (phase : Nat) (s : State) : State := atSec { powered := true, phase := phase, faultLog := [7] } { s with perf := { tc := 2400000 } }
theorem wit_power : State.reset.sec.powered = false ∧ State.reset.sec.offLatched = false ∧ 4800 ≤ 6000 ∧ 6000 ≤ 6000 ∧
    (poweredAt 0 tided).sec.powered = true ∧ (poweredAt 0 tided).sec.halted = false ∧ pwrState (poweredAt 0 tided) ≤ 3 ∧
    (poweredAt 0 tided).sec.phase = 0 ∧ 1 ≤ (poweredAt 3 tided).sec.phase ∧ (poweredAt 3 tided).sec.phase < 8 ∧
    (poweredAt 3 tided).sec.phaseAt + 2400000 ≤ (poweredAt 3 tided).perf.tc.toNat ∧
    (if (poweredAt 3 tided).sec.phase ≤ 3 then 1 else 6) ≤ fget (poweredAt 3 (fput tided F.secBootStage 1)) F.secBootStage ∧
    (if (poweredAt 7 tided).sec.phase ≤ 3 then 1 else 6) ≤ fget (poweredAt 7 (fput tided F.secBootStage 6)) F.secBootStage ∧
    tided.perf.tc.toNat < tided.sec.phaseAt + 2400000 ∧ (poweredAt 1 tided).tide.running = true := by decide
theorem test_cut_leaves_the_log : (after (.inputUndervoltage 4599) (poweredAt 8 tided)).sec.faultLog = [1, 7] ∧
    (after (.inputUndervoltage 4599) (poweredAt 8 tided)).tide.running = false ∧
    (after (.inputUndervoltage 4600) (poweredAt 8 tided)).tide.running = true := by decide
theorem test_outside_the_rating : exec (.inputOvervoltage 7201 true) State.reset = .fault .outsideRating ∧
    exec (.reversePolarity 6001) State.reset = .fault .outsideRating := ⟨rfl, rfl⟩
/-- A module in a power state, with a job in a launch state or none. -/
def warm (p st : Nat) : State := { atPwr p tided with job := { st := st } }
theorem wit_thermal : (warm 0 0).tide.running = true ∧ flag (warm 0 0) F.pwrFaultValid = false ∧ flag (warm 0 0) F.errFirstValid = false ∧
    pwrState (warm 0 0) = 0 ∧ jobLive (warm 2 5) = true ∧ jobLive (warm 2 2) = false ∧ pwrState (warm 2 2) = 2 := by decide
theorem test_first_fault_is_kept : fget (after (.coolantFlowLow 100) (after (.dieOvertemp 1 100) (warm 2 5))) F.pwrFaultCause = 6 ∧
    (after (.dieOvertemp 1 100) (warm 2 5)).job.endCause = 6 ∧ pwrState (after (.coolantFlowLow 159) (warm 0 0)) = 4 := by decide +kernel
theorem wit_standdown : pwrState (warm 0 0) = 0 ∧ pwrState (warm 2 0) ≠ 0 ∧ pwrState (poweredAt 1 (atPwr 4 tided)) = 4 ∧
    (poweredAt 1 (atPwr 4 tided)).sec.phaseAt + 2400000 ≤ (poweredAt 1 (atPwr 4 tided)).perf.tc.toNat ∧
    (poweredAt 1 (atPwr 4 tided)).sec.phase ≤ 1 ∧ 2 ≤ (poweredAt 6 (atPwr 4 tided)).sec.phase ∧
    jobLive (poweredAt 6 (atPwr 4 tided)) = false := by decide
/-- A slew boundary 1 ms after the start, with Crane 0 at a level and Ballast wanted. -/
def slewing (p level : Nat) (job : Job) : State :=
  setCrane (at_ns 2000000 { atPwr p State.reset with job := job }) 0 { level := level, ballastLast := some 3, ballast := 15 }
theorem wit_slew : (slewing 1 12 {}).tide.running = true ∧
    (slewing 1 12 {}).tide.now % (fget (slewing 1 12 {}) F.pwrRampStepUs * 1000) = 0 ∧ pwrState (slewing 1 12 {}) < 4 ∧
    (slewing 1 12 {}).svc.engineOut = none ∧ (slewing 1 12 {}).job.ramping = false ∧ inHold (slewing 1 12 {}) = false ∧
    (crane (slewing 1 12 {}) 0).level < levelTarget (slewing 1 12 {}) 0 ∧ levelTarget (slewing 0 3 {}) 0 < (crane (slewing 0 3 {}) 0).level ∧
    (crane (slewing 0 0 {}) 0).level = levelTarget (slewing 0 0 {}) 0 ∧ pwrState (slewing 0 0 {}) = 0 ∧
    (crane (slewing 1 12 {}) 0).bgLast = none ∧ pwrState (slewing 1 12 {}) = 1 ∧ (slewing 1 12 {}).sec.lastSlew ≠ some (slewing 1 12 {}).tide.now := by
  decide
/-- A second boundary at one instant moves no level. -/
theorem test_one_slew_at_an_instant : (crane (after .ballastSlewBoundary (after .ballastSlewBoundary (slewing 2 13 {}))) 0).level = 14 := by
  decide +kernel
/-- The ramp's last step: every Crane one below a floor of 13. -/
def lastStep : State :=
  { slewing 1 12 { st := 1, cmd := some 1, ramping := true } with cranes := (List.range 16).map (fun c => (c, { level := 12 })) }
theorem wit_ramp_ends : pwrState lastStep = 1 ∧ lastStep.job.ramping = true ∧ pwrState (after .ballastSlewBoundary lastStep) = 2 := by
  decide +kernel
theorem test_levels_move : (crane (after .ballastSlewBoundary (slewing 2 13 {})) 0).level = 14 ∧
    (crane (after .ballastSlewBoundary (slewing 0 3 {})) 0).level = 2 := by decide +kernel

def booting (stage : Nat) (s : State) : State := poweredAt 8 (fput s F.secBootStage stage)
def bundle0 : Bundle := ⟨false, Config.fusedCount + 1, 4, 1, 2, true, true, []⟩
def withBundle (s : State) : State := atSec { s.sec with running := some bundle0, advancePending := true } s
theorem wit_boot (stage : Nat) (h : stage < 7) : (booting stage tided).tide.running = true ∧ (booting stage tided).sec.halted = false ∧
    fget (booting stage tided) F.secBootStage = stage ∧ pwrState (booting stage tided) < 4 ∧ 8 ≤ (booting stage tided).sec.phase ∧
    (withBundle (booting stage tided)).sec.running = some bundle0 := by
  rcases (by omega : stage = 0 ∨ stage = 1 ∨ stage = 2 ∨ stage = 3 ∨ stage = 4 ∨ stage = 5 ∨ stage = 6) with
    rfl | rfl | rfl | rfl | rfl | rfl | rfl <;> exact ⟨rfl, rfl, rfl, by decide, by decide, rfl⟩
theorem wit_rom_core : fget tided F.secBootStage = 0 ∧ fget tided F.secBootRomTug < 3 ∧ 3 ≤ fget (fput tided F.secBootRomTug 3) F.secBootRomTug ∧
    fget (fput tided F.secBootRomTug 3) F.secBootStage = 0 ∧ fget (fput tided F.secBootStage 7) F.secBootStage = 7 := by decide
theorem test_boot_needs_every_device : fget (after (.bootStage ⟨18, 17, [], []⟩) (booting 1 tided)) F.secBootFail = 3 ∧
    fget (after (.bootStage ⟨18, 18, [], []⟩) (booting 1 tided)) F.secBootStage = 2 := by decide +kernel
/-- Two repairs of one kind and unit are one more than the module can make up for. -/
def repaired (n : Nat) : State := atSec { repairs := (List.range n).map (fun k => ⟨1, 0, 0, k, 0⟩) } tided
theorem wit_counts : countsMet (repaired 1) 0 = true ∧ countsMet (repaired 2) 0 = false ∧ countsMet (repaired 2) 1 = true := by decide +kernel
theorem wit_fuses : (withBundle tided).sec.running = some bundle0 ∧ (withBundle tided).sec.advancePending = true ∧ bundle0.advance = true ∧
    fuseCount (withBundle tided) < bundle0.svn := ⟨rfl, rfl, rfl, Nat.lt_succ_self _⟩

/-- A service request of a code, its address, length and argument; the digest it names. -/
def requesting (c addr len arg : Nat) (dig : List Byte) (x : Svc) : State :=
  { tided with svc := { x with
      req := some c
      page := bytesAt 48 (cellsOf 0 [(4, 1, c), (8, 4, 1), (0x10, 8, addr), (0x18, 8, len), (0x20, 8, 98304), (0x28, 8, arg)]) ++
        bytesOfNat 32 (natOfBytes dig) } }
theorem wit_hall : (requesting 1 holdBase 0 0 [] {}).svc.req = some 1 ∧ svcAddrOk (requesting 1 holdBase 0 0 [] {}) holdBase 288 = true ∧
    at_ (requesting 1 holdBase 0 0 [] {}).svc.page 0x10 8 = holdBase ∧ svcAddrOk (requesting 1 0x1000 0 0 [] {}) 0x1000 288 = false ∧
    at_ (requesting 1 0x1000 0 0 [] {}).svc.page 0x10 8 = 0x1000 := by decide +kernel
def hallDigest : List Byte := digest (readBytes tided holdBase 288)
theorem wit_hall_digest : readBytes (requesting 1 holdBase 0 0 hallDigest {}) holdBase 288 = readBytes tided holdBase 288 ∧
    digest (readBytes tided holdBase 288) = ((requesting 1 holdBase 0 0 hallDigest {}).svc.page.drop 0x30).take 32 := by
  refine ⟨by simp only [readBytes, memByte, requesting], ?_⟩
  have h := bytesOfNat_natOfBytes hallDigest
  rw [hallDigest, digest_length] at h
  simp only [requesting, hallDigest]
  rw [List.drop_left' (by simp [bytesAt]), List.take_of_length_le (by simp), h]
theorem wit_hall_refused : digest (readBytes tided holdBase 288) ≠
    ((requesting 1 holdBase 0 0 (hallDigest.map (· + 1#8)) {}).svc.page.drop 0x30).take 32 := by
  have h := bytesOfNat_natOfBytes (hallDigest.map (· + 1#8))
  rw [List.length_map, hallDigest, digest_length] at h
  simp only [requesting, hallDigest]
  rw [List.drop_left' (by simp [bytesAt]), List.take_of_length_le (by simp), h]
  have hl := digest_length (readBytes tided holdBase 288)
  revert hl
  generalize digest (readBytes tided holdBase 288) = l
  intro hl e
  match l, hl, e with
  | b :: l, _, e =>
    have hb : b = b + 1#8 := (List.cons.inj e).1
    have := congrArg BitVec.toNat hb
    simp only [BitVec.toNat_add, BitVec.toNat_ofNat] at this
    omega
theorem wit_attest : (requesting 2 holdBase 30304 0 [] {}).svc.req = some 2 ∧ (requesting 2 holdBase 30304 0 [] {}).sec.engine = [] ∧
    at_ (requesting 2 holdBase 30304 0 [] {}).svc.page 0x18 8 = 30304 ∧ svcAddrOk (requesting 2 holdBase 30304 0 [] {}) holdBase 30304 = true ∧
    at_ (requesting 2 holdBase 30303 0 [] {}).svc.page 0x18 8 < 30304 ∧ svcAddrOk (requesting 2 0x1000 30304 0 [] {}) 0x1000 30304 = false ∧
    (requesting 3 holdBase 0x8000 0 [] {}).svc.req = some 3 ∧ at_ (requesting 3 holdBase 0x8000 0 [] {}).svc.page 0x18 8 = 0x8000 ∧
    svcAddrOk (requesting 3 holdBase 0x8000 0 [] {}) holdBase 0x8000 = true ∧ svcAddrOk (requesting 3 0x1000 0x8000 0 [] {}) 0x1000 0x8000 = false ∧
    at_ (requesting 3 holdBase 0x7FFF 0 [] {}).svc.page 0x18 8 < 0x8000 := by decide +kernel
def drainPassed (groups : BitVec 5) (at_ns : Nat) : State :=
  let s := requesting 5 0 0 0xFE [] { drainPass := true }
  { put s [(F.tideStageStatusStageState, 2), (F.tideCommitAtCommitNs, 0)] with
    stage := { groups := groups }
    svc := { s.svc with page := s.svc.page.take 0x20 ++ bytesOfNat 8 at_ns ++ s.svc.page.drop 0x28 } }
theorem wit_service_drain : (requesting 4 0 0 0xFE [] {}).svc.req = some 4 ∧ at_ (requesting 4 0 0 0xFE [] {}).svc.page 0x28 8 = 0xFE ∧
    at_ (requesting 4 0 0 0 [] {}).svc.page 0x28 8 = 0 ∧ (sect (requesting 4 0 0 0 [] {}) (requesting 4 0 0 0 [] {}).job.image 3).1 ≤ 0 ∧
    (drainPassed 3#5 98304).svc.req = some 5 ∧ stageState (drainPassed 3#5 98304) = 2 ∧ fget (drainPassed 3#5 98304) F.tideStageStatusOwner = 0 ∧
    inPass (drainPassed 3#5 98304) 1 = true ∧ at_ (drainPassed 3#5 98304).svc.page 0x20 8 = 98304 ∧ 98304 % 16384 = 0 ∧
    (drainPassed 3#5 98304).tide.now + 16384 ≤ 98304 ∧ at_ (drainPassed 3#5 65536).svc.page 0x20 8 < (drainPassed 3#5 65536).tide.now + 16384 ∧
    (requesting 8 0 0 0 [] {}).svc.req = some 8 ∧ tided.svc.req = none := by decide +kernel

def engineHas (l : List EngineReq) (s : State) : State := atSec { s.sec with engine := l } s
theorem wit_engine : State.reset.sec.engine = [] ∧ (engineHas [.attest holdBase [], .verify] tided).sec.engine = .attest holdBase [] :: [.verify] ∧
    holdBase + 30304 ≤ statusPage + 0x400 ∧ (engineHas [.verify] tided).sec.engine = .verify :: [] ∧
    (engineHas [.flashWrite 5 [1]] tided).sec.engine = .flashWrite 5 [1] :: [] ∧ (engineHas [.flashRead] tided).sec.engine = .flashRead :: [] := by
  decide
theorem test_flash_write : flashByte (after .signingEngineRequestComplete (engineHas [.flashWrite 5 [1, 2]] tided)) 6 = 2 := by decide
def waitingBundle (t : Word) (s : State) : State := atSec { s.sec with pending := some (bundle0, t) } s
def boundary (slot : Nat) (st : Nat) : State :=
  { fput tided F.tideSchedSlot slot with
    job := { st := st }, tide := { tided.tide with lastBoundary := some 65536 }, svc := { result := 0xB } }
theorem wit_activation : (waitingBundle 9 (boundary 0 5)).sec.pending = some (bundle0, 9) ∧ jobLive (waitingBundle 9 (boundary 0 0)) = false ∧
    fget (waitingBundle 9 (boundary 0 5)) F.tideSchedSlot = 0 ∧
    (waitingBundle 9 (boundary 0 5)).tide.lastBoundary = some (waitingBundle 9 (boundary 0 5)).tide.now ∧
    (9 : Word).toNat ≤ (waitingBundle 9 (boundary 0 5)).tide.now ∧ jobLive (waitingBundle 9 (boundary 3 5)) = true ∧
    fget (waitingBundle 9 (boundary 3 5)) F.tideSchedSlot ≠ 0 ∧ (waitingBundle 9 (boundary 0 5)).svc.result = 0xB :=
  ⟨rfl, rfl, rfl, rfl, by decide, rfl, by decide, rfl⟩

/-- Engine 1 with its four ports in a state, their optics lit or dark. -/
def engine1 (c st arg : Nat) (lit : Bool) : State :=
  let s := put (requesting c 0 0 arg [] {}) ((List.range 4).map (fun k => (F.quayPortStateState (4 + k), st)))
  atSec { enginePower := [(1, true)] } { s with ports := (List.range 4).map (fun k => (4 + k, { lit := lit })) }
theorem wit_engine_out : (engine1 6 6 1 false).svc.req = some 6 ∧ (engine1 6 6 1 false).svc.engineOut = none ∧
    at_ (engine1 6 6 1 false).svc.page 0x28 8 = 1 ∧ (∀ k, k < 4 → portState (engine1 6 6 1 false) (4 * 1 + k) = 6) ∧
    (∀ k, k < 4 → (port (engine1 6 6 1 false) (4 * 1 + k)).lit = false) ∧ (∃ k, k < 4 ∧ (port (engine1 6 6 1 true) (4 * 1 + k)).lit = true) ∧
    (∃ k, k < 4 ∧ portState (engine1 6 3 1 true) (4 * 1 + k) ≠ 6) ∧ 8 ≤ at_ (engine1 6 6 8 false).svc.page 0x28 8 := by decide +kernel
theorem wit_engine_in : (engine1 7 6 1 false).svc.req = some 7 ∧ stageState (engine1 7 6 1 false) ≠ 1 ∧ stageState (engine1 7 6 1 false) ≠ 4 ∧
    at_ (engine1 7 6 1 false).svc.page 0x28 8 < 8 ∧ 8 ≤ at_ (engine1 7 6 8 false).svc.page 0x28 8 := by decide +kernel
theorem wit_latch : Tab.get false (engine1 6 3 1 true).sec.enginePower 1 = true ∧ Tab.get false (engine1 6 3 1 true).sec.lampService 1 = false ∧
    jobLive (engine1 6 3 1 true) = false ∧ Tab.get false { (engine1 6 3 1 true).sec with lampService := [(1, true)] }.lampService 1 = true := by
  decide +kernel

/-! ### The host link and the Warehouse -/

/-- The host's decoder committed at 0x5000, firmware running. -/
def hosted : State := { ready (atSec { phase := 8 } State.reset) with host := { hdm := some 0x5000 }, poison := [(holdBase / 128, true)] }
theorem wit_host : State.reset.host.hdm = none ∧ hosted.host.hdm = some 0x5000 ∧ hosted.tide.running = true ∧
    0x5000 ≤ (0x5000#52).toNat ∧ (0x5000#52).toNat + 8 ≤ 0x5000 + 0x2400000000 ∧
    touchesReserved (0x010000000000 + ((0x5000#52).toNat - 0x5000)) 8 = false ∧
    touchesReserved (0x010000000000 + ((0x11E0005000#52).toNat - 0x5000)) 8 = true ∧
    launchArea ≤ 0x010000000000 + ((0x11E0005000#52).toNat - 0x5000) ∧
    ¬(launchArea ≤ 0x010000000000 + ((0x11E0015000#52).toNat - 0x5000) ∧
      0x010000000000 + ((0x11E0015000#52).toNat - 0x5000) + 8 ≤ launchArea + 0x10000) ∧
    poisonedRange hosted 0x010000000000 8 = true := by decide +kernel
theorem wit_host_clean : poisonedRange (ready State.reset) 0x010000000000 8 = false := by decide
theorem test_host_write : memByte (after (.hostMemWrite 0x5001 [7, 8] false) hosted) (holdBase + 2) = 8 ∧
    fget (after (.hostMemWrite 0x11E0006000 [7] false) hosted) F.errNowinHostDenied = 1 := by decide +kernel
theorem wit_mailbox : firmwareUp hosted = true ∧ firmwareUp State.reset = false ∧ mailboxOpcodes.contains (0x0123 : BitVec 16).toNat = false := by
  decide
def qualifying (phase stage : Nat) : State := atSec { phase := phase } (fput tided F.secBootStage stage)
def expander (width cap : Nat) : ExpanderObs := ⟨true, width, 3, false, true, true, cap⟩
theorem wit_qualify : 5 ≤ (qualifying 5 6).sec.phase ∧ bootStageOf (qualifying 5 6) < 7 ∧ (qualifying 5 6).sec.halted = false ∧
    (qualifying 4 6).sec.phase < 5 ∧ 7 ≤ bootStageOf (qualifying 8 7) ∧ fget (fput tided (F.whsePortState 1 0) 2) (F.whsePortState 1 0) = 2 ∧
    windowOf (whseBase + 2 * 4096) = .whse ∧ fget tided (F.whsePortState 1 0) ≠ 2 := by decide
theorem test_two_ports : fget (after (.warehousePortQualify 2 (expander 16 512)) (fput (fput (qualifying 5 6) (F.whsePortState 0 0) 2)
      (F.whsePortCapGib 0 0) 4096)) (F.whseMapW 0) = 2 ∧
    fget (after (.warehousePortQualify 0 (expander 8 512)) (qualifying 5 6)) (F.whsePortReject 0 0) = 2 := by decide +kernel

/-! ### A job image that PREPARE accepts; these evaluations are the longest of the file -/

/-- PREPARE as it examines the image: locked, with no Ballast floor. -/
def prep : State := begun (preparing (onFloor 0) imageDigest)
theorem prep_page : prep.job.page = preparePage holdBase imageDigest := rfl
theorem prep_addr : at_ (preparePage holdBase imageDigest) 0x20 8 = holdBase := by decide +kernel
theorem prep_len : at_ (preparePage holdBase imageDigest) 0x28 8 = 1344 := by decide +kernel
theorem prep_digest : ((preparePage holdBase imageDigest).drop 0x30).take 32 = imageDigest := preparePage_digest _
theorem prep_image : readBytes prep holdBase 1344 = readBytes (preparing [] []) holdBase 1344 := preparing_image _
theorem prep_locked : ¬(lockState prep ≠ 2 ∨ jobLive prep = true) := by decide
theorem prep_placed : imagePlaced prep holdBase 1344 = true := by decide +kernel
theorem prep_form : imageForm prep holdBase 1344 (lpJobId (preparePage holdBase imageDigest)) = true := by decide +kernel
theorem prep_ranks : ranksOk prep holdBase = true := by decide +kernel
theorem prep_rank : myRank prep holdBase = some 0 := by decide +kernel
theorem prep_descriptors : descriptorsOk prep holdBase = true := by decide +kernel
theorem prep_rings : ringsOk prep holdBase 0 = true := by decide +kernel
theorem prep_threads : threadsOk prep holdBase = true := by decide +kernel
theorem prep_regions : imRegionsOk prep holdBase = true := by decide +kernel
theorem prep_recovery : recoveryOk prep holdBase 1344 0 = true := by decide +kernel
theorem prep_layers_form : layersForm prep holdBase = true := by decide +kernel
theorem prep_manifest : manifestOk obs0.manifest (im prep holdBase 0x10 8)
    (((preparePage holdBase imageDigest).drop 0x70).take 32) = true := by decide +kernel
theorem prep_named : layersNamed prep holdBase obs0.manifest = true := by decide +kernel
theorem prep_slot : slotExtentsOk (imLayers prep holdBase obs0.manifest) obs0.manifest = true := by decide +kernel
theorem prep_panels : panelExtentsOk (setJob prep (jobOf prep holdBase 0 obs0.manifest)) obs0.manifest = true := by decide +kernel
theorem prep_memory : statePlaced (setJob prep (jobOf prep holdBase 0 obs0.manifest)) holdBase obs0.manifest = true := by decide +kernel
theorem prep_whse : anyWhseFailed prep = false := by decide +kernel
theorem prep_length : obs0.manifest.length = 8192 := by decide +kernel
theorem prep_reads : obs0.readsOk = true := rfl
theorem prep_refuses_reads : prepareFailure prep ⟨[], false⟩ = 6 := by
  unfold prepareFailure manifestLoads
  simp only [prep_page, prep_addr, prep_len, prep_digest, prep_image, prep_placed, prep_form, prep_ranks, prep_layers_form, prep_rank,
    prep_descriptors, prep_rings, prep_threads, prep_regions, prep_recovery, prep_whse, if_neg prep_locked,
    Bool.not_true, Bool.and_self, Bool.false_and, Bool.or_true, Bool.not_false, Bool.false_eq_true, if_false, if_true]
  rw [if_neg (by exact fun h => h rfl)]
/-- The namespace of target 0, connected, that the page names holds the Manifest as soon as it has 8,192 bytes. -/
theorem prep_source (h : 8192 ≤ Config.namespaceBytes 0 0) :
    mfSourceOk prep ((preparePage holdBase imageDigest).drop 0x60) 8192 = true := by
  have a : at_ ((preparePage holdBase imageDigest).drop 0x60) 0 1 = 0 := by decide +kernel
  have b : at_ ((preparePage holdBase imageDigest).drop 0x60) 4 4 = 0 := by decide +kernel
  have c : at_ ((preparePage holdBase imageDigest).drop 0x60) 8 8 = 0 := by decide +kernel
  have t : targetConnected prep 0 = true := rfl
  simp [mfSourceOk, a, b, c, t, h]
/-- Both answers of step 4 have a witness: code 6 above, when a Read did not complete; and no failure of steps 1 to 4, on a
namespace that holds the Manifest (its size is a Config value, so it stands as a hypothesis). -/
theorem wit_prepare (h : 8192 ≤ Config.namespaceBytes 0 0) :
    prepareFailure prep obs0 = 0 ∧ myRank prep holdBase = some 0 ∧ at_ prep.job.page 0x20 8 = holdBase := by
  refine ⟨?_, prep_rank, by rw [prep_page, prep_addr]⟩
  unfold prepareFailure manifestLoads
  simp only [prep_page, prep_addr, prep_len, prep_digest, prep_image, prep_placed, prep_form, prep_ranks, prep_layers_form, prep_rank,
    prep_descriptors, prep_rings, prep_threads, prep_regions, prep_recovery, prep_manifest, prep_named, prep_slot, prep_panels, prep_memory, prep_length,
    prep_reads, prep_source h, prep_whse, if_neg prep_locked,
    Bool.not_true, Bool.and_self, Bool.or_self, Bool.or_true, Bool.false_eq_true, if_false]
  rw [if_neg (by exact fun h => h rfl)]

end Sys2Proof.Tests
end

section
/-! Staged settings: what a shadow write, the check bit, an arm and an abort do (R58 to R63). -/

namespace Sys2Proof.Machine

/-! The commands of the staging machinery are the functions of Machine/Stage.lean. -/

theorem exec_shadowWrite_eq (off : BitVec 26) (v : Word) (s : State) :
    exec (.shadowWrite off v) s = execShadowWrite off v s := rfl
theorem exec_stageCheck_eq (who : Agent) (gr : BitVec 5) (s : State) :
    exec (.stageCheck who gr) s = execStageCheck who gr s := rfl
theorem exec_stageArm_eq (who : Agent) (s : State) : exec (.stageArm who) s = .next (armStage s who) := rfl
theorem exec_stageAbort_eq (who : Agent) (s : State) : exec (.stageAbort who) s = .next (abortStage s who) := rfl

/-! The conditions of the staging machinery, as propositions. -/

theorem isFw_iff (who : Agent) : isFw who = true ↔ who = .fw := by
  cases who <;> simp [isFw]

theorem sideOf_eq (who : Agent) : sideOf who = if who = .fw then 0 else 1 := by
  simp [sideOf, isFw_iff]

theorem ownedBy_iff (s : State) (who : Agent) :
    ownedBy s who = true ↔ fget s F.tideStageStatusOwner = (if who = .fw then 0 else 1) := by
  simp [ownedBy, sideOf_eq]

theorem shadowLocked_iff (s : State) (gr : Nat) :
    shadowLocked s gr = true ↔ (stageState s = 1 ∨ stageState s = 4) ∧ s.stage.groups.getLsbD gr = true := by
  simp [shadowLocked, inPass]

theorem checkRefused_iff (s : State) : checkRefused s = true ↔ stageState s = 1 ∨ stageState s = 4 := by
  simp [checkRefused]

theorem armRefused_iff (s : State) (who : Agent) :
    armRefused s who = true ↔ stageState s ≠ 2 ∨ fget s F.tideStageStatusOwner ≠ (if who = .fw then 0 else 1) := by
  simp [armRefused, ← ownedBy_iff]

theorem abortRefused_iff (s : State) (who : Agent) :
    abortRefused s who = true ↔ stageState s ≠ 4 ∨ fget s F.tideStageStatusOwner ≠ (if who = .fw then 0 else 1) ∨
      s.stage.armedAt < s.tide.now + 16384 := by
  rw [← armedAt]
  simp [abortRefused, ← ownedBy_iff, or_assoc]

/-! Shadow values of fields. -/

theorem shadowGet_shadowPut_self (s : State) (f : Field) (v : Nat) : shadowGet (shadowPut s f v) f = v % 2 ^ f.w := by
  simp [shadowGet, shadowPut]

theorem shadowGet_shadowPut_other (s : State) {f k : Field} (v : Nat) (h : fieldKey k ≠ fieldKey f) :
    shadowGet (shadowPut s f v) k = shadowGet s k := by
  have htab : Tab.get none (shadowPut s f v).stage.shadow (fieldKey k) = Tab.get none s.stage.shadow (fieldKey k) := by
    simp [shadowPut, Tab.get_set_other _ _ _ h]
  rw [shadowGet, htab]
  rfl

/-- Writing the shadow fields of a register changes the shadow values alone. -/
theorem shadowFields_frame (s : State) (v m : Nat) (fs : List Field) :
    shadowFields s v m fs = { s with stage := { s.stage with shadow := (shadowFields s v m fs).stage.shadow } } := by
  induction fs generalizing s with
  | nil => rfl
  | cons f rest ih =>
    simp only [shadowFields]
    exact ih _

@[simp] theorem shadowFields_stage_groups (s : State) (v m : Nat) (fs : List Field) :
    (shadowFields s v m fs).stage.groups = s.stage.groups := by rw [shadowFields_frame]
@[simp] theorem fget_shadowFields (s : State) (v m : Nat) (fs : List Field) (f : Field) :
    fget (shadowFields s v m fs) f = fget s f := by rw [shadowFields_frame]; rfl
@[simp] theorem stageState_shadowFields (s : State) (v m : Nat) (fs : List Field) :
    stageState (shadowFields s v m fs) = stageState s := fget_shadowFields s v m fs _

theorem shadowGet_shadowFields_other (s : State) (v m : Nat) {fs : List Field} {f : Field}
    (h : ∀ k ∈ fs, fieldKey f ≠ fieldKey k) : shadowGet (shadowFields s v m fs) f = shadowGet s f := by
  induction fs generalizing s with
  | nil => rfl
  | cons k rest ih =>
    rw [shadowFields, ih _ (fun j hj => h j (List.mem_cons_of_mem k hj)),
      shadowGet_shadowPut_other _ _ (h k List.mem_cons_self)]

/-- The full 64-bit mask covers every bit of a field that lies within its register. -/
theorem fullMask_field {lo w : Nat} (h : lo + w ≤ 64) : (2 ^ 64 - 1) / 2 ^ lo % 2 ^ w = 2 ^ w - 1 := by
  apply Nat.eq_of_testBit_eq
  intro i
  simp only [Nat.testBit_mod_two_pow, Nat.testBit_div_two_pow, Nat.testBit_two_pow_sub_one]
  by_cases hi : i < w
  · simp [hi, show i + lo < 64 by omega]
  · simp [hi]

/-- A field written under the full mask takes the bits of the value at its place, whatever it held. -/
theorem mergeBits_fullMask (old v : Nat) {lo w : Nat} (h : lo + w ≤ 64) :
    mergeBits old v ((2 ^ 64 - 1) / 2 ^ lo) w = v % 2 ^ w := by
  rw [mergeBits, fullMask_field h, Nat.sub_self, Nat.and_zero, Nat.zero_or, Nat.and_two_pow_sub_one_eq_mod]

/-- A write of a whole register gives each of its fields the value's bits at the field's place. -/
theorem shadowGet_shadowFields_mem (s : State) (v : Nat) {fs : List Field} {f : Field} (hf : f ∈ fs)
    (hk : (fs.map fieldKey).Nodup) (hw : f.lo + f.w ≤ 64) :
    shadowGet (shadowFields s v (2 ^ 64 - 1) fs) f = v / 2 ^ f.lo % 2 ^ f.w := by
  induction fs generalizing s with
  | nil => cases hf
  | cons k rest ih =>
    obtain ⟨hne, hrest⟩ := List.nodup_cons.1 hk
    rw [shadowFields]
    rcases List.mem_cons.1 hf with rfl | hmem
    · rw [shadowGet_shadowFields_other _ _ _ (fun j hj e => hne (e ▸ List.mem_map_of_mem hj)),
        shadowGet_shadowPut_self, mergeBits_fullMask _ _ hw, Nat.mod_mod]
    · exact ih _ hmem hrest

/-! The staged registers of groups 1 to 3 (Table 02-4) and their fields. -/

/-- Where the registers of groups 1 to 3 lie: block and offset in it. -/
theorem groupOf_place (x : Nat) :
    (groupOf x = 1 → x / 0x100000 = 1 ∧ x % 0x100000 / 8 * 8 = 0x30) ∧
    (groupOf x = 2 → x / 0x100000 = 2 ∧ x % 0x100000 / 8 * 8 = 0x10) ∧
    (groupOf x = 3 → x / 0x100000 = 1 ∧ x % 0x100000 / 8 * 8 = 0x10) := by
  unfold groupOf
  generalize x / 0x100000 = i
  generalize x % 0x100000 / 8 * 8 = o
  dsimp only
  refine ⟨?_, ?_, ?_⟩ <;> intro h <;> repeat' split at h
  all_goals omega

theorem regFields_of_groupOf_one {x : Nat} (h : groupOf x = 1) : regFields x = [F.tideTableBaseBase] := by
  obtain ⟨hi, ho⟩ := (groupOf_place x).1 h
  simp [regFields, hi, ho, tideRegFields]

theorem regFields_of_groupOf_two {x : Nat} (h : groupOf x = 2) : regFields x = [F.pwrRampFloor, F.pwrRampStepUs] := by
  obtain ⟨hi, ho⟩ := (groupOf_place x).2.1 h
  simp [regFields, hi, ho, pwrRegFields]

theorem regFields_of_groupOf_three {x : Nat} (h : groupOf x = 3) :
    regFields x = [F.tideCfgRoleSel, F.tideCfgSteerLimitPpb] := by
  obtain ⟨hi, ho⟩ := (groupOf_place x).2.2 h
  simp [regFields, hi, ho, tideRegFields]

/-! A shadow write that is taken: a pass that selects the group goes back to idle (R61). -/

theorem shadowTaken_frame (s : State) (gr : Nat) :
    shadowTaken s gr = { s with fields := (shadowTaken s gr).fields } := by
  unfold shadowTaken
  split <;> rfl

theorem fget_shadowTaken_other (s : State) (gr : Nat) {f : Field}
    (h : fieldKey f ≠ fieldKey F.tideStageStatusStageState) : fget (shadowTaken s gr) f = fget s f := by
  unfold shadowTaken
  split
  · exact fget_fput_other s 0 h
  · rfl

theorem stageState_shadowTaken (s : State) (gr : Nat) :
    stageState (shadowTaken s gr) =
      if stageState s = 2 ∧ s.stage.groups.getLsbD gr = true then 0 else stageState s := by
  unfold shadowTaken inPass
  by_cases h : stageState s = 2 ∧ s.stage.groups.getLsbD gr = true
  · rw [if_pos h, if_pos h]
    exact fget_fput_self s _ 0
  · rw [if_neg h, if_neg h]

theorem shadowGet_shadowTaken (s : State) (gr : Nat) {f : Field}
    (h : fieldKey f ≠ fieldKey F.tideStageStatusStageState) : shadowGet (shadowTaken s gr) f = shadowGet s f := by
  unfold shadowGet
  rw [fget_shadowTaken_other s gr h, shadowTaken_frame]

theorem writeShadow_locked {s : State} {x : Nat} (v m : Nat) (h : shadowLocked s (groupOf x) = true) :
    writeShadow s x v m = fput s F.tideStageStatusWriteWhileArmed 1 := by
  simp [writeShadow, h, ignoreShadow]

theorem writeShadow_unlocked {s : State} {x : Nat} (v m : Nat) (h : ¬ shadowLocked s (groupOf x) = true) :
    writeShadow s x v m = shadowTaken (shadowFields s v m (regFields x)) (groupOf x) := by
  simp [writeShadow, h]

theorem exec_shadowWrite {off : BitVec 26} (v : Word) (s : State) (h : groupOf off.toNat < 4) :
    exec (.shadowWrite off v) s = .next (writeShadow s off.toNat v.toNat (2 ^ 64 - 1)) := by
  rw [exec_shadowWrite_eq, execShadowWrite, whenever, decide_eq_true h, if_pos rfl]

/-- A shadow write to a locked group is ignored and noted (R61). -/
theorem exec_shadowWrite_locked (s : State) {off : BitVec 26} (v : Word) (h : groupOf off.toNat < 4)
    (hst : stageState s = 1 ∨ stageState s = 4) (hin : s.stage.groups.getLsbD (groupOf off.toNat) = true) :
    exec (.shadowWrite off v) s = .next (fput s F.tideStageStatusWriteWhileArmed 1) := by
  rw [exec_shadowWrite v s h, writeShadow_locked _ _ ((shadowLocked_iff s _).2 ⟨hst, hin⟩)]

/-- The state after a shadow write that is taken. -/
def shadowStored (s : State) (x v : Nat) : State :=
  shadowTaken (shadowFields s v (2 ^ 64 - 1) (regFields x)) (groupOf x)

theorem exec_shadowWrite_unlocked (s : State) {off : BitVec 26} (v : Word) (h : groupOf off.toNat < 4)
    (hfree : (stageState s ≠ 1 ∧ stageState s ≠ 4) ∨ s.stage.groups.getLsbD (groupOf off.toNat) = false) :
    exec (.shadowWrite off v) s = .next (shadowStored s off.toNat v.toNat) := by
  have hun : ¬ shadowLocked s (groupOf off.toNat) = true := by
    rw [shadowLocked_iff]
    rintro ⟨hst, hin⟩
    rcases hfree with ⟨h1, h4⟩ | hout
    · exact hst.elim h1 h4
    · rw [hout] at hin
      cases hin
  rw [exec_shadowWrite v s h, writeShadow_unlocked _ _ hun]
  rfl

theorem shadowStored_frame (s : State) (x v : Nat) :
    shadowStored s x v =
      { s with
        stage := { s.stage with shadow := (shadowStored s x v).stage.shadow }
        fields := (shadowStored s x v).fields } := by
  unfold shadowStored
  rw [shadowTaken_frame, shadowFields_frame]

theorem fget_shadowStored_other (s : State) (x v : Nat) {f : Field}
    (h : fieldKey f ≠ fieldKey F.tideStageStatusStageState) : fget (shadowStored s x v) f = fget s f := by
  rw [shadowStored, fget_shadowTaken_other _ _ h, fget_shadowFields]

theorem stageState_shadowStored (s : State) (x v : Nat) :
    stageState (shadowStored s x v) =
      if stageState s = 2 ∧ s.stage.groups.getLsbD (groupOf x) = true then 0 else stageState s := by
  rw [shadowStored, stageState_shadowTaken, stageState_shadowFields, shadowFields_stage_groups]

/-- Each field of the register, kept apart from the stage state's, has the value's bits at its place as its shadow value. -/
theorem shadowGet_shadowStored (s : State) {x : Nat} (v : Nat) {fs : List Field} (hr : regFields x = fs)
    (hk : (fs.map fieldKey).Nodup)
    (hplace : ∀ f ∈ fs, f.lo + f.w ≤ 64 ∧ fieldKey f ≠ fieldKey F.tideStageStatusStageState) {f : Field} (hf : f ∈ fs) :
    shadowGet (shadowStored s x v) f = v / 2 ^ f.lo % 2 ^ f.w := by
  obtain ⟨hw, hs⟩ := hplace f hf
  rw [shadowStored, shadowGet_shadowTaken _ _ hs, hr, shadowGet_shadowFields_mem s v hf hk hw]

theorem shadowGet_shadowStored_tableBase (s : State) {x : Nat} (v : Nat) (h : groupOf x = 1) :
    shadowGet (shadowStored s x v) F.tideTableBaseBase = v / 2 ^ 6 % 2 ^ 42 :=
  shadowGet_shadowStored s v (regFields_of_groupOf_one h) (by decide) (by decide) List.mem_cons_self

theorem shadowGet_shadowStored_ramp (s : State) {x : Nat} (v : Nat) (h : groupOf x = 2) {f : Field}
    (hf : f ∈ [F.pwrRampFloor, F.pwrRampStepUs]) : shadowGet (shadowStored s x v) f = v / 2 ^ f.lo % 2 ^ f.w :=
  shadowGet_shadowStored s v (regFields_of_groupOf_two h) (by decide) (by decide) hf

theorem shadowGet_shadowStored_clock (s : State) {x : Nat} (v : Nat) (h : groupOf x = 3) {f : Field}
    (hf : f ∈ [F.tideCfgRoleSel, F.tideCfgSteerLimitPpb]) :
    shadowGet (shadowStored s x v) f = v / 2 ^ f.lo % 2 ^ f.w :=
  shadowGet_shadowStored s v (regFields_of_groupOf_three h) (by decide) (by decide) hf

/-! The check bit (R59, R60, R63). -/

/-- An agent's write is turned away before the state of the staging machinery is looked at: not firmware's, and with another
group than the Drain tables (R63). -/
theorem exec_stageCheck_foreign {who : Agent} {gr : BitVec 5} (s : State) (hw : who ≠ .fw) (hg : gr &&& 15#5 ≠ 0) :
    exec (.stageCheck who gr) s = .next (ignoredCtrl s who) := by
  have hfw : isFw who = false := Bool.eq_false_iff.2 (fun e => hw ((isFw_iff who).1 e))
  rw [exec_stageCheck_eq, execStageCheck, hfw, decide_eq_true hg]
  rfl

theorem exec_stageCheck_heard {who : Agent} {gr : BitVec 5} (s : State) (h : who = .fw ∨ gr &&& 15#5 = 0) :
    exec (.stageCheck who gr) s =
      if checkRefused s then .next (refuseStage s)
      else .next (startCheck (fput s F.tideStageCtrlGroups gr.toNat) who gr) := by
  rw [exec_stageCheck_eq, execStageCheck, if_neg]
  rcases h with rfl | hg
  · simp [isFw]
  · simp [hg]

theorem exec_stageCheck_busy {who : Agent} {gr : BitVec 5} (s : State) (h : who = .fw ∨ gr &&& 15#5 = 0)
    (hst : stageState s = 1 ∨ stageState s = 4) :
    exec (.stageCheck who gr) s = .next (fput s F.tideStageStatusBusy 1) := by
  rw [exec_stageCheck_heard s h, if_pos ((checkRefused_iff s).2 hst)]
  rfl

/-- A check that starts: firmware's groups, or the Drain tables for a job or the host, are being checked, and owner names the
side. -/
theorem exec_stageCheck_starts {who : Agent} {gr : BitVec 5} (s : State) (h : who = .fw ∨ gr &&& 15#5 = 0)
    (h1 : stageState s ≠ 1) (h4 : stageState s ≠ 4) :
    exec (.stageCheck who gr) s = .next
      (fput (fput { fput s F.tideStageCtrlGroups gr.toNat with
          stage := { s.stage with groups := if who = .fw then gr else 16#5, epoch := none, fromImage := false } }
        F.tideStageStatusStageState 1) F.tideStageStatusOwner (if who = .fw then 0 else 1)) := by
  have hfree : ¬ checkRefused s = true := by
    rw [checkRefused_iff]
    exact not_or.2 ⟨h1, h4⟩
  have hput : checkRefused (fput s F.tideStageCtrlGroups gr.toNat) = checkRefused s := by
    have hkeep : stageState (fput s F.tideStageCtrlGroups gr.toNat) = stageState s := fget_fput_other s _ (by decide)
    rw [checkRefused, checkRefused, hkeep]
  rw [exec_stageCheck_heard s h, if_neg hfree, startCheck, hput, if_neg hfree]
  simp only [sideOf_eq, isFw_iff]
  rfl

/-! Arm and abort (R60, R63). -/

theorem armStage_refused {s : State} {who : Agent}
    (h : stageState s ≠ 2 ∨ fget s F.tideStageStatusOwner ≠ (if who = .fw then 0 else 1)) :
    armStage s who = fput s F.tideStageStatusBusy 1 := by
  rw [armStage, if_pos ((armRefused_iff s who).2 h)]
  rfl

/-- In pass and from the side that owns it, an arm goes by its commit instant alone. -/
theorem armStage_owned {s : State} {who : Agent} (hst : stageState s = 2)
    (hown : fget s F.tideStageStatusOwner = (if who = .fw then 0 else 1)) :
    armStage s who =
      if fget s F.tideCommitAtCommitNs < s.tide.now + 16384 then refuseInstant s s.stage.groups.toNat
      else if s.stage.groups.getLsbD 1 = true ∧ fget s F.tideCommitAtCommitNs % 16384 ≠ 0 then refuseInstant s 2
      else setStage { s with stage := { s.stage with armedAt := fget s F.tideCommitAtCommitNs } } 4 := by
  rw [armStage, if_neg]
  · rfl
  · rw [armRefused_iff]
    exact not_or.2 ⟨fun h => h hst, fun h => h hown⟩

theorem abortStage_refused {s : State} {who : Agent}
    (h : stageState s ≠ 4 ∨ fget s F.tideStageStatusOwner ≠ (if who = .fw then 0 else 1) ∨
      s.stage.armedAt < s.tide.now + 16384) :
    abortStage s who = fput s F.tideStageStatusBusy 1 := by
  rw [abortStage, if_pos ((abortRefused_iff s who).2 h)]
  rfl

theorem abortStage_accepted {s : State} {who : Agent} (hst : stageState s = 4)
    (hown : fget s F.tideStageStatusOwner = (if who = .fw then 0 else 1))
    (hfar : s.tide.now + 16384 ≤ s.stage.armedAt) :
    abortStage s who = fput s F.tideStageStatusStageState 2 := by
  rw [abortStage, if_neg]
  · rfl
  · rw [abortRefused_iff]
    rintro (h | h | h)
    · exact h hst
    · exact h hown
    · omega

/-- Settles O27: shadow writes by the lock of their group, the check bit by who sends it and the state it meets, arm and
abort by the conditions under which each is refused. -/
theorem stagedSettingsAreCheckedAndArmed : Obligations.StagedSettingsAreCheckedAndArmed := by
  unfold Obligations.StagedSettingsAreCheckedAndArmed
  refine ⟨fun s off v hgr => ⟨fun hst hin => exec_shadowWrite_locked s v hgr hst hin, fun hfree => ?written⟩,
    ⟨fun s who gr h hst => exec_stageCheck_busy s h hst, fun s gr h1 h4 => ⟨?firmware, fun who hw hg => ?other⟩,
      fun s gr hg => ⟨?host, fun t => ?job⟩⟩,
    fun s who => ⟨fun h => ?armBusy, fun hst hown => ⟨fun hearly => ?armEarly, fun hfar => ⟨fun hin hoff => ?armOffBoundary,
      fun hok => ?armed⟩⟩, fun hst hown hfar => ?aborted, fun h => ?abortBusy⟩⟩
  case written =>
    refine ⟨_, exec_shadowWrite_unlocked s v hgr hfree, shadowStored_frame s _ _,
      fun f hf => fget_shadowStored_other s _ _ hf, stageState_shadowStored s _ _,
      fun h => shadowGet_shadowStored_tableBase s _ h, fun h => ⟨?_, ?_⟩, fun h => ⟨?_, ?_⟩⟩
    · exact shadowGet_shadowStored_ramp s _ h (by simp)
    · exact shadowGet_shadowStored_ramp s _ h (by simp)
    · simpa [F.tideCfgRoleSel] using shadowGet_shadowStored_clock s v.toNat h List.mem_cons_self
    · exact shadowGet_shadowStored_clock s _ h (f := F.tideCfgSteerLimitPpb) (by simp)
  case firmware => exact exec_stageCheck_starts s (.inl rfl) h1 h4
  case other =>
    rw [exec_stageCheck_starts s (.inr hg) h1 h4, if_neg hw, if_neg hw]
  case host => exact exec_stageCheck_foreign s (by decide) hg
  case job => exact exec_stageCheck_foreign s (by simp) hg
  case armBusy => rw [exec_stageArm_eq, armStage_refused h]
  case armEarly =>
    rw [exec_stageArm_eq, armStage_owned hst hown, if_pos hearly]
    rfl
  case armOffBoundary =>
    rw [exec_stageArm_eq, armStage_owned hst hown, if_neg (Nat.not_lt.2 hfar), if_pos ⟨hin, hoff⟩]
    rfl
  case armed =>
    have hmay : ¬ (s.stage.groups.getLsbD 1 = true ∧ fget s F.tideCommitAtCommitNs % 16384 ≠ 0) := by
      rintro ⟨hin, hoff⟩
      rcases hok with hout | hat
      · exact Bool.false_ne_true (hout.symm.trans hin)
      · exact hoff hat
    rw [exec_stageArm_eq, armStage_owned hst hown, if_neg (Nat.not_lt.2 hfar), if_neg hmay]
    rfl
  case aborted => rw [exec_stageAbort_eq, abortStage_accepted hst hown hfar]
  case abortBusy => rw [exec_stageAbort_eq, abortStage_refused h]

end Sys2Proof.Machine
end

section
/-! Host accesses of the Hold through the committed decoder (R357, R360, R361, R381), and the mailbox (Table 13-1). -/

namespace Sys2Proof.Machine

/-! An outcome that hangs on a condition. -/

theorem whenever_of_true {c : Bool} (t s : State) (h : c = true) : whenever c t s = .next t := by rw [whenever, if_pos h]
theorem whenever_of_false {c : Bool} (t s : State) (h : c = false) : whenever c t s = .next s := by rw [h]; rfl

/-! What a repair record changes (R458): the flash and two counting fields, never memory. -/

/-- State u is s but for free values taken, what `sec` keeps, and fields of SEC_REPAIR. -/
structure RecordsRepair (s u : State) : Prop where
  frame : u = { s with free := u.free, fields := u.fields, sec := u.sec }
  fields : ∀ f, fieldKey f ≠ fieldKey F.secRepairFull → fieldKey f ≠ fieldKey F.secRepairSelfSigned → fget u f = fget s f

theorem RecordsRepair.refl (s : State) : RecordsRepair s s := ⟨rfl, fun _ _ _ => rfl⟩

theorem RecordsRepair.trans {s u w : State} (h1 : RecordsRepair s u) (h2 : RecordsRepair u w) : RecordsRepair s w :=
  ⟨h2.frame.trans (by rw [h1.frame]), fun f hf hs => (h2.fields f hf hs).trans (h1.fields f hf hs)⟩

theorem recordsRepair_setSec (s : State) (x : SecSt) : RecordsRepair s (setSec s x) := ⟨rfl, fun _ _ _ => rfl⟩

theorem recordsRepair_writeOneRepair (s : State) (es : List RepairEntry) : RecordsRepair s (writeOneRepair false s es) := by
  unfold writeOneRepair
  generalize selfRecord s es = record, slotBase (usedSlots s) = place
  split
  case isTrue => exact ⟨rfl, fun f hf _ => fget_fput_other s 1 hf⟩
  case isFalse => exact ⟨rfl, fun f _ hs => fget_fcount_other (putFlash s place record) 1 hs⟩

theorem recordsRepair_writeRepair (s : State) (es : List RepairEntry) : RecordsRepair s (writeRepair s es false) := by
  unfold writeRepair
  generalize (List.range ((es.length + 127) / 128)).map (fun i => (es.drop (128 * i)).take 128) = records
  induction records generalizing s with
  | nil => exact .refl s
  | cons r rest ih =>
    rw [List.foldl_cons]
    exact (recordsRepair_writeOneRepair s r).trans (ih _)

theorem recordsRepair_writeFound (s : State) : RecordsRepair s (writeFound s) := by
  unfold writeFound
  split
  · exact (recordsRepair_setSec s _).trans (recordsRepair_writeRepair _ _)
  · exact .refl s

@[simp] theorem writeFound_mem (s : State) : (writeFound s).mem = s.mem := by rw [(recordsRepair_writeFound s).frame]

/-! Errors that a read meets are counted, recorded and queued; no byte of memory changes. -/

@[simp] theorem fcount_mem (s : State) (f : Field) (n : Nat) : (fcount s f n).mem = s.mem := rfl
@[simp] theorem setSec_mem (s : State) (x : SecSt) : (setSec s x).mem = s.mem := rfl
@[simp] theorem corrected_mem (s : State) : (corrected s).mem = s.mem := rfl
@[simp] theorem setCorrected_mem (s : State) (d : Nat) (l : List Nat) : (setCorrected s d l).mem = s.mem := rfl

@[simp] theorem correctedN_mem (s : State) (n : Nat) : (correctedN s n).mem = s.mem := by
  unfold correctedN
  split <;> rfl

@[simp] theorem setQueued_mem (s : State) (d : Nat) (l : List Nat) : (setQueued s d l).mem = s.mem := rfl
@[simp] theorem showRetired_mem (s : State) : (showRetired s).mem = s.mem := by simp [showRetired]

@[simp] theorem queuePages_mem (s : State) (d : Nat) (pages : List Nat) : (queuePages s d pages).mem = s.mem := by
  induction pages generalizing s with
  | nil => exact showRetired_mem s
  | cons p rest ih =>
    rw [queuePages, ih]
    split <;> simp

@[simp] theorem wornRow_mem (s : State) (a : Nat) : (wornRow s a).mem = s.mem := by
  unfold wornRow
  split
  · rfl
  · exact writeFound_mem _

@[simp] theorem correctedRow_mem (s : State) (a : Nat) : (correctedRow s a).mem = s.mem := by
  unfold correctedRow
  split
  · exact wornRow_mem s a
  · rfl

@[simp] theorem meetError_mem (s : State) (e : MemErr) : (meetError s e).mem = s.mem := by
  unfold meetError
  dsimp only
  split
  case h_3 => split <;> simp
  all_goals simp

@[simp] theorem meetErrors_mem (s : State) (errs : List MemErr) : (meetErrors s errs).mem = s.mem := by
  unfold meetErrors
  generalize errs.filter (fun e => populated s e.addr.toNat) = met
  induction met generalizing s with
  | nil => rfl
  | cons e rest ih => rw [List.foldl_cons, ih, meetError_mem]

/-! An access at its home Harbour Cache changes the cache and the counters of performance monitoring alone. -/

/-- State u is s but for the Harbour Cache and performance monitoring. -/
def OnlyCacheAndPerf (s u : State) : Prop := u = { s with hcache := u.hcache, perf := u.perf }

theorem OnlyCacheAndPerf.refl (s : State) : OnlyCacheAndPerf s s := rfl

theorem OnlyCacheAndPerf.trans {s u w : State} (h1 : OnlyCacheAndPerf s u) (h2 : OnlyCacheAndPerf u w) :
    OnlyCacheAndPerf s w := by
  unfold OnlyCacheAndPerf at h1 h2 ⊢
  rw [h2, h1]

theorem countEvent_onlyCacheAndPerf (s : State) (cls unit ev v tbit : Nat) :
    OnlyCacheAndPerf s (countEvent s cls unit ev v tbit) := by
  unfold countEvent
  split <;> rfl

theorem countLatency_onlyCacheAndPerf (s : State) (measure unit tier : Nat) :
    OnlyCacheAndPerf s (countLatency s measure unit tier) := by
  unfold countLatency countItem
  split <;> rfl

theorem setHc_onlyCacheAndPerf (s : State) (a : Nat) (l : List HcLine) : OnlyCacheAndPerf s (setHc s a l) := rfl

theorem hcEvict_onlyCacheAndPerf (s : State) (a : Nat) (l : List HcLine) : OnlyCacheAndPerf s (hcEvict s a l) := by
  unfold hcEvict
  dsimp only
  split
  · exact (setHc_onlyCacheAndPerf s a _).trans (countEvent_onlyCacheAndPerf _ _ _ _ _ _)
  · exact setHc_onlyCacheAndPerf s a _

theorem hcAccess_onlyCacheAndPerf (s : State) (a : Nat) (write alloc : Bool) :
    OnlyCacheAndPerf s (hcAccess s a write alloc) := by
  unfold hcAccess
  split
  case isTrue => exact .refl s
  case isFalse =>
    dsimp only
    split
    case h_1 => exact (setHc_onlyCacheAndPerf s a _).trans (countEvent_onlyCacheAndPerf _ _ _ _ _ _)
    case h_2 =>
      have hmiss := countEvent_onlyCacheAndPerf s 5 (hcBank s a) 2 1 0
      split
      · exact hmiss.trans ((hcEvict_onlyCacheAndPerf _ a _).trans (countLatency_onlyCacheAndPerf _ _ _ _))
      · exact hmiss

theorem hcRange_onlyCacheAndPerf (s : State) (a n : Nat) (write alloc : Bool) :
    OnlyCacheAndPerf s (hcRange s a n write alloc) := by
  unfold hcRange
  generalize touchedLines a n = lines
  induction lines generalizing s with
  | nil => exact .refl s
  | cons l rest ih => exact (hcAccess_onlyCacheAndPerf s (l * 128) write alloc).trans (ih _)

theorem countHost_frame (s : State) (a n : Nat) (write : Bool) : countHost s a n write =
    { s with hcache := (countHost s a n write).hcache, perf := (countHost s a n write).perf } :=
  (hcRange_onlyCacheAndPerf s a n write true).trans (countEvent_onlyCacheAndPerf _ _ _ _ _ _)

@[simp] theorem countHost_mem (s : State) (a n : Nat) (write : Bool) : (countHost s a n write).mem = s.mem := by
  rw [countHost_frame]
@[simp] theorem countHost_fields (s : State) (a n : Nat) (write : Bool) : (countHost s a n write).fields = s.fields := by
  rw [countHost_frame]
@[simp] theorem countHost_threads (s : State) (a n : Nat) (write : Bool) : (countHost s a n write).threads = s.threads := by
  rw [countHost_frame]
@[simp] theorem countHost_poison (s : State) (a n : Nat) (write : Bool) : (countHost s a n write).poison = s.poison := by
  rw [countHost_frame]

/-! The host's reads and writes (R361). -/

theorem exec_hostMemRead_eq (hpa : BitVec 52) (n : Nat) (errs : List MemErr) (s : State) :
    exec (.hostMemRead hpa n errs) s = execHostMemRead hpa n errs s := rfl
theorem exec_hostMemWrite_eq (hpa : BitVec 52) (data : List Byte) (p : Bool) (s : State) :
    exec (.hostMemWrite hpa data p) s = execHostMemWrite hpa data p s := rfl

theorem within_iff (a n lo len : Nat) : within a n lo len = true ↔ lo ≤ a ∧ a + n ≤ lo + len := by simp [within]

theorem hostMayRead_iff (a n : Nat) : hostMayRead a n = true ↔
    touchesReserved a n = false ∨ (launchArea ≤ a ∧ a + n ≤ launchArea + 0x10000) := by
  simp [hostMayRead, within_iff]

theorem hostMayWrite_iff (a n : Nat) : hostMayWrite a n = true ↔
    touchesReserved a n = false ∨ (launchArea ≤ a ∧ a + n ≤ launchArea + 0x1000) ∨
      (switchPage ≤ a ∧ a + n ≤ switchPage + 0x1000) := by
  simp [hostMayWrite, within_iff, or_assoc]

theorem hostAddr_uncommitted {s : State} (hpa n : Nat) (h : s.host.hdm = none) : hostAddr s hpa n = none := by
  rw [hostAddr, h]

theorem hostAddr_committed {s : State} {hpa n h : Nat} (hc : s.host.hdm = some h) (hlo : h ≤ hpa) (hn : 0 < n)
    (hhi : hpa + n ≤ h + 0x2400000000) : hostAddr s hpa n = some (0x010000000000 + (hpa - h)) := by
  rw [hostAddr, hc]
  exact if_pos ⟨hlo, hhi, Nat.ne_of_gt hn⟩

theorem execHostMemRead_mapped {hpa : BitVec 52} {n a : Nat} (errs : List MemErr) {s : State}
    (h : hostAddr s hpa.toNat n = some a) (hr : s.tide.running = true) :
    execHostMemRead hpa n errs s = .next (if hostMayRead a n then hostRead (meetErrors s errs) a n
      else countHostDenied (answerRead s (List.replicate n 0#8) false)) := by
  rw [execHostMemRead, h]
  exact whenever_of_true _ s hr

theorem execHostMemWrite_mapped {hpa : BitVec 52} {data : List Byte} {a : Nat} (p : Bool) {s : State}
    (h : hostAddr s hpa.toNat data.length = some a) (hr : s.tide.running = true) :
    execHostMemWrite hpa data p s =
      .next (if hostMayWrite a data.length then hostWrite s a data p else countHostDenied s) := by
  rw [execHostMemWrite, h]
  exact whenever_of_true _ s hr

@[simp] theorem hostRead_mem (s : State) (a n : Nat) : (hostRead s a n).mem = s.mem := by
  unfold hostRead
  dsimp only
  split <;> exact countHost_mem s a n false

@[simp] theorem hostRead_fields (s : State) (a n : Nat) : (hostRead s a n).fields = s.fields := by
  unfold hostRead
  dsimp only
  split <;> exact countHost_fields s a n false

theorem hostRead_host (s : State) (a n : Nat) : (hostRead s a n).host =
    { (countHost s a n false).host with readData := srcBytes s a n, readPoison := poisonedRange s a n } := by
  unfold hostRead
  dsimp only
  split <;> rfl

/-! A window begins and ends between lines, and a Warehouse port's share is of whole lines. -/

theorem line_lt_iff (a : Nat) {b : Nat} (h : 128 ∣ b) : a / 128 * 128 < b ↔ a < b := by omega
theorem le_line_iff (a : Nat) {b : Nat} (h : 128 ∣ b) : b ≤ a / 128 * 128 ↔ b ≤ a := by omega

theorem windowOf_line (a : Nat) : windowOf (a / 128 * 128) = windowOf a := by
  simp (disch := decide) only [windowOf, line_lt_iff, le_line_iff]

theorem whsePortOf_line (s : State) (a : Nat) : whsePortOf s (a / 128 * 128) = whsePortOf s a := by
  have h : (a / 128 * 128 - whseBase) / 4096 = (a - whseBase) / 4096 := by
    unfold whseBase
    omega
  simp only [whsePortOf, h]

/-- Poison belongs to lines. -/
theorem poisoned_line (s : State) (a : Nat) : poisoned s (a / 128 * 128) = poisoned s a := by
  have h : lineOf (a / 128 * 128) = lineOf a := Nat.mul_div_cancel _ (by decide)
  simp only [poisoned, h, windowOf_line, whsePortOf_line]

/-- Bytes of lines that are not poisoned are read as memory has them. -/
theorem srcBytes_of_not_poisoned {s : State} {a n : Nat} (h : poisonedRange s a n = false) :
    srcBytes s a n = readBytes s a n := by
  apply List.map_congr_left
  intro i hi
  have hline : (a + i) / 128 ∈ touchedLines a n := by
    have := List.mem_range.1 hi
    rw [mem_touchedLines]
    omega
  have hclean : poisoned s (a + i) = false := by
    rw [← poisoned_line]
    exact Bool.eq_false_iff.2 (List.any_eq_false.1 h _ hline)
  simp [srcByte, hclean]

/-! A permitted write puts its bytes and the poison of its lines (R381). -/

@[simp] theorem hostWrite_fields (s : State) (a : Nat) (data : List Byte) (p : Bool) :
    (hostWrite s a data p).fields = s.fields := by
  cases p <;> simp [hostWrite]

@[simp] theorem hostWrite_threads (s : State) (a : Nat) (data : List Byte) (p : Bool) :
    (hostWrite s a data p).threads = s.threads := by
  cases p <;> simp [hostWrite]

theorem memByte_hostWrite (s : State) (a : Nat) (data : List Byte) (p : Bool) (b : Nat) :
    memByte (hostWrite s a data p) b = if a ≤ b ∧ b < a + data.length then data.getD (b - a) 0 else memByte s b := by
  have hcount : memByte (countHost s a data.length true) b = memByte s b := memByte_eq_of_mem (countHost_mem s a _ true) b
  cases p <;> simp only [hostWrite, memByte_writeBytes, memByte_writePoison, hcount, if_true, Bool.false_eq_true, if_false]

theorem memKept_hostWrite (s : State) (a : Nat) (data : List Byte) (p : Bool) :
    memKept [(a, data.length)] s (hostWrite s a data p) := by
  intro b h
  have hb : b < a ∨ a + data.length ≤ b := h _ (List.mem_singleton.2 rfl)
  rw [memByte_hostWrite, if_neg]
  omega

theorem poison_hostWrite (s : State) (a : Nat) {data : List Byte} (p : Bool) (l : Nat) (hn : 0 < data.length) :
    Tab.get false (hostWrite s a data p).poison l =
      if p then (Tab.get false s.poison l || decide (l * 128 < a + data.length ∧ a < l * 128 + 128))
      else (Tab.get false s.poison l && !decide (a ≤ l * 128 ∧ l * 128 + 128 ≤ a + data.length)) := by
  have hne : data.length ≠ 0 := Nat.ne_of_gt hn
  cases p
  case false => simp only [hostWrite, poison_writeBytes, countHost_poison, Bool.false_eq_true, if_false]
  case true => simp only [hostWrite, poison_writePoison, countHost_poison, if_true, hne, ne_eq, not_false_eq_true, and_true]

/-! A denied access is counted (R361), and the decoder's state shows in MOD_HOSTLINK (R357). -/

theorem fget_countHostDenied (s : State) : fget (countHostDenied s) F.errNowinHostDenied =
    min (fget s F.errNowinHostDenied + 1) (2 ^ F.errNowinHostDenied.w - 1) :=
  fget_fcount_self s _ 1

theorem exec_hdmDecoderCommit (base : BitVec 52) (s : State) :
    ∃ u, exec (.hdmDecoderCommit base) s = .next u ∧ u.host = { s.host with hdm := some base.toNat } ∧
      flag u F.modHostlinkHdmCommitted = true ∧ u.mem = s.mem := by
  refine ⟨_, rfl, rfl, ?_, rfl⟩
  rw [flag, fget_fput_self]
  rfl

theorem exec_hostLinkReset (s : State) :
    ∃ u, exec .hostLinkReset s = .next u ∧ u.host = { s.host with hdm := none } ∧ flag u F.modHostlinkHdmCommitted = false ∧
      fget u F.modHostlinkResets = min (fget s F.modHostlinkResets + 1) (2 ^ F.modHostlinkResets.w - 1) ∧ u.mem = s.mem := by
  refine ⟨_, rfl, rfl, ?committed, ?resets, rfl⟩
  case committed =>
    rw [flag, fget_fcount_other _ _ (by decide), fget_fput_self]
    rfl
  case resets =>
    rw [fget_fcount_self, fget_fput_other _ _ (by decide)]
    rfl

/-! Each access of the host, by what the decoder and the reserved areas say. -/

theorem exec_hostMem_uncommitted (hpa : BitVec 52) (n : Nat) (errs : List MemErr) (data : List Byte) (p : Bool) {s : State}
    (h : s.host.hdm = none) :
    exec (.hostMemRead hpa n errs) s = .next s ∧ exec (.hostMemWrite hpa data p) s = .next s := by
  rw [exec_hostMemRead_eq, exec_hostMemWrite_eq, execHostMemRead, execHostMemWrite, hostAddr_uncommitted _ _ h,
    hostAddr_uncommitted _ _ h]
  exact ⟨rfl, rfl⟩

theorem exec_hostMemRead_permitted {hpa : BitVec 52} {n a : Nat} (errs : List MemErr) {s : State}
    (ha : hostAddr s hpa.toNat n = some a) (hr : s.tide.running = true) (hmay : hostMayRead a n = true) :
    ∃ u, exec (.hostMemRead hpa n errs) s = .next u ∧ u.mem = s.mem ∧ u.fields = (meetErrors s errs).fields ∧
      u.host.readPoison = poisonedRange (meetErrors s errs) a n ∧
      (poisonedRange (meetErrors s errs) a n = false → u.host.readData = readBytes s a n) := by
  refine ⟨hostRead (meetErrors s errs) a n, ?_, ?_, hostRead_fields _ _ _, ?_, fun hclean => ?_⟩
  · rw [exec_hostMemRead_eq, execHostMemRead_mapped errs ha hr, if_pos hmay]
  · rw [hostRead_mem, meetErrors_mem]
  · rw [hostRead_host]
  · rw [hostRead_host]
    calc srcBytes (meetErrors s errs) a n = readBytes (meetErrors s errs) a n := srcBytes_of_not_poisoned hclean
      _ = readBytes s a n := readBytes_congr (fun b _ _ => memByte_eq_of_mem (meetErrors_mem s errs) b)

theorem exec_hostMemRead_denied {hpa : BitVec 52} {n a : Nat} (errs : List MemErr) {s : State}
    (ha : hostAddr s hpa.toNat n = some a) (hr : s.tide.running = true) (hmay : ¬ hostMayRead a n = true) :
    ∃ u, exec (.hostMemRead hpa n errs) s = .next u ∧ u.mem = s.mem ∧ u.host.readData = List.replicate n 0#8 ∧
      fget u F.errNowinHostDenied = min (fget s F.errNowinHostDenied + 1) (2 ^ F.errNowinHostDenied.w - 1) := by
  refine ⟨countHostDenied (answerRead s (List.replicate n 0#8) false), ?_, rfl, rfl, fget_countHostDenied _⟩
  rw [exec_hostMemRead_eq, execHostMemRead_mapped errs ha hr, if_neg hmay]

theorem exec_hostMemWrite_permitted {hpa : BitVec 52} {data : List Byte} {a : Nat} (p : Bool) {s : State}
    (ha : hostAddr s hpa.toNat data.length = some a) (hr : s.tide.running = true)
    (hmay : hostMayWrite a data.length = true) : exec (.hostMemWrite hpa data p) s = .next (hostWrite s a data p) := by
  rw [exec_hostMemWrite_eq, execHostMemWrite_mapped p ha hr, if_pos hmay]

theorem exec_hostMemWrite_denied {hpa : BitVec 52} {data : List Byte} {a : Nat} (p : Bool) {s : State}
    (ha : hostAddr s hpa.toNat data.length = some a) (hr : s.tide.running = true)
    (hmay : ¬ hostMayWrite a data.length = true) : exec (.hostMemWrite hpa data p) s = .next (countHostDenied s) := by
  rw [exec_hostMemWrite_eq, execHostMemWrite_mapped p ha hr, if_neg hmay]

/-! The mailbox (Table 13-1, assumption 16). -/

/-- Command c completes with a code and n bytes of data; only free values are taken beside. -/
def MailboxAnswer (s : State) (c : Instr) (code n : Nat) (u : State) : Prop :=
  exec c s = .next u ∧ u.host.mboxCode = code ∧ u.host.mboxData.length = n ∧
    u = { s with free := u.free, host := u.host } ∧ u.host.hdm = s.host.hdm

/-- What firmware serves is answered so. -/
theorem mailboxAnswer_of_served {c : Instr} {s : State} {bs : List Byte} {k code n : Nat} (hup : firmwareUp s = true)
    (hc : exec c s = served s (tookFree (mailbox s code bs) k)) (hn : bs.length = n) :
    MailboxAnswer s c code n (tookFree (mailbox s code bs) k) :=
  ⟨hc.trans (whenever_of_true _ s hup), rfl, hn, rfl, rfl⟩

@[simp] theorem freeData_length (s : State) (n : Nat) : (freeData s n).length = n := by simp [freeData]

theorem identifyData_length (s : State) : (identifyData s).length = 67 := by simp [identifyData]

/-- Total, volatile and persistent capacity as Identify Memory Device gives them, in units of 256 MiB. -/
theorem identifyData_capacities (s : State) :
    natOfBytes (((identifyData s).drop 16).take 8) = 576 ∧ natOfBytes (((identifyData s).drop 24).take 8) = 576 ∧
      natOfBytes (((identifyData s).drop 32).take 8) = 0 :=
  ⟨natOfBytes_bytesOfNat 8 576, natOfBytes_bytesOfNat 8 576, natOfBytes_bytesOfNat 8 0⟩

/-- Entry i of the Command Effects Log begins with the opcode of command i. -/
theorem celData_opcode (s : State) {i : Nat} (h : i < 8) :
    natOfBytes (((celData s).drop (4 * i)).take 2) = mailboxOpcodes.getD i 0 := by
  have hbytes : ((celData s).drop (4 * i)).take 2 = bytesOfNat 2 (mailboxOpcodes.getD i 0) := by
    obtain rfl | rfl | rfl | rfl | rfl | rfl | rfl | rfl :
        i = 0 ∨ i = 1 ∨ i = 2 ∨ i = 3 ∨ i = 4 ∨ i = 5 ∨ i = 6 ∨ i = 7 := by omega
    all_goals rfl
  have hop : mailboxOpcodes.getD i 0 < 256 ^ 2 :=
    (by decide : ∀ i, i < 8 → mailboxOpcodes.getD i 0 < 256 ^ 2) i h
  rw [hbytes, natOfBytes_bytesOfNat, Nat.mod_eq_of_lt hop]

theorem natOfBytes_bytesOfNat_word (w : Word) : natOfBytes (bytesOfNat 8 w.toNat) = w.toNat := by
  rw [natOfBytes_bytesOfNat]
  exact Nat.mod_eq_of_lt w.isLt

theorem exec_unsupportedMailboxCommand {op : BitVec 16} (s : State) (h : mailboxOpcodes.contains op.toNat = false) :
    exec (.unsupportedMailboxCommand op) s = served s (mailbox s 3 []) :=
  if_neg (by rw [h]; exact Bool.false_ne_true)

theorem exec_unsupportedMailboxCommand_ignored (op : BitVec 16) {s : State}
    (h : firmwareUp s = false ∨ mailboxOpcodes.contains op.toNat = true) :
    exec (.unsupportedMailboxCommand op) s = .next s := by
  by_cases hop : mailboxOpcodes.contains op.toNat = true
  · exact if_pos hop
  · rw [exec_unsupportedMailboxCommand s (Bool.eq_false_iff.2 hop)]
    exact whenever_of_false _ s (h.resolve_right hop)

/-- Without running firmware the mailbox does not answer. -/
theorem exec_mailbox_down {s : State} (h : firmwareUp s = false) {c : Instr}
    (hc : c ∈ [Instr.identifyMemoryDevice, .getSupportedLogs, .getLog, .getHealthInfo, .getEventRecords,
      .clearEventRecords, .getTimestamp]) : exec c s = .next s := by
  have hdown (t : State) : served s t = .next s := whenever_of_false t s h
  simp only [List.mem_cons, List.not_mem_nil, or_false] at hc
  rcases hc with rfl | rfl | rfl | rfl | rfl | rfl | rfl <;> exact hdown _

/-- Settles O59: an access by whether the decoder maps it and whether the host may use its bytes; a mailbox command by the
data that firmware serves. -/
theorem hostAccessesAndMailbox : Obligations.HostAccessesAndMailbox := by
  unfold Obligations.HostAccessesAndMailbox
  refine ⟨⟨fun base s => ⟨exec_hdmDecoderCommit base s, exec_hostLinkReset s⟩,
    fun hpa n errs data p s hnone => exec_hostMem_uncommitted hpa n errs data p hnone,
    fun hpa h n errs s hcommitted hr hlo hn hhi => ?read, fun hpa h data p s hcommitted hr hlo hn hhi => ?write⟩,
    fun s => ⟨fun hup => ?mailbox, fun hdown c hc => exec_mailbox_down hdown hc,
      fun op hop => exec_unsupportedMailboxCommand_ignored op hop, fun hdown ts => whenever_of_false _ s hdown⟩⟩
  case read =>
    have ha := hostAddr_committed hcommitted hlo hn hhi
    refine ⟨fun hmay => exec_hostMemRead_permitted errs ha hr ((hostMayRead_iff _ _).2 hmay), fun hnil => ?_,
      fun hres hout => exec_hostMemRead_denied errs ha hr fun hmay => ?_⟩
    · rw [hnil]
      rfl
    · rcases (hostMayRead_iff _ _).1 hmay with hfree | hin
      · rw [hres] at hfree
        cases hfree
      · exact hout hin
  case write =>
    have ha := hostAddr_committed hcommitted hlo hn hhi
    refine ⟨fun hmay => ⟨_, exec_hostMemWrite_permitted p ha hr ((hostMayWrite_iff _ _).2 hmay), memKept_hostWrite _ _ _ _,
      hostWrite_fields _ _ _ _, hostWrite_threads _ _ _ _, fun i hi => ?_, fun l => poison_hostWrite s _ p l hn⟩,
      fun hmay => ⟨_, exec_hostMemWrite_denied p ha hr (fun h => hmay ((hostMayWrite_iff _ _).1 h)), rfl, rfl, rfl,
        fget_countHostDenied s⟩⟩
    rw [memByte_hostWrite, if_pos (by omega), Nat.add_sub_cancel_left]
  case mailbox =>
    have answer {c : Instr} {bs : List Byte} {k code n : Nat} := mailboxAnswer_of_served (c := c) (bs := bs) (k := k)
      (code := code) (n := n) hup
    exact ⟨⟨_, answer rfl (identifyData_length s), identifyData_capacities s⟩,
      ⟨_, answer (k := 0) rfl rfl, natOfBytes_bytesOfNat 2 1⟩,
      ⟨_, answer rfl rfl, fun i hi => celData_opcode s hi⟩,
      ⟨_, answer rfl (freeData_length s 18)⟩, ⟨_, answer rfl (freeData_length s 32)⟩, ⟨_, answer (k := 0) rfl rfl⟩,
      ⟨_, answer (k := 0) rfl (bytesOfNat_length 8 _), natOfBytes_bytesOfNat_word _, rfl⟩,
      fun ts => ⟨_, ⟨whenever_of_true _ s hup, rfl, rfl, rfl, rfl⟩, rfl⟩,
      fun op hop => ⟨_, answer (k := 0) (exec_unsupportedMailboxCommand s hop) rfl⟩⟩

end Sys2Proof.Machine
end

section
/-! ARM, ABORT and END by the launch state, and the end of a job (R102, R118, R295, R344, R367 to R371, R432, Table 13-5). -/

namespace Sys2Proof.Tab

/-- What a write leaves at its index for a reader of any default: nothing is listed when the value is the writer's default. -/
theorem get_set_at {α : Type} [DecidableEq α] (d e : α) (t : Tab α) (k : Nat) (x : α) :
    get d (set e t k x) k = if x = e then d else x := by
  unfold set
  split
  · exact get_erase_self d t k
  · exact get_insert_self d t k x

end Sys2Proof.Tab

namespace Sys2Proof.Machine

/-! The commands of this section are the functions of Machine/Launch.lean. -/

theorem exec_arm_eq (s : State) : exec .arm s = execArm s := rfl
theorem exec_abort_eq (s : State) : exec .abort s = execAbort s := rfl
theorem exec_endCmd_eq (s : State) : exec .endCmd s = execEndCmd s := rfl
theorem exec_prepare_eq (o : LoadObs) (s : State) : exec (.prepare o) s = execPrepare o s := rfl
theorem exec_endInstant_eq (s : State) : exec .endInstant s = execEndInstant s := rfl

/-- A fold over a list that has x leaves what the operation brings about for x and never undoes. -/
theorem foldl_establishes {α : Type} {P : State → Prop} {f : State → α → State} {x : α} (hx : ∀ s, P (f s x))
    (hkeep : ∀ s y, P s → P (f s y)) {l : List α} (h : x ∈ l) (s : State) : P (l.foldl f s) := by
  induction l generalizing s with
  | nil => cases h
  | cons y rest ih =>
    rw [List.foldl_cons]
    rcases List.mem_cons.1 h with rfl | hmem
    · exact List.foldlRecOn rest f (hx s) (fun t ht y _ => hkeep t y ht)
    · exact ih hmem _

/-! Fields zeroed. -/

/-- Zero written to a field, and to any other field where this one reads zero, leaves it at zero when zero is its reset
value. -/
theorem fget_fput_zero {s : State} {f : Field} (k : Field) (hrst : f.rst = 0) (h : fieldKey f = fieldKey k ∨ fget s f = 0) :
    fget (fput s k 0) f = 0 := by
  by_cases hk : fieldKey f = fieldKey k
  · have hread : fget (fput s k 0) f = if 0 % 2 ^ k.w = k.rst then f.rst else 0 % 2 ^ k.w := by
      rw [fget, hk]
      exact Tab.get_set_at f.rst k.rst s.fields _ _
    rw [hread, hrst, Nat.zero_mod, ite_self]
  · rw [fget_fput_other s 0 hk]
    exact h.resolve_left hk

theorem fget_zeroFields_of_zero {s : State} {f : Field} (fs : List Field) (hrst : f.rst = 0) (h : fget s f = 0) :
    fget (zeroFields s fs) f = 0 := by
  induction fs generalizing s with
  | nil => exact h
  | cons k rest ih => exact ih (fget_fput_zero k hrst (.inr h))

theorem fget_zeroFields_mem (s : State) {f : Field} {fs : List Field} (hrst : f.rst = 0) (h : f ∈ fs) :
    fget (zeroFields s fs) f = 0 := by
  induction fs generalizing s with
  | nil => cases h
  | cons k rest ih =>
    rcases List.mem_cons.1 h with rfl | hmem
    · exact fget_zeroFields_of_zero rest hrst (fget_fput_zero f hrst (.inl rfl))
    · exact ih _ hmem

theorem fget_zeroFields_other (s : State) {f : Field} {fs : List Field} (h : ∀ k ∈ fs, fieldKey f ≠ fieldKey k) :
    fget (zeroFields s fs) f = fget s f := by
  induction fs generalizing s with
  | nil => rfl
  | cons k rest ih =>
    rw [zeroFields, ih _ (fun j hj => h j (List.mem_cons_of_mem k hj)), fget_fput_other s 0 (h k List.mem_cons_self)]

theorem zeroFields_append (s : State) (fs ks : List Field) : zeroFields s (fs ++ ks) = zeroFields (zeroFields s fs) ks := by
  induction fs generalizing s with
  | nil => rfl
  | cons k rest ih => exact ih _

theorem foldl_eq_zeroFields {α : Type} {f : State → α → State} {fs : α → List Field}
    (h : ∀ s x, f s x = zeroFields s (fs x)) (l : List α) (s : State) : l.foldl f s = zeroFields s (l.flatMap fs) := by
  induction l generalizing s with
  | nil => rfl
  | cons x rest ih => rw [List.foldl_cons, ih, h, List.flatMap_cons, zeroFields_append]

/-! Ramping down writes the power state alone (R432). -/

theorem rampDown_frame (s : State) : rampDown s = { s with fields := (rampDown s).fields } := by
  unfold rampDown
  split <;> rfl

@[simp] theorem rampDown_job (s : State) : (rampDown s).job = s.job := by rw [rampDown_frame]
@[simp] theorem rampDown_threads (s : State) : (rampDown s).threads = s.threads := by rw [rampDown_frame]
@[simp] theorem rampDown_mem (s : State) : (rampDown s).mem = s.mem := by rw [rampDown_frame]

theorem fget_rampDown_other (s : State) {f : Field} (h : fieldKey f ≠ fieldKey F.pwrStateState) :
    fget (rampDown s) f = fget s f := by
  unfold rampDown
  split
  · exact fget_fput_other s 3 h
  · rfl

theorem pwrState_rampDown (s : State) :
    pwrState (rampDown s) = if pwrState s = 1 ∨ pwrState s = 2 then 3 else pwrState s := by
  unfold rampDown
  split
  · exact fget_fput_self s _ 3
  · rfl

/-! The answer of a launch command (Table 13-6). -/

@[simp] theorem ack_job (s : State) (st result gf : Nat) : (ack s st result gf).job =
    { s.job with st := st, result := result, groupFail := gf, acked := lpSeq s.job.page, cmd := none, ramping := false } :=
  setJob_job s _

@[simp] theorem ack_fields (s : State) (st result gf : Nat) : (ack s st result gf).fields = s.fields := setJob_fields s _
@[simp] theorem ack_threads (s : State) (st result gf : Nat) : (ack s st result gf).threads = s.threads := setJob_threads s _
@[simp] theorem ack_stage (s : State) (st result gf : Nat) : (ack s st result gf).stage = s.stage := setJob_stage s _
@[simp] theorem fget_ack (s : State) (st result gf : Nat) (f : Field) : fget (ack s st result gf) f = fget s f :=
  fget_setJob s _ f

theorem carrying_of {s : State} {code : Nat} (hcmd : s.job.cmd = some code) (hramp : s.job.ramping = false) :
    carrying s code = true := by simp [carrying, hcmd, hramp]

/-- A command that is not being carried out does nothing. -/
theorem exec_launchCommands_idle {s : State} (o : LoadObs) (hcmd : s.job.cmd = none) :
    exec .arm s = .next s ∧ exec .abort s = .next s ∧ exec .endCmd s = .next s ∧ exec (.prepare o) s = .next s := by
  have hidle (code : Nat) : carrying s code = false := by simp [carrying, hcmd]
  rw [exec_arm_eq, exec_abort_eq, exec_endCmd_eq, exec_prepare_eq]
  exact ⟨whenever_of_false _ s (hidle 2), whenever_of_false _ s (hidle 3), whenever_of_false _ s (hidle 4),
    whenever_of_false _ s (hidle 1)⟩

/-! ARM (R368). -/

theorem at_lt (bs : List Byte) (off n : Nat) : at_ bs off n < 256 ^ n :=
  Nat.lt_of_lt_of_le (natOfBytes_lt _) (Nat.pow_le_pow_right (by decide) (List.length_take_le _ _))

theorem lpAt_lt (page : List Byte) : lpAt page < 2 ^ 64 := at_lt page 0x50 8

theorem stagingBusy_iff (s : State) : stagingBusy s = true ↔ stageState s = 1 ∨ stageState s = 4 := by simp [stagingBusy]

theorem passStands_iff (s : State) :
    passStands s = true ↔ stageState s = 2 ∧ ownedBy s .fw = true ∧ s.stage.groups = 3#5 := by
  simp [passStands, and_assoc]

/-- The staging machinery armed for an instant. -/
def armedFor (s : State) (t : Nat) : State :=
  setStage { fput s F.tideCommitAtCommitNs t with stage := { s.stage with armedAt := t } } 4

/-- Where the pass of PREPARE stands, the groups are armed for an instant at a hold boundary far enough ahead (R60). -/
theorem armStage_of_pass {s : State} {t : Nat} (hpass : passStands s = true) (ht : t < 2 ^ 64) (hat : t % 16384 = 0)
    (hfar : s.tide.now + 16384 ≤ t) : armStage (fput s F.tideCommitAtCommitNs t) .fw = armedFor s t := by
  obtain ⟨hst, hown, _⟩ := (passStands_iff s).1 hpass
  have hcommit : fget (fput s F.tideCommitAtCommitNs t) F.tideCommitAtCommitNs = t :=
    (fget_fput_self s _ t).trans (Nat.mod_eq_of_lt ht)
  have hst' : stageState (fput s F.tideCommitAtCommitNs t) = 2 := (fget_fput_other s t (by decide)).trans hst
  have hown' := (fget_fput_other s (f := F.tideCommitAtCommitNs) t (by decide)).trans ((ownedBy_iff s .fw).1 hown)
  rw [armStage_owned hst' hown', hcommit]
  exact (if_neg (Nat.not_lt.2 hfar)).trans (if_neg (fun h => h.2 hat))

theorem exec_arm {s : State} (hcmd : s.job.cmd = some 2) (hramp : s.job.ramping = false) : exec .arm s = .next
    (if stagingBusy s then ack s 2 3 0
     else if lpAt s.job.page % 16384 ≠ 0 ∨ lpAt s.job.page < s.tide.now + 16384 then ack s 2 0xA 0
     else if passStands s then
       let t := armStage (fput s F.tideCommitAtCommitNs (lpAt s.job.page)) .fw
       ack (setJob t { t.job with commitNs := BitVec.ofNat 64 (lpAt s.job.page) }) 4 0 0
     else ack (rampDown s) 3 7 (fget s F.tideStageStatusFailCode)) := by
  rw [exec_arm_eq, execArm]
  exact whenever_of_true _ s (carrying_of hcmd hramp)

/-- The parts of an answer that ARM gives in each case: done, acknowledged, and no thread touched. -/
def ArmDone (s u : State) : Prop :=
  u.job.cmd = none ∧ u.job.acked = BitVec.ofNat 32 (at_ s.job.page 8 4) ∧ u.threads = s.threads

theorem armDone_ack (s : State) (st result gf : Nat) : ArmDone s (ack s st result gf) := by
  simp [ArmDone, lpSeq]

theorem exec_arm_accepted {s : State} (hcmd : s.job.cmd = some 2) (hramp : s.job.ramping = false)
    (hat : lpAt s.job.page % 16384 = 0) (hfar : s.tide.now + 16384 ≤ lpAt s.job.page) (hpass : passStands s = true) :
    exec .arm s = .next (ack (setJob (armedFor s (lpAt s.job.page))
      { s.job with commitNs := BitVec.ofNat 64 (lpAt s.job.page) }) 4 0 0) := by
  have hbusy : ¬ stagingBusy s = true := by
    rw [stagingBusy_iff, ((passStands_iff s).1 hpass).1]
    decide
  have hinstant : ¬ (lpAt s.job.page % 16384 ≠ 0 ∨ lpAt s.job.page < s.tide.now + 16384) := by omega
  rw [exec_arm hcmd hramp, if_neg hbusy, if_neg hinstant, if_pos hpass, armStage_of_pass hpass (lpAt_lt _) hat hfar]
  rfl

/-- What an accepted ARM leaves: the instant, in the job and in TIDE_COMMIT_AT, and the groups armed for it. -/
theorem armed_state (s : State) {t : Nat} (ht : t < 2 ^ 64) :
    let u := ack (setJob (armedFor s t) { s.job with commitNs := BitVec.ofNat 64 t }) 4 0 0
    ArmDone s u ∧ u.job.st = 4 ∧ u.job.result = 0 ∧ u.job.commitNs.toNat = t ∧ stageState u = 4 ∧
      fget u F.tideCommitAtCommitNs = t ∧ u.stage = { s.stage with armedAt := t } := by
  have hjob : (BitVec.ofNat 64 t).toNat = t := by
    rw [BitVec.toNat_ofNat]
    exact Nat.mod_eq_of_lt ht
  have hcommit : fget (armedFor s t) F.tideCommitAtCommitNs = t := by
    rw [armedFor, setStage, fget_fput_other _ _ (by decide)]
    exact (fget_fput_self s _ t).trans (Nat.mod_eq_of_lt ht)
  refine ⟨?_, ?_, ?_, ?_, ?_, ?_, ?_⟩
  · simp [ArmDone, lpSeq, armedFor, setStage]
  · rw [ack_job]
  · rw [ack_job]
  · rw [ack_job, setJob_job]
    exact hjob
  · rw [stageState, fget_ack, fget_setJob]
    exact fget_fput_self _ _ 4
  · rw [fget_ack, fget_setJob, hcommit]
  · rw [ack_stage, setJob_stage]
    rfl

/-! ABORT (R369). -/

/-- The fields of region n and of Crane c's binding (R103, R104). -/
def regionFields (n : Nat) : List Field :=
  [0, 1].flatMap (fun d => [F.tugRegionBaseRd d n, F.tugRegionBaseWr d n, F.tugRegionBaseEx d n, F.tugRegionBaseEn d n,
    F.tugRegionBaseBase d n, F.tugRegionLimitLast d n])
def bindingFields (c : Nat) : List Field := [F.tugCqBindThread (c / 8) (c % 8), F.tugCqBindEn (c / 8) (c % 8)]

def releasedFields : List Field := (List.range 16).flatMap regionFields ++ (List.range 16).flatMap bindingFields

theorem putRegion_zero (s : State) (n : Nat) : putRegion s 0 0 n = zeroFields s (regionFields n) := by
  simp [putRegion, regionFields, zeroFields]

theorem bindCrane_zero (s : State) (c : Nat) : bindCrane s 0 c = zeroFields s (bindingFields c) := by
  simp [bindCrane, bindingFields, zeroFields]

theorem releaseJob_eq (s : State) : releaseJob s = zeroFields s releasedFields := by
  rw [releaseJob, releasedFields, zeroFields_append, foldl_eq_zeroFields putRegion_zero, foldl_eq_zeroFields bindCrane_zero]

theorem region_mem_releasedFields {d n : Nat} (hd : d < 2) (hn : n < 16) : F.tugRegionBaseEn d n ∈ releasedFields := by
  have hdie : d ∈ [0, 1] := by
    simp only [List.mem_cons, List.not_mem_nil, or_false]
    omega
  refine List.mem_append_left _ (List.mem_flatMap.2 ⟨n, List.mem_range.2 hn, List.mem_flatMap.2 ⟨d, hdie, ?_⟩⟩)
  simp only [List.mem_cons, true_or, or_true]

theorem binding_mem_releasedFields {d c : Nat} (hd : d < 2) (hc : c < 8) : F.tugCqBindEn d c ∈ releasedFields := by
  refine List.mem_append_right _ (List.mem_flatMap.2 ⟨8 * d + c, List.mem_range.2 (by omega), ?_⟩)
  rw [bindingFields, show (8 * d + c) / 8 = d by omega, show (8 * d + c) % 8 = c by omega]
  simp

/-- They all lie in the TUG blocks. -/
theorem off_releasedFields {k : Field} (h : k ∈ releasedFields) : 0x1800000 ≤ k.off := by
  have hregion (n : Nat) : ∀ k ∈ regionFields n, 0x1800000 ≤ k.off := by
    simp only [regionFields, F.tugRegionBaseRd, F.tugRegionBaseWr, F.tugRegionBaseEx, F.tugRegionBaseEn, F.tugRegionBaseBase,
      F.tugRegionLimitLast, List.flatMap_cons, List.flatMap_nil, List.append_nil, List.cons_append, List.nil_append,
      List.mem_cons, List.not_mem_nil, or_false, forall_eq_or_imp, forall_eq]
    omega
  have hbinding (c : Nat) : ∀ k ∈ bindingFields c, 0x1800000 ≤ k.off := by
    simp only [bindingFields, F.tugCqBindThread, F.tugCqBindEn, List.mem_cons, List.not_mem_nil, or_false, forall_eq_or_imp,
      forall_eq]
    omega
  rcases List.mem_append.1 h with hk | hk
  · obtain ⟨n, _, hmem⟩ := List.mem_flatMap.1 hk
    exact hregion n k hmem
  · obtain ⟨c, _, hmem⟩ := List.mem_flatMap.1 hk
    exact hbinding c k hmem

theorem stageState_releaseJob (s : State) : stageState (releaseJob s) = stageState s := by
  rw [releaseJob_eq]
  refine fget_zeroFields_other s (fun k hk => ?_)
  have hoff := off_releasedFields hk
  simp only [fieldKey, F.tideStageStatusStageState]
  omega

theorem stageState_discardStage {s : State} (h : stageState s = 2 ∨ stageState s = 4) : stageState (discardStage s) = 0 := by
  rw [discardStage, if_pos h]
  exact fget_fput_self _ _ 0

theorem exec_abort {s : State} (hcmd : s.job.cmd = some 3) (hramp : s.job.ramping = false) : exec .abort s = .next
    (if s.job.st = 4 ∧ s.job.commitNs.toNat < s.tide.now + 16384 then ack s 4 0xB 0
     else if s.job.st = 3 then ack (rampDown s) 0 0 0
     else ack (rampDown (releaseJob (if ownedBy s .fw then discardStage s else s))) 0 0 0) := by
  rw [exec_abort_eq, execAbort]
  exact whenever_of_true _ s (carrying_of hcmd hramp)

/-- A job's regions and bindings are released, and firmware's staged pass is thrown away. -/
theorem aborted_state (s : State) :
    let u := ack (rampDown (releaseJob (if ownedBy s .fw then discardStage s else s))) 0 0 0
    (∀ d n, d < 2 → n < 16 → fget u (F.tugRegionBaseEn d n) = 0) ∧
      (∀ d c, d < 2 → c < 8 → fget u (F.tugCqBindEn d c) = 0) ∧
      (ownedBy s .fw = true → (stageState s = 2 ∨ stageState s = 4) → stageState u = 0) := by
  refine ⟨fun d n hd hn => ?_, fun d c hd hc => ?_, fun hown hst => ?_⟩
  · have hkey : fieldKey (F.tugRegionBaseEn d n) ≠ fieldKey F.pwrStateState := by
      simp only [fieldKey, F.tugRegionBaseEn, F.pwrStateState]
      omega
    rw [fget_ack, fget_rampDown_other _ hkey, releaseJob_eq]
    exact fget_zeroFields_mem _ rfl (region_mem_releasedFields hd hn)
  · have hkey : fieldKey (F.tugCqBindEn d c) ≠ fieldKey F.pwrStateState := by
      simp only [fieldKey, F.tugCqBindEn, F.pwrStateState]
      omega
    rw [fget_ack, fget_rampDown_other _ hkey, releaseJob_eq]
    exact fget_zeroFields_mem _ rfl (binding_mem_releasedFields hd hc)
  · rw [if_pos hown, stageState, fget_ack, fget_rampDown_other _ (by decide)]
    exact (stageState_releaseJob _).trans (stageState_discardStage hst)

/-! END (R370). -/

theorem exec_endCmd {s : State} (hcmd : s.job.cmd = some 4) (hramp : s.job.ramping = false) : exec .endCmd s = .next
    (ack (setJob s { s.job with endAt := some (max (lpAt s.job.page) (s.tide.now + 16384)) }) 5 0 0) := by
  have hmax : (if s.tide.now + 16384 ≤ lpAt s.job.page then lpAt s.job.page else s.tide.now + 16384) =
      max (lpAt s.job.page) (s.tide.now + 16384) := by
    split <;> omega
  rw [exec_endCmd_eq, execEndCmd, ← hmax]
  exact whenever_of_true _ s (carrying_of hcmd hramp)

/-! Job threads parked (R370). -/

/-- A step of `parkJobThreads`. -/
def parkIfJob (s : State) (t : Nat) : State := if isJobThread t then parkThread s t else s

theorem parkJobThreads_eq (s : State) : parkJobThreads s = (s.threads.map (·.1)).foldl parkIfJob s := rfl

theorem parkJobThreads_frame (s : State) : parkJobThreads s = { s with threads := (parkJobThreads s).threads } := by
  rw [parkJobThreads_eq]
  refine List.foldlRecOn _ _ (motive := fun u : State => u = { s with threads := u.threads }) rfl (fun u hu t _ => ?_)
  unfold parkIfJob
  split
  · rw [hu]
    rfl
  · exact hu

theorem thread_parkThread (s : State) (k t : Nat) : thread (parkThread s k) t =
    if t = k then { thread s k with st := .parked, waitOn := none, held := none } else thread s t :=
  Tab.get_set _ _ _ _ _

/-- A thread that no array lists is parked, as reset leaves it. -/
theorem thread_of_not_listed {s : State} {t : Nat} (h : t ∉ s.threads.map (·.1)) : thread s t = {} := by
  unfold thread
  generalize s.threads = threads at h ⊢
  induction threads with
  | nil => rfl
  | cons x rest ih =>
    obtain ⟨i, th⟩ := x
    rw [List.map_cons, List.mem_cons, not_or] at h
    rw [Tab.get, if_neg (Ne.symm h.1), ih h.2]

theorem thread_parkIfJob_parked {s : State} {t : Nat} (k : Nat) (h : (thread s t).st = .parked) :
    (thread (parkIfJob s k) t).st = .parked := by
  unfold parkIfJob
  split
  · rw [thread_parkThread]
    split
    · rfl
    · exact h
  · exact h

theorem thread_parkJobThreads_job (s : State) {t : Nat} (h : isJobThread t = true) :
    (thread (parkJobThreads s) t).st = .parked := by
  rw [parkJobThreads_eq]
  by_cases hlisted : t ∈ s.threads.map (·.1)
  · refine foldl_establishes (P := fun u => (thread u t).st = .parked) (fun u => ?_)
      (fun u k hu => thread_parkIfJob_parked k hu) hlisted s
    rw [parkIfJob, if_pos h, thread_parkThread, if_pos rfl]
  · refine List.foldlRecOn _ _ (motive := fun u => (thread u t).st = .parked) ?_ (fun u hu k _ => thread_parkIfJob_parked k hu)
    rw [thread_of_not_listed hlisted]

theorem thread_parkJobThreads_firmware (s : State) {t : Nat} (h : isJobThread t = false) :
    thread (parkJobThreads s) t = thread s t := by
  rw [parkJobThreads_eq]
  refine List.foldlRecOn _ _ (motive := fun u => thread u t = thread s t) rfl (fun u hu k _ => ?_)
  unfold parkIfJob
  split
  case isTrue hk =>
    have hne : t ≠ k := fun e => Bool.false_ne_true (h.symm.trans (e ▸ hk))
    rw [thread_parkThread, if_neg hne, hu]
  case isFalse => exact hu

/-! What ends a job (Table 13-5). -/

/-- The state in which nothing new of the job starts, before its end shows on the status page. -/
def stoppedWork (s : State) : State :=
  let u := parkJobThreads s
  abortArmed (fput { u with tide := { u.tide with due := [], dls := [] }, ledger := { u.ledger with flips := [] } }
    F.ledgerStatusPending 0)

theorem stopByEnd_eq (s : State) (cause : Nat) (detail : Word) : stopByEnd s cause detail = setJob (stoppedWork s)
    { (stoppedWork s).job with st := 6, endCause := cause, endDetail := detail, stopped := true, endAt := none } := rfl

theorem abortArmed_frame (s : State) : abortArmed s = { s with fields := (abortArmed s).fields } := by
  unfold abortArmed
  split <;> rfl

theorem stoppedWork_frame (s : State) : stoppedWork s = { s with
    threads := (parkJobThreads s).threads
    tide := { s.tide with due := [], dls := [] }
    ledger := { s.ledger with flips := [] }
    fields := (stoppedWork s).fields } := by
  unfold stoppedWork
  dsimp only
  rw [abortArmed_frame, parkJobThreads_frame]
  rfl

theorem thread_stopByEnd (s : State) (cause : Nat) (detail : Word) (t : Nat) :
    thread (stopByEnd s cause detail) t = thread (parkJobThreads s) t := by
  simp only [thread, stopByEnd_eq, setJob_threads]
  rw [stoppedWork_frame]

theorem exec_endInstant_due {s : State} {t : Nat} (hend : s.job.endAt = some t) :
    exec .endInstant s = whenever (decide (s.job.st = 5) && decide (t ≤ s.tide.now)) (stopByEnd s 1 0) s := by
  rw [exec_endInstant_eq, execEndInstant, hend]

theorem programFault_ends {s : State} {f : ProgFault} (hst : s.job.st = 5) (hf : faultCaptured s f = true) :
    (decide (s.job.st = 5) && faultCaptured s f) = true := by rw [decide_eq_true hst, hf, Bool.and_self]

theorem exec_programFaultEnd_none {s : State} (f : ProgFault) (h : s.job.st ≠ 5 ∨ faultCaptured s f = false) :
    exec (.programFaultEnd f) s = .next s := by
  refine whenever_of_false _ s ?_
  rcases h with hst | hf
  · rw [decide_eq_false hst, Bool.false_and]
  · rw [hf, Bool.and_false]

/-! Started work has retired (R371, R432). -/

/-- The activation tables of Crane c are as start-up leaves them. -/
def TablesReset (c : Nat) (s : State) : Prop :=
  (crane s c).act = [] ∧ (crane s c).ebb1 = [] ∧ fget s (F.craneActGenFloodValid c) = 0

/-- The fields of CRANE_ACT_GEN. -/
def actGenFields (c : Nat) : List Field :=
  [F.craneActGenGen0 c, F.craneActGenGen1 c, F.craneActGenGen2 c, F.craneActGenGen3 c, F.craneActGenDirty c,
    F.craneActGenFloodValid c]

theorem resetTables_eq (s : State) (c : Nat) : resetTables s c =
    zeroFields (setCrane s c { crane s c with act := [], ebb1 := [], heldAct := [] }) (actGenFields c) := rfl

theorem zeroFields_frame (s : State) (fs : List Field) : zeroFields s fs = { s with fields := (zeroFields s fs).fields } := by
  induction fs generalizing s with
  | nil => rfl
  | cons k rest ih => exact (ih _).trans rfl

theorem crane_resetTables (s : State) (k c : Nat) : crane (resetTables s k) c =
    if c = k then { crane s k with act := [], ebb1 := [], heldAct := [] } else crane s c := by
  rw [resetTables_eq, zeroFields_frame]
  exact Tab.get_set _ _ _ _ _

theorem tablesReset_resetTables_self (c : Nat) (s : State) : TablesReset c (resetTables s c) := by
  refine ⟨?_, ?_, fget_zeroFields_mem _ rfl (by simp)⟩ <;> rw [crane_resetTables, if_pos rfl]

theorem tablesReset_resetTables {c : Nat} {s : State} (k : Nat) (h : TablesReset c s) : TablesReset c (resetTables s k) := by
  obtain ⟨hact, hebb, hflood⟩ := h
  refine ⟨?_, ?_, fget_zeroFields_of_zero _ rfl hflood⟩
  · rw [crane_resetTables]
    split
    · rfl
    · exact hact
  · rw [crane_resetTables]
    split
    · rfl
    · exact hebb

/-- The Cranes' tables all reset. -/
def resetAllTables (s : State) : State := (List.range 16).foldl resetTables s

theorem resetAllTables_frame (s : State) : resetAllTables s =
    { s with cranes := (resetAllTables s).cranes, fields := (resetAllTables s).fields } := by
  refine List.foldlRecOn _ _ (motive := fun u : State => u = { s with cranes := u.cranes, fields := u.fields }) rfl (fun u hu c _ => ?_)
  rw [resetTables_eq, zeroFields_frame, hu]
  rfl

theorem tablesReset_resetAllTables (s : State) {c : Nat} (hc : c < 16) : TablesReset c (resetAllTables s) :=
  foldl_establishes (tablesReset_resetTables_self c) (fun _ k h => tablesReset_resetTables k h) (List.mem_range.2 hc) s

theorem pwrState_resetAllTables (s : State) : pwrState (resetAllTables s) = pwrState s := by
  refine List.foldlRecOn _ _ (motive := fun u => pwrState u = pwrState s) rfl (fun u hu c _ => ?_)
  refine (fget_zeroFields_other _ ?_).trans hu
  simp only [List.forall_mem_cons, fieldKey, F.pwrStateState, F.craneActGenGen0, F.craneActGenGen1, F.craneActGenGen2,
    F.craneActGenGen3, F.craneActGenDirty, F.craneActGenFloodValid]
  refine ⟨?_, ?_, ?_, ?_, ?_, ?_, by simp⟩ <;> omega

/-- The state that JOB_ENDED leaves. -/
def endedState (s : State) : State := rampDown (writeFound (setJob (resetAllTables s) { s.job with st := 7 }))

theorem exec_jobEnded_quiet {s : State} (hst : s.job.st = 6) (hq : quiet s = true) :
    exec .jobEnded s = .next (endedState s) :=
  whenever_of_true _ s (by rw [decide_eq_true hst, hq, Bool.and_self])

theorem exec_jobEnded_waits {s : State} (h : s.job.st ≠ 6 ∨ quiet s = false) : exec .jobEnded s = .next s := by
  refine whenever_of_false _ s ?_
  rcases h with hst | hq
  · rw [decide_eq_false hst, Bool.false_and]
  · rw [hq, Bool.and_false]

theorem endedState_frame (s : State) : endedState s = { s with
    job := { s.job with st := 7 }
    mem := (endedState s).mem
    poison := (endedState s).poison
    writer := (endedState s).writer
    cranes := (resetAllTables s).cranes
    fields := (endedState s).fields
    free := (endedState s).free
    sec := (endedState s).sec } := by
  unfold endedState
  rw [rampDown_frame, (recordsRepair_writeFound _).frame, setJob_frame, resetAllTables_frame]

theorem endedState_cranes (s : State) : (endedState s).cranes = (resetAllTables s).cranes := by rw [endedState_frame]
theorem endedState_threads (s : State) : (endedState s).threads = s.threads := by rw [endedState_frame]
theorem endedState_job (s : State) : (endedState s).job = { s.job with st := 7 } := by rw [endedState_frame]

theorem pwrState_endedState (s : State) :
    pwrState (endedState s) = if pwrState s = 1 ∨ pwrState s = 2 then 3 else pwrState s := by
  have hkept : pwrState (writeFound (setJob (resetAllTables s) { s.job with st := 7 })) = pwrState s :=
    calc _ = pwrState (setJob (resetAllTables s) { s.job with st := 7 }) :=
          (recordsRepair_writeFound _).fields _ (by decide) (by decide)
      _ = pwrState (resetAllTables s) := fget_setJob _ _ _
      _ = pwrState s := pwrState_resetAllTables s
  rw [endedState, pwrState_rampDown, hkept]

theorem fget_endedState_other (s : State) {f : Field} (hpwr : fieldKey f ≠ fieldKey F.pwrStateState)
    (hfull : fieldKey f ≠ fieldKey F.secRepairFull) (hself : fieldKey f ≠ fieldKey F.secRepairSelfSigned) :
    fget (endedState s) f = fget (resetAllTables s) f := by
  rw [endedState, fget_rampDown_other _ hpwr, (recordsRepair_writeFound _).fields f hfull hself, fget_setJob]

theorem tablesReset_endedState (s : State) {c : Nat} (hc : c < 16) : TablesReset c (endedState s) := by
  obtain ⟨hact, hebb, hflood⟩ := tablesReset_resetAllTables s hc
  have hcrane : crane (endedState s) c = crane (resetAllTables s) c := by
    rw [crane, crane, endedState_cranes]
  have hkey {f : Field} (hf : f.off + 8 ≤ 0x801000 ∧ f.lo < 64) : fieldKey (F.craneActGenFloodValid c) ≠ fieldKey f := by
    simp only [fieldKey, F.craneActGenFloodValid]
    omega
  rw [TablesReset, hcrane, fget_endedState_other s (hkey (by decide)) (hkey (by decide)) (hkey (by decide))]
  exact ⟨hact, hebb, hflood⟩

theorem memKept_endedState (s : State) : memKept [(statusPage, 41)] s (endedState s) := by
  have hreset : (resetAllTables s).mem = s.mem := by rw [resetAllTables_frame]
  have hmem : (endedState s).mem = (setJob (resetAllTables s) { s.job with st := 7 }).mem :=
    (rampDown_mem _).trans (writeFound_mem _)
  have hshown := memKept_setJob (resetAllTables s) { s.job with st := 7 }
  intro a h
  calc memByte (endedState s) a = memByte (setJob (resetAllTables s) { s.job with st := 7 }) a := memByte_eq_of_mem hmem a
    _ = memByte (resetAllTables s) a := hshown a h
    _ = memByte s a := memByte_eq_of_mem hreset a

/-! What ABORT and the end of a job leave. -/

theorem exec_abort_tooLate {s : State} (hcmd : s.job.cmd = some 3) (hramp : s.job.ramping = false) (hst : s.job.st = 4)
    (hlate : s.job.commitNs.toNat < s.tide.now + 16384) : exec .abort s = .next (ack s 4 0xB 0) := by
  rw [exec_abort hcmd hramp, if_pos ⟨hst, hlate⟩]

/-- An ABORT that is not too late makes the module IDLE, and releases what a job that was not rejected holds. -/
theorem exec_abort_inTime {s : State} (hcmd : s.job.cmd = some 3) (hramp : s.job.ramping = false)
    (htime : ¬ (s.job.st = 4 ∧ s.job.commitNs.toNat < s.tide.now + 16384)) :
    ∃ u, exec .abort s = .next u ∧ u.job.st = 0 ∧ u.job.result = 0 ∧ u.job.cmd = none ∧
      (s.job.st ≠ 3 → (∀ d n, d < 2 → n < 16 → fget u (F.tugRegionBaseEn d n) = 0) ∧
        (∀ d c, d < 2 → c < 8 → fget u (F.tugCqBindEn d c) = 0) ∧
        (ownedBy s .fw = true → (stageState s = 2 ∨ stageState s = 4) → stageState u = 0)) := by
  rw [exec_abort hcmd hramp, if_neg htime]
  by_cases hst : s.job.st = 3
  · rw [if_pos hst]
    exact ⟨_, rfl, by simp, by simp, by simp, fun h => absurd hst h⟩
  · rw [if_neg hst]
    exact ⟨_, rfl, by simp, by simp, by simp, fun _ => aborted_state s⟩

/-- What the end of a job does at once (R370). -/
theorem stopByEnd_state (s : State) (cause : Nat) (detail : Word) :
    let u := stopByEnd s cause detail
    u.job.st = 6 ∧ u.job.endCause = cause ∧ u.job.endDetail = detail ∧ u.job.stopped = true ∧ u.job.endAt = none ∧
      u.tide.due = [] ∧ u.tide.dls = [] ∧ u.ledger.flips = [] ∧ u.cranes = s.cranes ∧ u.barges = s.barges ∧
      u.ports = s.ports ∧ u.cores = s.cores ∧ memKept [(statusPage, 41)] s u ∧
      readBytes u statusPage 41 = statusBytes u.job ∧
      (∀ t, isJobThread t = true → (thread u t).st = .parked) ∧
      (∀ t, isJobThread t = false → thread u t = thread s t) := by
  have hmem : (stoppedWork s).mem = s.mem := by rw [stoppedWork_frame]
  refine ⟨?_, ?_, ?_, ?_, ?_, ?_, ?_, ?_, ?_, ?_, ?_, ?_, fun a h => ?kept, ?status, fun t ht => ?job, fun t ht => ?firmware⟩
  case kept => exact (memKept_setJob (stoppedWork s) _ a h).trans (memByte_eq_of_mem hmem a)
  case status => rw [stopByEnd_eq, status_setJob, setJob_job]
  case job => rw [thread_stopByEnd, thread_parkJobThreads_job s ht]
  case firmware => rw [thread_stopByEnd, thread_parkJobThreads_firmware s ht]
  all_goals
    simp only [stopByEnd_eq, setJob_job, setJob_tide, setJob_ledger, setJob_cranes, setJob_barges, setJob_ports, setJob_cores]
  all_goals rw [stoppedWork_frame]

/-- Settles O51: each launch command by the state that it meets, and the end of a job by what it parks, keeps and resets. -/
theorem armAbortAndEndFollowTheLaunchState : Obligations.ArmAbortAndEndFollowTheLaunchState := by
  unfold Obligations.ArmAbortAndEndFollowTheLaunchState
  refine ⟨⟨fun s hcmd hramp => ?arm, fun s hcmd hramp => ⟨fun hst hlate => ?tooLate, exec_abort_inTime hcmd hramp⟩,
      fun s hcmd hramp => ?endCmd, fun s o hcmd => exec_launchCommands_idle o hcmd⟩,
    stopByEnd_state, fun s t hend => ⟨fun hst hnow => ?instant, fun hnot => ?notYet⟩, fun s hnone => ?noEnd,
    fun s hst => ⟨fun d hf => whenever_of_true _ s (programFault_ends hst hf),
      fun c hf => whenever_of_true _ s (programFault_ends hst hf), fun d hf => ?barge,
      fun hf => whenever_of_true _ s (programFault_ends (f := .storageDigest) hst hf)⟩,
    fun f s h => exec_programFaultEnd_none f h,
    fun s hst => ⟨fun hq => ?ended, fun hq => exec_jobEnded_waits (.inr hq)⟩, fun s hst => exec_jobEnded_waits (.inl hst)⟩
  case arm =>
    refine ⟨fun hbusy => ⟨ack s 2 3 0, ?_, armDone_ack s 2 3 0, by simp, by simp⟩,
      fun h1 h4 hinstant => ⟨ack s 2 0xA 0, ?_, armDone_ack s 2 0xA 0, by simp, by simp, ack_fields s 2 0xA 0⟩,
      fun hat hfar => ⟨fun hst hown hgroups => ⟨_, ?_, armed_state s (lpAt_lt _)⟩,
        fun h1 h4 hpass => ⟨ack (rampDown s) 3 7 (fget s F.tideStageStatusFailCode), ?_, ?_, by simp, by simp⟩⟩⟩
    · rw [exec_arm hcmd hramp, if_pos ((stagingBusy_iff s).2 hbusy)]
    · rw [exec_arm hcmd hramp, if_neg (mt (stagingBusy_iff s).1 (not_or.2 ⟨h1, h4⟩))]
      exact congrArg _ (if_pos hinstant)
    · exact exec_arm_accepted hcmd hramp hat hfar ((passStands_iff s).2 ⟨hst, hown, hgroups⟩)
    · rw [exec_arm hcmd hramp, if_neg (mt (stagingBusy_iff s).1 (not_or.2 ⟨h1, h4⟩)), if_neg (mt (passStands_iff s).1 hpass)]
      exact congrArg _ (if_neg (not_or.2 ⟨fun hne => hne hat, Nat.not_lt.2 hfar⟩))
    · have hdone := armDone_ack (rampDown s) 3 7 (fget s F.tideStageStatusFailCode)
      rwa [ArmDone, rampDown_job, rampDown_threads] at hdone
  case tooLate => exact ⟨_, exec_abort_tooLate hcmd hramp hst hlate, by simp, by simp, ack_fields _ _ _ _, ack_stage _ _ _ _⟩
  case endCmd => exact ⟨_, exec_endCmd hcmd hramp, by simp, by simp, by simp, by rw [ack_job, setJob_job]; rfl, by simp, by simp⟩
  case instant =>
    rw [exec_endInstant_due hend]
    exact whenever_of_true _ s (by rw [decide_eq_true hst, decide_eq_true hnow, Bool.and_self])
  case notYet =>
    rw [exec_endInstant_due hend]
    refine whenever_of_false _ s ?_
    rcases hnot with hst | hnow
    · rw [decide_eq_false hst, Bool.false_and]
    · rw [decide_eq_false (Nat.not_le.2 hnow), Bool.and_false]
  case noEnd =>
    rw [exec_endInstant_eq, execEndInstant, hnone]
    rfl
  case barge =>
    have hf' : faultCaptured s (.barge d) = true := List.contains_iff_mem.2 hf
    exact whenever_of_true _ s (programFault_ends hst hf')
  case ended =>
    refine ⟨_, exec_jobEnded_quiet hst hq, ?_, pwrState_endedState s, endedState_threads s,
      fun c hc => tablesReset_endedState s hc, memKept_endedState s⟩
    rw [endedState_job]

end Sys2Proof.Machine
end
